-- ==== Sys2Proof/Word.lean ====
section
/-!
DEFINITION. The words of the part: bytes, and tables of a fixed number of like things.

A byte is what the manual treats as bits. A table (`Tab`) is a list that carries its own length, so
that a channel, slot, line or strip number always finds its record.
-/

namespace Sys2Proof

/-- One byte, as it travels on a line (R196). -/
abbrev Byte := BitVec 8

/-- A table of exactly `n` records: the channel records, the faders, the lines. Plain data. -/
structure Tab (n : Nat) (α : Type) where
  /-- The records, in order of their number. -/
  data : List α
  /-- There are exactly `n` of them. -/
  size : data.length = n
deriving DecidableEq, Repr

namespace Tab

variable {n : Nat} {α β : Type}

/-- The record with index `i`. -/
def get (t : Tab n α) (i : Fin n) : α :=
  t.data[i.val]'(by rw [t.size]; exact i.isLt)

/-- The table with the record of index `i` replaced. -/
def set (t : Tab n α) (i : Fin n) (a : α) : Tab n α :=
  ⟨t.data.set i.val a, by rw [List.length_set, t.size]⟩

/-- The table with `f` applied to the record of index `i`. -/
def modify (t : Tab n α) (i : Fin n) (f : α → α) : Tab n α :=
  t.set i (f (t.get i))

/-- A table whose records are all `a`. -/
def replicate (n : Nat) (a : α) : Tab n α :=
  ⟨List.replicate n a, List.length_replicate⟩

/-- The table whose record of index `i` is `f i`. -/
def build (n : Nat) (f : Fin n → α) : Tab n α :=
  ⟨(List.finRange n).map f, by rw [List.length_map, List.length_finRange]⟩

/-- The table with `f` applied to every record. -/
def map (f : α → β) (t : Tab n α) : Tab n β :=
  ⟨t.data.map f, by rw [List.length_map, t.size]⟩

end Tab

end Sys2Proof
end

