-- ==== Sys2Proof/Syntax.lean ====
section
/-!
DEFINITION. The commands the part takes: one constructor of `Instr` for each row of
spec/opcode_table.json, with the operands the rule of the row names.

A link request carries how it was addressed and its body bytes as they came over the link (R175,
R197), so that a wrong body length, an unknown code and a value outside its range are commands like
any other. An event of the field lines or of the part's own timers carries the channel, slot or line
it happens on. Numbers that are operands here are indexes from 0: channel 1 of the manual is
`(0 : Chan)`, slot 1 is `(0 : Slot)`, group master *g* is index `47 + g`.
-/

namespace Sys2Proof

/-- A channel of the Channel Table, by index: indexes 0..47 are strips 1..48, 48..55 are group
masters (R1). -/
abbrev Chan := Fin 56

/-- A strip, by index (R1). -/
abbrev Strip := Fin 48

/-- A slot of the fader surface, by index: its fader, touch line and mute key (R129). -/
abbrev Slot := Fin 16

/-- One of the four gain output lines, by index (R160). -/
abbrev GainNo := Fin 4

/-- How a request was addressed: to this part's own address, or to the broadcast address 31
(R174). -/
inductive Dest where
  | own
  | broadcast
deriving DecidableEq, Repr

/-- The two causes of a form fault (R176, R177). -/
inductive FormFault where
  /-- The length character is 0 or above 249. -/
  | length
  /-- The collection is abandoned by an address character, which opens a collection of its own when
  it is for this part (the way it is addressed) and does not otherwise (`none`). -/
  | abandoned (opens : Option Dest)
deriving DecidableEq, Repr

/-- The four cue contact lines (R149). -/
inductive ContactLine where
  | cgo
  | cback
  | chold
  | csafe
deriving DecidableEq, Repr

/-- The place of a contact line in the order CGO, CBACK, CHOLD, CSAFE (R155). -/
def ContactLine.index : ContactLine → Fin 4
  | .cgo => 0
  | .cback => 1
  | .chold => 2
  | .csafe => 3

/-- A line on which frames are sent: a gain line or the surface line (R166, R169). -/
inductive OutLine where
  | gain (line : GainNo)
  | surface
deriving DecidableEq, Repr

/-- The commands of the part, one for each row of spec/opcode_table.json. -/
inductive Instr where
  /-- NOP (R185). Request that only restarts the silence watchdog and is answered OK with no payload. -/
  | nop (dest : Dest) (body : List Byte)
  /-- LINK_SETUP (R184). Request that writes the link rate divider and the silence limit. -/
  | linkSetup (dest : Dest) (body : List Byte)
  /-- LINK_QUERY (R185). Request that reports the link error counters, the rate divider, the watchdog and the strapped address. -/
  | linkQuery (dest : Dest) (body : List Byte)
  /-- EVENTS_SETUP (R190). Request that writes the report enables, the notice reporting enable and the three acts as a whole. -/
  | eventsSetup (dest : Dest) (body : List Byte)
  /-- EVENTS_READ (R191). Request that reports the pending flags of one group and clears them, or with group 0 reads the summary without clearing. -/
  | eventsRead (dest : Dest) (body : List Byte)
  /-- RESTART (R193). Request carrying step 1..3 that drives the restart sequence toward a link restart. -/
  | restart (dest : Dest) (body : List Byte)
  /-- RESTART_QUERY (R194). Request that reports the five fields of the restart record. -/
  | restartQuery (dest : Dest) (body : List Byte)
  /-- CHANNEL_SETUP (R13). Request that writes a channel's whole configuration record and re-derives its GROUP source. -/
  | channelSetup (dest : Dest) (body : List Byte)
  /-- TRIM (R15). Request that sets one channel's trim, clamped to -200..+100. -/
  | trim (dest : Dest) (body : List Byte)
  /-- MUTE_REMOTE (R16). Request that sets or clears the REMOTE mute source of one channel. -/
  | muteRemote (dest : Dest) (body : List Byte)
  /-- CHANNEL_QUERY (R17). Request that reports one channel's configuration, levels, hand state, mute sources and active move summary. -/
  | channelQuery (dest : Dest) (body : List Byte)
  /-- LEVEL (R105). Request that replaces a channel's active move with a REMOTE level move of its own target, time and curve. -/
  | level (dest : Dest) (body : List Byte)
  /-- CUE_PUT (R50). Request that creates a cue, or replaces an existing cue's header with or without keeping its moves. -/
  | cuePut (dest : Dest) (body : List Byte)
  /-- MOVES_ADD (R53). Request that appends 1..24 stored moves to one cue, all or nothing. -/
  | movesAdd (dest : Dest) (body : List Byte)
  /-- CUE_DELETE (R55). Request that removes one cue, returns its moves to the pool and updates the playhead. -/
  | cueDelete (dest : Dest) (body : List Byte)
  /-- LIST_CLEAR (R56). Request that empties the cue store in EDIT. -/
  | listClear (dest : Dest) (body : List Byte)
  /-- CUE_QUERY (R57). Request that reports one cue's header, move count and place in the list. -/
  | cueQuery (dest : Dest) (body : List Byte)
  /-- MOVES_QUERY (R58). Request that reports a run of one cue's stored moves. -/
  | movesQuery (dest : Dest) (body : List Byte)
  /-- LIST_QUERY (R59). Request that reports cue numbers from a starting number, with the cue count and the pool free count. -/
  | listQuery (dest : Dest) (body : List Byte)
  /-- SHOW_START (R61). Request that moves the part from EDIT to SHOW and arms a CLOCK next cue. -/
  | showStart (dest : Dest) (body : List Byte)
  /-- SHOW_END (R62). Request that returns the part from SHOW to EDIT when the flight table is empty. -/
  | showEnd (dest : Dest) (body : List Byte)
  /-- GO (R69). Request that fires the next cue in SHOW or resumes a held show, subject to the GO gate. -/
  | go (dest : Dest) (body : List Byte)
  /-- BACK (R80). Request that moves the next cue back one cue without firing. -/
  | back (dest : Dest) (body : List Byte)
  /-- HOLD (R63). Request that puts a show in SHOW into HOLD. -/
  | hold (dest : Dest) (body : List Byte)
  /-- RESUME (R64). Request that returns a held show to SHOW and brings the arm record up to date. -/
  | resume (dest : Dest) (body : List Byte)
  /-- STOP (R81). Request that clears every move and firing and empties the arm record while keeping the show state and playhead. -/
  | stop (dest : Dest) (body : List Byte)
  /-- SAFE (R65). Request that enters SAFE with the clearing of STOP and sets the return state. -/
  | safe (dest : Dest) (body : List Byte)
  /-- SAFE_RELEASE (R66). Request that leaves SAFE for the return state and clears every SAFE source. -/
  | safeRelease (dest : Dest) (body : List Byte)
  /-- GOTO (R82). Request that starts a tracking scan toward a chosen cue and empties the arm record. -/
  | gotoCue (dest : Dest) (body : List Byte)
  /-- NOTICES_READ (R87). Request that hands back and removes the oldest notices from the notice queue. -/
  | noticesRead (dest : Dest) (body : List Byte)
  /-- SHOW_QUERY (R88). Request that reports the show state, playhead, flight table, arm record, scan, gate time and notice counts. -/
  | showQuery (dest : Dest) (body : List Byte)
  /-- CLOCK_SETUP (R126). Request that writes the seven show clock settings, clamped to their ranges. -/
  | clockSetup (dest : Dest) (body : List Byte)
  /-- CLOCK_QUERY (R128). Request that reports the clock state, position, rate, song, counts, clock point and settings. -/
  | clockQuery (dest : Dest) (body : List Byte)
  /-- SURFACE_SETUP (R146). Request that writes the scanner mode, scan period, hysteresis, wiper tolerance and Qt. -/
  | surfaceSetup (dest : Dest) (body : List Byte)
  /-- BANK_PUT (R134). Request that writes one whole bank of 16 slots and applies it to the faders if the bank is active. -/
  | bankPut (dest : Dest) (body : List Byte)
  /-- BANK_SELECT (R135). Request that makes a bank active and remaps free faders at once and held faders at their release. -/
  | bankSelect (dest : Dest) (body : List Byte)
  /-- SURFACE_QUERY (R147). Request that reports the surface configuration, every slot's state and optionally one bank. -/
  | surfaceQuery (dest : Dest) (body : List Byte)
  /-- CONTACT_SETUP (R155). Request that writes Qc, the four contact polarities and the GO guard. -/
  | contactSetup (dest : Dest) (body : List Byte)
  /-- CONTACT_QUERY (R156). Request that reports each contact line's qualified state and polarity, Qc, the guard and the ignored count. -/
  | contactQuery (dest : Dest) (body : List Byte)
  /-- OUTPUT_SETUP (R170). Request that stores the frame period and the four line dividers, to come into force at the next frame event. -/
  | outputSetup (dest : Dest) (body : List Byte)
  /-- ROUTE_PUT (R163). Request that places one strip on a line slot or unroutes it. -/
  | routePut (dest : Dest) (body : List Byte)
  /-- ROUTE_QUERY (R164). Request that reports the routing map by strip or by line. -/
  | routeQuery (dest : Dest) (body : List Byte)
  /-- OUTPUT_QUERY (R171). Request that reports the output configurations, frame count and each line's shift, stage and late counter. -/
  | outputQuery (dest : Dest) (body : List Byte)
  /-- UNKNOWN_TYPE (R178). A good request whose type code names no request, answered UNKNOWN_TYPE without being applied. -/
  | unknownType (dest : Dest) (code : Byte) (body : List Byte)
  /-- REQUEST_OVERRUN (R179). A good request arriving while two requests are held is dropped, counted as overrun and raises LINK_ERROR. -/
  | requestOverrun
  /-- LINK_FRAMING_FAULT (R177). A character with a bad stop bit during a collection discards it, is counted and raises LINK_ERROR. -/
  | linkFramingFault
  /-- LINK_GAP_FAULT (R177). More than four character times between characters of a collection discards it, is counted and raises LINK_ERROR. -/
  | linkGapFault
  /-- LINK_FORM_FAULT (R176). A bad length or a collection abandoned by a new address character is counted as a form error and raises LINK_ERROR. -/
  | linkFormFault (how : FormFault)
  /-- LINK_CHECK_FAULT (R177). A message whose check sum is not 0 modulo 256 is discarded, counted and raises LINK_ERROR. -/
  | linkCheckFault
  /-- REPLY_SEND (R180). A ready reply starts its send once older replies have been sent and the two-character turnarounds have passed. -/
  | replySend
  /-- REPLY_END (R181). The end of a reply's check character releases LDE and lets its request leave the buffer. -/
  | replyEnd
  /-- LINK_SILENCE (R183). The silence timer reaches its limit, the watchdog becomes EXPIRED and LINK_SILENCE is raised with its act. -/
  | linkSilence
  /-- RESTART_WINDOW_LAPSE (R193). The 1000 ms restart window runs out before step 3 and the sequence returns to IDLE. -/
  | restartWindowLapse
  /-- POWER_ON (R192). Supply comes up; retained memory takes its power-on values and every block's running state is set afresh. -/
  | powerOn (straps : BitVec 5)
  /-- RESET_PIN (R192). RESETn goes low; the reset is taken, the restart record is written and the part is held. -/
  | resetPin (straps : BitVec 5)
  /-- RESET_PIN_RELEASE (R192). RESETn returns high and every block's time-based behaviour starts counting. -/
  | resetPinRelease
  /-- TIME_MARK (R112). A complete eight-character time mark arrives on TMIN and is judged and, if good, acted on. -/
  | timeMark (song : Byte) (position : BitVec 32) (flags : Byte) (check : Byte)
  /-- MARK_FRAMING_FAULT (R112). A mark character with a bad stop bit abandons the mark as a bad mark. -/
  | markFramingFault
  /-- MARK_GAP_FAULT (R112). More than 160 us between mark characters abandons the mark as a bad mark. -/
  | markGapFault
  /-- MARK_TIMEOUT (R120). The mark timer reaches the mark timeout in LOCKING or LOCKED, giving NONE, FREEWHEEL or LOST. -/
  | markTimeout
  /-- FREEWHEEL_LIMIT (R121). The freewheel timer reaches the freewheel limit, the clock becomes LOST and CLOCK_LOST is raised with its act. -/
  | freewheelLimit
  /-- CLOCK_ADVANCE (R114). Each wall millisecond P advances by rho/65536 ms and the clock-locked advance is handed out. -/
  | clockAdvance
  /-- WAIT_EXPIRY (R77). A WAITING arm's remaining time reaches 0 in SHOW and the next cue fires with cause FOLLOW or WITH. -/
  | waitExpiry
  /-- GOTO_COMPLETE (R84). The tracking scan completes: clear moves and firings, make LOAD moves, set CUE, place the playhead, arm and reply. -/
  | gotoComplete
  /-- MOVE_START (R94). A pending move's remaining delay reaches 0 and the move leaves the pending list and starts. -/
  | moveStart (channel : Chan)
  /-- MOVE_COMPLETE (R99). An active LEVEL move's elapsed time reaches its duration; A is set to the target and the end is counted to its owner. -/
  | moveComplete (channel : Chan)
  /-- PASS_END (R130). At the end of each scan pass every fader's reading is judged and may become its new accepted position. -/
  | passEnd (readings : Tab 16 (BitVec 10))
  /-- QUALIFIED_TOUCH (R138). A qualified touch makes its fader HOLDING and the channel HELD, or BLOCKED with TOUCH_BLOCKED, or is ignored. -/
  | qualifiedTouch (slot : Slot)
  /-- QUALIFIED_RELEASE (R139). A qualified release of a HOLDING fader frees it and hands the channel back in RETURN or KEEP mode. -/
  | qualifiedRelease (slot : Slot)
  /-- KEY_PRESS (R143). A qualified press of a mute key toggles the OPERATOR source of its mapped channel. -/
  | keyPress (slot : Slot)
  /-- KEY_RELEASE (R132). A qualified change of a key to inactive updates its qualified state only. -/
  | keyRelease (slot : Slot)
  /-- CONTACT_GO_PRESS (R151). A qualified press of CGO hands a GO with no expected cue to the sequencer, counting a refusal with GO_IGNORED. -/
  | contactGoPress
  /-- CONTACT_BACK_PRESS (R152). A qualified press of CBACK hands a BACK to the sequencer, counting a refusal with GO_IGNORED. -/
  | contactBackPress
  /-- CONTACT_HOLD_PRESS (R152). A qualified press of CHOLD holds a show in SHOW and otherwise changes nothing. -/
  | contactHoldPress
  /-- CONTACT_SAFE_PRESS (R152). A qualified press of CSAFE enters SAFE from EDIT, SHOW or HOLD. -/
  | contactSafePress
  /-- CONTACT_RELEASE (R149). A qualified release of a contact line updates its qualified state and produces nothing. -/
  | contactRelease (line : ContactLine)
  /-- FRAME_EVENT (R159). The frame timer expires: step mutes, form levels and gain words, build the gain and surface frames and place them on their lines. -/
  | frameEvent
  /-- SEND_END (R166). A frame send ends on a line, which draws the staged frame into the shift or goes idle. -/
  | sendEnd (line : OutLine)
  /-- TRAFFIC_FOR_OTHER_PARTS (R180). Characters on LRX that are not this part's collection, such as requests for other parts or the replies of other parts, keep the receiver UNADDRESSED and restart the two-character wait of any ready reply. -/
  | trafficForOtherParts
deriving DecidableEq, Repr

end Sys2Proof
end

