-- ==== Sys2Proof/Machine/State.lean ====
section
/-!
DEFINITION. The state of the part: every register, table, queue, buffer, counter, mode and pin the
manual gives it (INVENTORY.md, "State", lists each with its rule and reset value), as plain data, and
`State.reset`, the part right after power-on.

Levels are whole numbers of tenths of a decibel (R20). Times are whole milliseconds, but for a move's
remaining delay and elapsed time and a WAITING arm's remaining time, which are counted in units of
1/65536 ms (R90, R77). Channels, slots, lines, strips, banks and groups are held by index from 0.
-/

namespace Sys2Proof.Machine

/-! ### Enumerated values (R198 gives their codes) -/

/-- Release mode of a channel (R2). -/
inductive ReleaseMode where
  | ret
  | keep
deriving DecidableEq, Repr

/-- Curve of a level move (R23). -/
inductive Curve where
  | linear
  | easeIn
  | easeOut
  | scurve
  | snapEnd
  | snapStart
deriving DecidableEq, Repr

/-- Time in which a move or wait advances (R102, R103). -/
inductive Timebase where
  | wall
  | clock
deriving DecidableEq, Repr

/-- What fires a cue once it is the next cue (R40). -/
inductive Trigger where
  | manual
  | follow
  | withCue
  | clock
deriving DecidableEq, Repr

/-- Action of a stored move (R41). -/
inductive Action where
  | level
  | mute
  | unmute
deriving DecidableEq, Repr

/-- Show state, and return state (R60). -/
inductive ShowState where
  | edit
  | running
  | hold
  | safe
deriving DecidableEq, Repr

/-- What fired a cue (R71). -/
inductive Cause where
  | goContact
  | goLink
  | follow
  | withCue
  | clock
deriving DecidableEq, Repr

/-- Kind of a notice (R86). -/
inductive NoticeKind where
  | fired
  | complete
  | retired
  | cleared
deriving DecidableEq, Repr

/-- State of the show clock (R113). -/
inductive ClockState where
  | none
  | locking
  | locked
  | freewheel
  | stopped
  | lost
deriving DecidableEq, Repr

/-- State of the mark receiver (R111): while it collects, the characters of the mark taken after its
sync, in order. -/
inductive MarkReceiver where
  | hunt
  | collect (taken : List Byte)
deriving DecidableEq, Repr

/-- Mode of the wiper scanner (R129). -/
inductive ScanMode where
  | sequential
  | paired
deriving DecidableEq, Repr

/-- State of a fader (R137). -/
inductive FaderState where
  | free
  | holding
  | blocked
deriving DecidableEq, Repr

/-- Polarity of a contact line (R149). -/
inductive Polarity where
  | activeLow
  | activeHigh
deriving DecidableEq, Repr

/-- State of the link receiver (R176): while it collects, how the message is addressed, its length N,
and the type and body characters taken so far, in order. -/
inductive Receiver where
  | unaddressed
  | length (dest : Dest)
  | body (dest : Dest) (n : Nat) (taken : List Byte)
  | check (dest : Dest) (n : Nat) (taken : List Byte)
deriving DecidableEq, Repr

/-- State of the silence watchdog (R183). -/
inductive Watchdog where
  | off
  | running
  | expired
deriving DecidableEq, Repr

/-- Act of an act-capable event (R188). -/
inductive Act where
  | none
  | hold
  | safe
deriving DecidableEq, Repr

/-- State of the restart sequence (R193). -/
inductive RestartSequence where
  | idle
  | step1
  | step2
  | due
deriving DecidableEq, Repr

/-- Cause of a reset (R192). -/
inductive ResetCause where
  | powerOn
  | resetPin
  | linkRestart
deriving DecidableEq, Repr

/-! ### The input pins -/

/-- A character on the link between its start and stop bits: the 8 data bits and the marker bit, set in
the address character that opens a message and clear in every other (R173, R196). -/
structure LinkChar where
  data : Byte
  marker : Bool
deriving DecidableEq, Repr

/-- A character heard on LRX: the crystal cycles of quiet between the end of the character before it and
its start, what it carries, whether its stop bit is good, and the cycles since the end of that stop bit, as
the last CLOCK_ADVANCE found them (R173, R177, R181). -/
structure LinkHeard where
  quiet : Nat
  char : LinkChar
  stop : Bool
  ago : Nat
deriving DecidableEq, Repr

/-- A character heard on TMIN: the crystal cycles of quiet before it, its 8 data bits, and whether its
stop bit is good (R111, R112). -/
structure MarkHeard where
  quiet : Nat
  data : Byte
  stop : Bool
deriving DecidableEq, Repr

/-- A character under way on a line when a millisecond ends, its stop bit still to come: the crystal
cycles of quiet between the end of the character before it and its start, and the cycles since its start
(R112, R177, R180). -/
structure Begun where
  quiet : Nat
  since : Nat
deriving DecidableEq, Repr

/-- What the input pins show in one wall millisecond: the levels at which the touch lines, mute keys
(true when low, which is active, R132), contact lines (true when high, R149) and straps stand at its
sample, the characters that LRX and TMIN brought in it (R111, R173), and the character that each line has
begun and not ended at its end, if there is one (R112, R177, R180). -/
structure Pins where
  touch : Tab 16 Bool
  keys : Tab 16 Bool
  contacts : Tab 4 Bool
  straps : BitVec 5
  lrx : List LinkHeard
  tmin : List MarkHeard
  lrxBegun : Option Begun
  tminBegun : Option Begun
deriving DecidableEq, Repr

/-! ### Channel Table -/

/-- Configuration of a channel (R2). The group of a strip is an index 0..7 of groups 1..8. -/
structure ChannelConfig where
  group : Option (Fin 8)
  base : Int
  trim : Int
  muteRamp : Nat
  release : ReleaseMode
  returnTime : Nat
deriving DecidableEq, Repr

/-- Power-on configuration of a channel (R2). -/
def ChannelConfig.powerOn : ChannelConfig :=
  { group := none, base := -800, trim := 0, muteRamp := 10, release := .ret, returnTime := 500 }

/-- Hand state of a channel with what belongs to it (R5): the hand level H while HELD, the glide
record (H0, milliseconds since the release, return time) while GLIDING. -/
inductive Hand where
  | free
  | held (level : Int)
  | gliding (start : Int) (since : Nat) (time : Nat)
deriving DecidableEq, Repr

/-- Owner of a move (R90): a firing with the cue it fired, REMOTE or LOAD. -/
inductive Owner where
  | firing (id : Nat) (cue : Nat)
  | remote
  | load
deriving DecidableEq, Repr

/-- The active level move of a channel (R90). -/
structure ActiveMove where
  target : Int
  duration : Nat
  curve : Curve
  base : Timebase
  owner : Owner
  /-- Start level S. -/
  start : Int
  /-- Elapsed time, in 1/65536 ms. -/
  elapsed : Nat
deriving DecidableEq, Repr

/-- A move in a pending list (R90). Target, duration and curve are a LEVEL move's; a MUTE or UNMUTE
move holds the values its stored move holds for them (R41). Its owner is the firing `firing` of cue
`cue`. `counted` is the model's own: a millisecond of the delay has been counted since the move was placed,
so that its start can fall due at all (R110, log entry 30). -/
structure PendingMove where
  action : Action
  target : Int
  duration : Nat
  curve : Curve
  /-- Remaining delay, in 1/65536 ms. -/
  delay : Nat
  base : Timebase
  firing : Nat
  cue : Nat
  counted : Bool
deriving DecidableEq, Repr

/-- One channel record (R1): configuration and running state. GROUP, SAFE and V are derived. -/
structure Channel where
  cfg : ChannelConfig
  /-- The automation level A (R4). -/
  level : Int
  hand : Hand
  cue : Bool
  operator : Bool
  remote : Bool
  /-- The mute factor m (R10). -/
  mute : Nat
  limited : Bool
  /-- The effective level E of the last frame event (R11). -/
  effective : Int
  active : Option ActiveMove
  /-- The pending list (R93). -/
  waiting : List PendingMove
deriving DecidableEq, Repr

/-- A channel with configuration `c` right after a reset: A at the base level, no hand, no stored mute
source, no move, and mute factor `m` (R4, R5, R7, R10, R11, R91). -/
def Channel.afterReset (c : ChannelConfig) (m : Nat) : Channel :=
  { cfg := c, level := c.base, hand := .free, cue := false, operator := false, remote := false,
    mute := m, limited := false, effective := -800, active := none, waiting := [] }

/-! ### Cue Store -/

/-- A stored move (R41). -/
structure StoredMove where
  channel : Chan
  action : Action
  target : Int
  delay : Nat
  duration : Nat
  curve : Curve
deriving DecidableEq, Repr

/-- A cue record (R40). -/
structure Cue where
  number : Nat
  trigger : Trigger
  wait : Nat
  base : Timebase
  song : Nat
  position : Nat
  moves : List StoredMove
deriving DecidableEq, Repr

/-! ### Show Sequencer -/

/-- An entry of the flight table (R71). -/
structure Firing where
  id : Nat
  cue : Nat
  cause : Cause
  outstanding : Nat
deriving DecidableEq, Repr

/-- The arm record (R75). A WAITING arm's remaining time is in 1/65536 ms, with the next cue's
timebase beside it. -/
inductive Arm where
  | empty
  | await (id : Nat)
  | waiting (left : Nat) (base : Timebase)
  | clock (song : Nat) (position : Nat)
deriving DecidableEq, Repr

/-- A tracking scan in flight (R82): the cue, the load time as kept, whether it was clamped, and the
milliseconds since it was taken (the model's own, for the bound of 40 ms). -/
structure Scan where
  cue : Nat
  loadTime : Nat
  clamped : Bool
  age : Nat
deriving DecidableEq, Repr

/-- A notice (R86). The cause is there for FIRED alone. -/
structure Notice where
  kind : NoticeKind
  cue : Nat
  firing : Nat
  cause : Option Cause
deriving DecidableEq, Repr

/-- The Show Sequencer (R60, R67, R68, R71, R75, R82, R86). `crossed` is the model's own: the cue that a
crossing has fired in the present millisecond, the last one where there were two, against which an edit
falls together (R49, log entry 26). -/
structure Sequencer where
  state : ShowState
  ret : ShowState
  next : Option Nat
  standing : Option Nat
  flight : List Firing
  nextId : Nat
  arm : Arm
  scan : Option Scan
  gateTime : Nat
  notices : List Notice
  overflow : Nat
  crossed : Option Nat
deriving DecidableEq, Repr

/-- The sequencer right after a reset that brings it up in `state` with return state `ret` and this
playhead (R89). -/
def Sequencer.afterReset (state ret : ShowState) (next standing : Option Nat) : Sequencer :=
  { state, ret, next, standing, flight := [], nextId := 1, arm := .empty, scan := none,
    gateTime := 65535, notices := [], overflow := 0, crossed := none }

/-! ### Show Clock -/

/-- The seven clock settings (R126). -/
structure ClockConfig where
  markDelay : Nat
  lockWindow : Nat
  relocate : Nat
  markTimeout : Nat
  freewheel : Nat
  phaseDepth : Nat
  rateDepth : Nat
deriving DecidableEq, Repr

/-- Power-on clock settings (R126). -/
def ClockConfig.powerOn : ClockConfig :=
  { markDelay := 0, lockWindow := 20, relocate := 100, markTimeout := 100, freewheel := 2000,
    phaseDepth := 2, rateDepth := 6 }

/-- The Show Clock (R111, R113, R123, R126). `rate` is ρ in units of 1/65536. `line` holds the
characters that TMIN has brought and the receiver has not judged yet, `begun` the character under way
there, and `quiet` the crystal cycles since the last one ended, stopping at `markQuietMax`. -/
structure Clock where
  state : ClockState
  whole : Nat
  frac : Nat
  rate : Nat
  song : Nat
  good : Nat
  markTimer : Nat
  freewheelTimer : Nat
  errors : Nat
  /-- The clock point held: song and position (R123). -/
  point : Option (Nat × Nat)
  receiver : MarkReceiver
  line : List MarkHeard
  begun : Option Begun
  quiet : Nat
  cfg : ClockConfig
deriving DecidableEq, Repr

/-- One wall millisecond in cycles of the 18.432 MHz crystal (00_scope.md, Part clock). -/
def millisecond : Nat := 18432

/-- The quiet on TMIN is counted up to one millisecond, past the gap of 160 µs that R112 judges. -/
def markQuietMax : Nat := 18432

/-- The clock right after a reset, with the settings it has (R113). -/
def Clock.afterReset (cfg : ClockConfig) : Clock :=
  { state := .none, whole := 0, frac := 0, rate := 65536, song := 0, good := 0, markTimer := 0,
    freewheelTimer := 0, errors := 0, point := none, receiver := .hunt, line := [],
    begun := none, quiet := markQuietMax, cfg }

/-! ### Fader Surface -/

/-- The surface configuration (R146). -/
structure SurfaceConfig where
  mode : ScanMode
  period : Nat
  hysteresis : Nat
  tolerance : Nat
  qualify : Nat
deriving DecidableEq, Repr

/-- Power-on surface configuration (R146). -/
def SurfaceConfig.powerOn : SurfaceConfig :=
  { mode := .sequential, period := 2, hysteresis := 2, tolerance := 8, qualify := 3 }

/-- A fader (R130, R131, R135, R137). `pending` is `none` for no pending mapping, and otherwise the
channel, or `some none` for channel 0. -/
structure Fader where
  position : Nat
  state : FaderState
  mapping : Option Chan
  pending : Option (Option Chan)
  disagree : Bool
deriving DecidableEq, Repr

/-- A fader that has just come into use with effective mapping `m` (R146, R148). -/
def Fader.fresh (m : Option Chan) : Fader :=
  { position := 0, state := .free, mapping := m, pending := none, disagree := false }

/-- A touch line or mute key (R132): the level at its pin (true when low, which is active), its
qualified state and its count. -/
structure TouchLine where
  level : Bool
  qualified : Bool
  count : Nat
deriving DecidableEq, Repr

/-- One bank: 16 slots, each a channel or none (R133). -/
abbrev Bank := Tab 16 (Option Chan)

/-- The Fader Surface Unit (R129 to R148). `passLeft` counts down the scan pass in progress. -/
structure Surface where
  cfg : SurfaceConfig
  banks : Tab 8 Bank
  activeBank : Fin 8
  faders : Tab 16 Fader
  touch : Tab 16 TouchLine
  keys : Tab 16 TouchLine
  wipers : Tab 16 (BitVec 10)
  passLeft : Nat
deriving DecidableEq, Repr

/-! ### Contact Inputs -/

/-- The contact configuration (R155). -/
structure ContactConfig where
  qualify : Nat
  polarity : Tab 4 Polarity
  guard : Nat
deriving DecidableEq, Repr

/-- Power-on contact configuration (R155). -/
def ContactConfig.powerOn : ContactConfig :=
  { qualify := 5, polarity := Tab.replicate 4 .activeLow, guard := 500 }

/-- A contact line (R149): the level at its pin (true when high), its qualified state (true when
active) and its count. -/
structure Contact where
  high : Bool
  qualified : Bool
  count : Nat
deriving DecidableEq, Repr

/-- The Contact Inputs (R149 to R157). Lines stand in the order CGO, CBACK, CHOLD, CSAFE. -/
structure Contacts where
  cfg : ContactConfig
  lines : Tab 4 Contact
  ignored : Nat
deriving DecidableEq, Repr

/-! ### Gain Output Unit -/

/-- A configuration of the output unit: frame period and line dividers (R158, R165). -/
structure OutputConfig where
  period : Nat
  dividers : Tab 4 Nat
deriving DecidableEq, Repr

/-- Power-on output configuration (R170). -/
def OutputConfig.powerOn : OutputConfig :=
  { period := 2, dividers := Tab.replicate 4 7 }

/-- The entry of one slot in a surface frame (R144). -/
structure SlotEntry where
  target : Nat
  drive : Bool
  tally : Bool
deriving DecidableEq, Repr

/-- A frame's contents: the gain words of a gain line's 64 slots (R160), or the 16 slot entries of the
surface line (R169). -/
inductive Content where
  | gain (words : List Nat)
  | surface (slots : List SlotEntry)
deriving DecidableEq, Repr

/-- A frame as built at a frame event: frame count, the two flags, and its contents (R160, R161). Its
bytes are given by `Frame.bytes`. -/
structure Frame where
  count : Nat
  safe : Bool
  hold : Bool
  content : Content
deriving DecidableEq, Repr

/-- A frame in a line's shift, with the crystal cycles of one of its bits, fixed when its send starts, and
the cycles left of its send (R165, R166). The count goes below 0 by the cycles that have passed since the
send ended. -/
structure Shifting where
  frame : Frame
  bitTime : Nat
  left : Int
deriving DecidableEq, Repr

/-- A gain output line: shift, stage and late counter (R166, R168). -/
structure GainLine where
  shift : Option Shifting
  stage : Option Frame
  late : Nat
deriving DecidableEq, Repr

/-- The Gain Output Unit (R158 to R172). `frameLeft` counts down to the next frame event. -/
structure Output where
  stored : OutputConfig
  inForce : OutputConfig
  routes : Tab 48 (Option (GainNo × Fin 64))
  frameCount : Nat
  lines : Tab 4 GainLine
  surfaceShift : Option Shifting
  surfaceStage : Option Frame
  frameLeft : Nat
deriving DecidableEq, Repr

/-- The output unit right after a reset, with what it retains (R172). -/
def Output.afterReset (stored : OutputConfig) (routes : Tab 48 (Option (GainNo × Fin 64))) : Output :=
  { stored, inForce := stored, routes, frameCount := 0,
    lines := Tab.replicate 4 { shift := none, stage := none, late := 0 },
    surfaceShift := none, surfaceStage := none, frameLeft := stored.period }

/-! ### Link Unit -/

/-- A reply (R180): the type it echoes, the result code and the payload. -/
structure Reply where
  code : Byte
  result : Byte
  payload : List Byte
deriving DecidableEq, Repr

/-- What the end of a reply brings about: a new rate divider (R184) or the link restart (R193). -/
inductive AfterReply where
  | nothing
  | setDivider (n : Nat)
  | linkRestart
deriving DecidableEq, Repr

/-- A request in the request buffer (R179). It has been served; its reply is `none` while it is held
back (a GOTO, R82). -/
structure Entry where
  reply : Option Reply
  after : AfterReply
deriving DecidableEq, Repr

/-- A reply on LTX (R181): its characters, the first with its marker bit set (R173), and the crystal
cycles left until its last stop bit ends. -/
structure Sending where
  message : List LinkChar
  left : Int
deriving DecidableEq, Repr

/-- The Link Unit (R173 to R186). `straps` is the level at the straps, `address` what the last reset
sampled there. `line` holds the characters that LRX has brought and the receiver has not judged yet, and
`begun` the character under way there. `rxQuiet` and `txQuiet` are the crystal cycles since the end of the
last character on LRX and since the end of the part's last reply, stopping at `quietMax`. -/
structure Link where
  straps : BitVec 5
  address : BitVec 5
  divider : Nat
  receiver : Receiver
  line : List LinkHeard
  begun : Option Begun
  buffer : List Entry
  sending : Option Sending
  rxQuiet : Nat
  txQuiet : Nat
  framing : Nat
  gap : Nat
  form : Nat
  check : Nat
  overrun : Nat
  limit : Nat
  watchdog : Watchdog
  timer : Nat
deriving DecidableEq, Repr

/-- One cycle more than four character times at the slowest rate: neither a wait of R180 nor a gap of R177
is longer. -/
def quietMax : Nat := 180225

/-- The link right after a reset, with the straps as they stand and the retained silence limit
(R186). -/
def Link.afterReset (straps : BitVec 5) (limit : Nat) : Link :=
  { straps, address := straps, divider := 9, receiver := .unaddressed, line := [],
    begun := none, buffer := [], sending := none,
    rxQuiet := quietMax, txQuiet := quietMax, framing := 0, gap := 0, form := 0, check := 0,
    overrun := 0, limit, watchdog := if limit = 0 then .off else .running, timer := 0 }

/-! ### Event Unit and restart record -/

/-- The Event Unit (R187 to R193). Flags and enables stand in the bit order of R197: bit 0 for
STATE_CHANGE to bit 20 for LEVEL_CLAMP. -/
structure Events where
  flags : BitVec 21
  enables : BitVec 21
  noticeEnable : Bool
  actLost : Act
  actSilence : Act
  actLate : Act
  sequence : RestartSequence
  /-- Milliseconds since step 1 was served (R193). -/
  window : Nat
deriving DecidableEq, Repr

/-- RESTARTED alone (bit 7), as after every reset (R187). -/
def restartedOnly : BitVec 21 := 0x80

/-- The restart record (R194). -/
structure RestartRecord where
  cause : ResetCause
  live : Bool
  standing : Option Nat
  next : Option Nat
  count : Nat
deriving DecidableEq, Repr

/-! ### The part -/

/-- The state of the part. `free` counts the free values used, `pending` is the queue of commands that
wait, first in, first out, and `inputs` is what the input pins show in the milliseconds to come, one entry
for each CLOCK_ADVANCE, first in, first out; the three are the model's own, the two queues filled from
outside. -/
structure State where
  channels : Tab 56 Channel
  cues : List Cue
  seq : Sequencer
  clock : Clock
  surface : Surface
  contacts : Contacts
  output : Output
  link : Link
  events : Events
  restart : RestartRecord
  /-- RESETn is low and the part is held (R192). -/
  resetLow : Bool
  free : Nat
  pending : List Instr
  inputs : List Pins
deriving DecidableEq, Repr

/-- No command stops the machine: what the manual calls a fault is an effect on counters and flags. -/
inductive Fault where
deriving DecidableEq, Repr

/-- Why a command has no meaning. -/
inductive Refusal where
  /-- Raised by `exec` alone, for a row of the table that has no meaning yet. Safe: the machine
  stops. -/
  | notModelled (mnemonic : String)
deriving DecidableEq, Repr

/-- The part right after power-on (R195): retained memory at its power-on values, everything else as
each chapter gives it after a reset, RESTARTED pending, the input pins inactive, nothing queued. -/
def State.reset : State :=
  { channels := Tab.replicate 56 (Channel.afterReset ChannelConfig.powerOn 1024)
    cues := []
    seq := Sequencer.afterReset .edit .edit none none
    clock := Clock.afterReset ClockConfig.powerOn
    surface :=
      { cfg := SurfaceConfig.powerOn
        banks := Tab.replicate 8 (Tab.replicate 16 none)
        activeBank := 0
        faders := Tab.replicate 16 (Fader.fresh none)
        touch := Tab.replicate 16 { level := false, qualified := false, count := 0 }
        keys := Tab.replicate 16 { level := false, qualified := false, count := 0 }
        wipers := Tab.replicate 16 0
        passLeft := 2 }
    contacts :=
      { cfg := ContactConfig.powerOn
        lines := Tab.replicate 4 { high := true, qualified := false, count := 0 }
        ignored := 0 }
    output := Output.afterReset OutputConfig.powerOn (Tab.replicate 48 none)
    link := Link.afterReset 0 0
    events :=
      { flags := restartedOnly, enables := 0, noticeEnable := false, actLost := .none,
        actSilence := .none, actLate := .none, sequence := .idle, window := 0 }
    restart := { cause := .powerOn, live := false, standing := none, next := none, count := 0 }
    resetLow := false
    free := 0
    pending := []
    inputs := [] }

/-! ### Updates, one for each field -/

/-- The state with this Channel Table. -/
def State.setChannels (s : State) (x : Tab 56 Channel) : State := { s with channels := x }

/-- The state with this Cue Store. -/
def State.setCues (s : State) (x : List Cue) : State := { s with cues := x }

/-- The state with this Show Sequencer. -/
def State.setSeq (s : State) (x : Sequencer) : State := { s with seq := x }

/-- The state with this Show Clock. -/
def State.setClock (s : State) (x : Clock) : State := { s with clock := x }

/-- The state with this Fader Surface Unit. -/
def State.setSurface (s : State) (x : Surface) : State := { s with surface := x }

/-- The state with this Contact Inputs. -/
def State.setContacts (s : State) (x : Contacts) : State := { s with contacts := x }

/-- The state with this Gain Output Unit. -/
def State.setOutput (s : State) (x : Output) : State := { s with output := x }

/-- The state with this Link Unit. -/
def State.setLink (s : State) (x : Link) : State := { s with link := x }

/-- The state with this Event Unit. -/
def State.setEvents (s : State) (x : Events) : State := { s with events := x }

/-- The state with this restart record. -/
def State.setRestart (s : State) (x : RestartRecord) : State := { s with restart := x }

/-- The state with this level of RESETn. -/
def State.setResetLow (s : State) (x : Bool) : State := { s with resetLow := x }

/-- The state with this count of free values. -/
def State.setFree (s : State) (x : Nat) : State := { s with free := x }

/-- The state with this queue. -/
def State.setPending (s : State) (x : List Instr) : State := { s with pending := x }

/-- The state with this queue of what the input pins are to show. -/
def State.setInputs (s : State) (x : List Pins) : State := { s with inputs := x }

end Sys2Proof.Machine
end

