-- ==== Sys2Proof/Machine/Formats.lean ====
section
/-!
DEFINITION. The byte layouts of chapter 12: fields, codes, messages, time marks and frames.

Fields of more than one byte travel most significant byte first, signed fields in two's complement
(R196). The codes are those of R198.
-/

namespace Sys2Proof.Machine

/-! ### Fields (R196) -/

/-- The number `v` in `n` bytes, most significant first; what does not fit is dropped. -/
def bytesOf : Nat → Nat → List Byte
  | 0, _ => []
  | n + 1, v => BitVec.ofNat 8 (v / 256 ^ n) :: bytesOf n v

/-- The unsigned number that bytes stand for, most significant first. -/
def natOf (bs : List Byte) : Nat :=
  bs.foldl (fun n b => n * 256 + b.toNat) 0

/-- A signed number in two bytes, two's complement. -/
def int2 (v : Int) : List Byte :=
  bytesOf 2 (v % 65536).toNat

/-- The signed number that two bytes stand for, two's complement. -/
def intOf (hi lo : Byte) : Int :=
  (hi ++ lo).toInt

/-- A single flag: 1 set, 0 clear (R198). -/
def flag (b : Bool) : Byte := if b then 1 else 0

/-- A number in one byte. -/
def byte (v : Nat) : Byte := BitVec.ofNat 8 v

/-- A cue number, 0 for none (R67). -/
def cueField (n : Option Nat) : List Byte := bytesOf 2 (n.getD 0)

/-- A channel, 0 for none (R1). -/
def chanField : Option Chan → Byte
  | none => 0
  | some c => byte (c.val + 1)

/-! ### Codes (R198) -/

/-- Result codes (R182). -/
inductive Result where
  | ok | okClamped | badLength | badField | unknownType | noCue | listFull | poolFull | cueFull
  | channelCrowded | duplicate | wrongState | inFlight | armed | emptyList | endOfList | guarded
  | mismatch | busy | sequence
deriving DecidableEq, Repr

/-- The code of a result. -/
def Result.code : Result → Byte
  | .ok => 0
  | .okClamped => 1
  | .badLength => 2
  | .badField => 3
  | .unknownType => 4
  | .noCue => 5
  | .listFull => 6
  | .poolFull => 7
  | .cueFull => 8
  | .channelCrowded => 9
  | .duplicate => 10
  | .wrongState => 11
  | .inFlight => 12
  | .armed => 13
  | .emptyList => 14
  | .endOfList => 15
  | .guarded => 16
  | .mismatch => 17
  | .busy => 18
  | .sequence => 19

/-- OK, or OK_CLAMPED when a numeric field was brought into its range (R182). -/
def Result.applied (clamped : Bool) : Result := if clamped then .okClamped else .ok

def Trigger.code : Trigger → Byte
  | .manual => 0
  | .follow => 1
  | .withCue => 2
  | .clock => 3

def Trigger.ofCode (b : Byte) : Option Trigger :=
  match b.toNat with
  | 0 => some .manual
  | 1 => some .follow
  | 2 => some .withCue
  | 3 => some .clock
  | _ => none

def Timebase.code : Timebase → Byte
  | .wall => 0
  | .clock => 1

def Timebase.ofCode (b : Byte) : Option Timebase :=
  match b.toNat with
  | 0 => some .wall
  | 1 => some .clock
  | _ => none

def Action.code : Action → Byte
  | .level => 0
  | .mute => 1
  | .unmute => 2

def Action.ofCode (b : Byte) : Option Action :=
  match b.toNat with
  | 0 => some .level
  | 1 => some .mute
  | 2 => some .unmute
  | _ => none

def Curve.code : Curve → Byte
  | .linear => 0
  | .easeIn => 1
  | .easeOut => 2
  | .scurve => 3
  | .snapEnd => 4
  | .snapStart => 5

def Curve.ofCode (b : Byte) : Option Curve :=
  match b.toNat with
  | 0 => some .linear
  | 1 => some .easeIn
  | 2 => some .easeOut
  | 3 => some .scurve
  | 4 => some .snapEnd
  | 5 => some .snapStart
  | _ => none

def ReleaseMode.code : ReleaseMode → Byte
  | .ret => 0
  | .keep => 1

def ReleaseMode.ofCode (b : Byte) : Option ReleaseMode :=
  match b.toNat with
  | 0 => some .ret
  | 1 => some .keep
  | _ => none

def Polarity.code : Polarity → Byte
  | .activeLow => 0
  | .activeHigh => 1

def Polarity.ofCode (b : Byte) : Option Polarity :=
  match b.toNat with
  | 0 => some .activeLow
  | 1 => some .activeHigh
  | _ => none

def Act.code : Act → Byte
  | .none => 0
  | .hold => 1
  | .safe => 2

def Act.ofCode (b : Byte) : Option Act :=
  match b.toNat with
  | 0 => some .none
  | 1 => some .hold
  | 2 => some .safe
  | _ => Option.none

def ScanMode.code : ScanMode → Byte
  | .sequential => 0
  | .paired => 1

def ScanMode.ofCode (b : Byte) : Option ScanMode :=
  match b.toNat with
  | 0 => some .sequential
  | 1 => some .paired
  | _ => none

/-- MUTE_REMOTE action: 0 CLEAR (`false`), 1 SET (`true`). -/
def setOfCode (b : Byte) : Option Bool :=
  match b.toNat with
  | 0 => some false
  | 1 => some true
  | _ => none

def ShowState.code : ShowState → Byte
  | .edit => 0
  | .running => 1
  | .hold => 2
  | .safe => 3

def ClockState.code : ClockState → Byte
  | .none => 0
  | .locking => 1
  | .locked => 2
  | .freewheel => 3
  | .stopped => 4
  | .lost => 5

def Cause.code : Cause → Byte
  | .goContact => 1
  | .goLink => 2
  | .follow => 3
  | .withCue => 4
  | .clock => 5

/-- The cause field of a notice, 0 for kinds other than FIRED. -/
def causeField : Option Cause → Byte
  | none => 0
  | some c => c.code

def NoticeKind.code : NoticeKind → Byte
  | .fired => 0
  | .complete => 1
  | .retired => 2
  | .cleared => 3

def ResetCause.code : ResetCause → Byte
  | .powerOn => 0
  | .resetPin => 1
  | .linkRestart => 2

def FaderState.code : FaderState → Byte
  | .free => 0
  | .holding => 1
  | .blocked => 2

def Watchdog.code : Watchdog → Byte
  | .off => 0
  | .running => 1
  | .expired => 2

def Hand.code : Hand → Byte
  | .free => 0
  | .held _ => 1
  | .gliding _ _ _ => 2

def Arm.code : Arm → Byte
  | .empty => 0
  | .await _ => 1
  | .waiting _ _ => 2
  | .clock _ _ => 3

/-- A move owner field: its code and the firing id in two bytes, 0 unless a firing (R196, R198). -/
def ownerField : Option Owner → List Byte
  | none => 0 :: bytesOf 2 0
  | some (.firing id _) => 1 :: bytesOf 2 id
  | some .remote => 2 :: bytesOf 2 0
  | some .load => 3 :: bytesOf 2 0

/-! ### Messages (R175, R197) -/

/-- The check of a message: it brings the sum of length, type and body to 0 modulo 256 (R175). -/
def messageCheck (bs : List Byte) : Byte := -(bs.foldl (· + ·) 0)

/-- The characters of a message: the address character with its marker bit set, and the others with
theirs clear (R173, R175, R196). -/
def marked (address : Byte) (rest : List Byte) : List LinkChar :=
  { data := address, marker := true } :: rest.map fun b => { data := b, marker := false }

/-- A reply's characters: the address character with the direction bit set, length, type, result,
payload, check (R180, R197). -/
def Reply.message (address : BitVec 5) (r : Reply) : List LinkChar :=
  let counted := byte (r.payload.length + 2) :: r.code :: r.result :: r.payload
  marked (BitVec.ofNat 8 (address.toNat + 128)) (counted ++ [messageCheck counted])

/-- The 11 bits of a link character on the wire: start, data least significant first, marker, stop (R173,
R196). -/
def LinkChar.bits (c : LinkChar) : List Bool :=
  false :: ((List.range 8).map c.data.getLsbD ++ [c.marker, true])

/-- The sum, modulo 256, of a time mark's six characters from the song through the flags (R200). -/
def markCheck (song : Byte) (position : BitVec 32) (flags : Byte) : Byte :=
  (song :: (bytesOf 4 position.toNat ++ [flags])).foldl (· + ·) 0

/-! ### Frames (R199, R200) -/

/-- One shift of the CRC register (R200). -/
def crcShift (r : BitVec 16) : BitVec 16 :=
  if r.msb then (r <<< 1) ^^^ 0x1021 else r <<< 1

/-- The CRC register after one more byte (R200). -/
def crcByte (r : BitVec 16) (b : Byte) : BitVec 16 :=
  let r := r ^^^ (b ++ (0 : Byte))
  crcShift (crcShift (crcShift (crcShift (crcShift (crcShift (crcShift (crcShift r)))))))

/-- The CRC of a run of bytes (R200). -/
def crc16 (bs : List Byte) : BitVec 16 := bs.foldl crcByte 0xFFFF

/-- A slot entry of a surface frame: drive in bit 15, tally in bit 14, target in bits 9..0 (R199). -/
def SlotEntry.bytes (e : SlotEntry) : List Byte :=
  bytesOf 2 ((if e.drive then 32768 else 0) + (if e.tally then 16384 else 0) + e.target % 1024)

/-- The two sync bytes of a frame (R199). -/
def Content.sync : Content → List Byte
  | .gain _ => [0x5A, 0xC3]
  | .surface _ => [0x5A, 0x3C]

/-- A frame's gain words or slot entries (R199). -/
def Content.bytes : Content → List Byte
  | .gain words => words.flatMap (bytesOf 3)
  | .surface slots => slots.flatMap SlotEntry.bytes

/-- What a frame carries between sync and CRC: count, flags, contents (R199). -/
def Frame.covered (f : Frame) : List Byte :=
  bytesOf 2 f.count ++
    byte ((if f.safe then 1 else 0) + (if f.hold then 2 else 0)) :: f.content.bytes

/-- A frame as it is sent: sync, count, flags, contents, CRC (R160, R169, R199, R200). -/
def Frame.bytes (f : Frame) : List Byte :=
  f.content.sync ++ f.covered ++ bytesOf 2 (crc16 f.covered).toNat

/-- A byte's bits on a frame line, most significant first (R165, R196). -/
def frameBits (b : Byte) : List Bool := (List.range 8).map b.getMsbD

/-- A frame's bits in the order they are sent (R160, R165, R169). -/
def Frame.bits (f : Frame) : List Bool := f.bytes.flatMap frameBits

end Sys2Proof.Machine
end

