-- ==== Sys2Proof/WellFormed.lean ====
section
/-!
DEFINITION. Which commands are well formed: what a message on the link can carry (R175, R178, R197).

A message's length character is 1..249, so a body has at most 248 bytes (R175), and UNKNOWN_TYPE is a
message whose type code stands in no row of the type table (R178, R197). Every other operand is inside
its range by its type. A body of a length its type does not allow is well formed: the part judges it.
-/

namespace Sys2Proof

/-- The type code of each request (R197). -/
def Instr.request : Instr → Option (Dest × Byte × List Byte)
  | .nop d body => some (d, 0x01, body)
  | .linkSetup d body => some (d, 0x02, body)
  | .linkQuery d body => some (d, 0x03, body)
  | .eventsSetup d body => some (d, 0x08, body)
  | .eventsRead d body => some (d, 0x09, body)
  | .restart d body => some (d, 0x0A, body)
  | .restartQuery d body => some (d, 0x0B, body)
  | .channelSetup d body => some (d, 0x10, body)
  | .trim d body => some (d, 0x11, body)
  | .muteRemote d body => some (d, 0x12, body)
  | .channelQuery d body => some (d, 0x13, body)
  | .level d body => some (d, 0x14, body)
  | .cuePut d body => some (d, 0x20, body)
  | .movesAdd d body => some (d, 0x21, body)
  | .cueDelete d body => some (d, 0x22, body)
  | .listClear d body => some (d, 0x23, body)
  | .cueQuery d body => some (d, 0x24, body)
  | .movesQuery d body => some (d, 0x25, body)
  | .listQuery d body => some (d, 0x26, body)
  | .showStart d body => some (d, 0x30, body)
  | .showEnd d body => some (d, 0x31, body)
  | .go d body => some (d, 0x32, body)
  | .back d body => some (d, 0x33, body)
  | .hold d body => some (d, 0x34, body)
  | .resume d body => some (d, 0x35, body)
  | .stop d body => some (d, 0x36, body)
  | .safe d body => some (d, 0x37, body)
  | .safeRelease d body => some (d, 0x38, body)
  | .gotoCue d body => some (d, 0x39, body)
  | .noticesRead d body => some (d, 0x3A, body)
  | .showQuery d body => some (d, 0x3B, body)
  | .clockSetup d body => some (d, 0x40, body)
  | .clockQuery d body => some (d, 0x41, body)
  | .surfaceSetup d body => some (d, 0x48, body)
  | .bankPut d body => some (d, 0x49, body)
  | .bankSelect d body => some (d, 0x4A, body)
  | .surfaceQuery d body => some (d, 0x4B, body)
  | .contactSetup d body => some (d, 0x50, body)
  | .contactQuery d body => some (d, 0x51, body)
  | .outputSetup d body => some (d, 0x58, body)
  | .routePut d body => some (d, 0x59, body)
  | .routeQuery d body => some (d, 0x5A, body)
  | .outputQuery d body => some (d, 0x5B, body)
  | .unknownType d code body => some (d, code, body)
  | .requestOverrun => none
  | .linkFramingFault => none
  | .linkGapFault => none
  | .linkFormFault _ => none
  | .linkCheckFault => none
  | .replySend => none
  | .replyEnd => none
  | .linkSilence => none
  | .restartWindowLapse => none
  | .powerOn _ => none
  | .resetPin _ => none
  | .resetPinRelease => none
  | .timeMark _ _ _ _ => none
  | .markFramingFault => none
  | .markGapFault => none
  | .markTimeout => none
  | .freewheelLimit => none
  | .clockAdvance => none
  | .waitExpiry => none
  | .gotoComplete => none
  | .moveStart _ => none
  | .moveComplete _ => none
  | .passEnd _ => none
  | .qualifiedTouch _ => none
  | .qualifiedRelease _ => none
  | .keyPress _ => none
  | .keyRelease _ => none
  | .contactGoPress => none
  | .contactBackPress => none
  | .contactHoldPress => none
  | .contactSafePress => none
  | .contactRelease _ => none
  | .frameEvent => none
  | .sendEnd _ => none
  | .trafficForOtherParts => none

/-- The type codes of the type table (R197). -/
def typeCodes : List Byte :=
  [0x01, 0x02, 0x03, 0x08, 0x09, 0x0A, 0x0B, 0x10, 0x11, 0x12, 0x13,
    0x14, 0x20, 0x21, 0x22, 0x23, 0x24, 0x25, 0x26, 0x30, 0x31, 0x32,
    0x33, 0x34, 0x35, 0x36, 0x37, 0x38, 0x39, 0x3A, 0x3B, 0x40, 0x41,
    0x48, 0x49, 0x4A, 0x4B, 0x50, 0x51, 0x58, 0x59, 0x5A, 0x5B]

/-- A body fits a message (R175). -/
def bodyFits (body : List Byte) : Bool := decide (body.length ≤ 248)

/-- The type code of a command named UNKNOWN_TYPE is in no row of the type table (R178). -/
def Instr.codeFits : Instr → Bool
  | .nop _ _ => true
  | .linkSetup _ _ => true
  | .linkQuery _ _ => true
  | .eventsSetup _ _ => true
  | .eventsRead _ _ => true
  | .restart _ _ => true
  | .restartQuery _ _ => true
  | .channelSetup _ _ => true
  | .trim _ _ => true
  | .muteRemote _ _ => true
  | .channelQuery _ _ => true
  | .level _ _ => true
  | .cuePut _ _ => true
  | .movesAdd _ _ => true
  | .cueDelete _ _ => true
  | .listClear _ _ => true
  | .cueQuery _ _ => true
  | .movesQuery _ _ => true
  | .listQuery _ _ => true
  | .showStart _ _ => true
  | .showEnd _ _ => true
  | .go _ _ => true
  | .back _ _ => true
  | .hold _ _ => true
  | .resume _ _ => true
  | .stop _ _ => true
  | .safe _ _ => true
  | .safeRelease _ _ => true
  | .gotoCue _ _ => true
  | .noticesRead _ _ => true
  | .showQuery _ _ => true
  | .clockSetup _ _ => true
  | .clockQuery _ _ => true
  | .surfaceSetup _ _ => true
  | .bankPut _ _ => true
  | .bankSelect _ _ => true
  | .surfaceQuery _ _ => true
  | .contactSetup _ _ => true
  | .contactQuery _ _ => true
  | .outputSetup _ _ => true
  | .routePut _ _ => true
  | .routeQuery _ _ => true
  | .outputQuery _ _ => true
  | .unknownType _ code _ => !typeCodes.contains code
  | .requestOverrun => true
  | .linkFramingFault => true
  | .linkGapFault => true
  | .linkFormFault _ => true
  | .linkCheckFault => true
  | .replySend => true
  | .replyEnd => true
  | .linkSilence => true
  | .restartWindowLapse => true
  | .powerOn _ => true
  | .resetPin _ => true
  | .resetPinRelease => true
  | .timeMark _ _ _ _ => true
  | .markFramingFault => true
  | .markGapFault => true
  | .markTimeout => true
  | .freewheelLimit => true
  | .clockAdvance => true
  | .waitExpiry => true
  | .gotoComplete => true
  | .moveStart _ => true
  | .moveComplete _ => true
  | .passEnd _ => true
  | .qualifiedTouch _ => true
  | .qualifiedRelease _ => true
  | .keyPress _ => true
  | .keyRelease _ => true
  | .contactGoPress => true
  | .contactBackPress => true
  | .contactHoldPress => true
  | .contactSafePress => true
  | .contactRelease _ => true
  | .frameEvent => true
  | .sendEnd _ => true
  | .trafficForOtherParts => true

/-- A well-formed command: its body fits a message, and an unknown type is unknown. -/
def Instr.wellFormed (i : Instr) : Bool :=
  i.codeFits &&
    match i.request with
    | none => true
    | some (_, _, body) => bodyFits body

end Sys2Proof
end

