-- ==== Sys2Proof/Decode.lean ====
section
/-!
DEFINITION. Reading commands from bits and from characters.

No row of spec/opcode_table.json gives bits, so `decodeTableWord` reads none. What the manual does
give bits for is a message on the link (R175, R176, R197) and a time mark on TMIN (R199). The two
receivers judge them character by character (`Receiver.judge`, `MarkReceiver.judge`); `decodeMessage` and
`decodeMark` say which command a whole one is, and `encodeRequest` and `encodeMark` write it.
-/

namespace Sys2Proof

/-- The command a word spells by the table's bits: no row of the table gives any. -/
def decodeTableWord (_nbits _w : Nat) : Option Instr := none

/-- The request of a type code, with UNKNOWN_TYPE for a code in no row of the type table (R178,
R197). -/
def requestOf (code : Byte) (d : Dest) (body : List Byte) : Instr :=
  match code with
  | 0x01 => .nop d body
  | 0x02 => .linkSetup d body
  | 0x03 => .linkQuery d body
  | 0x08 => .eventsSetup d body
  | 0x09 => .eventsRead d body
  | 0x0A => .restart d body
  | 0x0B => .restartQuery d body
  | 0x10 => .channelSetup d body
  | 0x11 => .trim d body
  | 0x12 => .muteRemote d body
  | 0x13 => .channelQuery d body
  | 0x14 => .level d body
  | 0x20 => .cuePut d body
  | 0x21 => .movesAdd d body
  | 0x22 => .cueDelete d body
  | 0x23 => .listClear d body
  | 0x24 => .cueQuery d body
  | 0x25 => .movesQuery d body
  | 0x26 => .listQuery d body
  | 0x30 => .showStart d body
  | 0x31 => .showEnd d body
  | 0x32 => .go d body
  | 0x33 => .back d body
  | 0x34 => .hold d body
  | 0x35 => .resume d body
  | 0x36 => .stop d body
  | 0x37 => .safe d body
  | 0x38 => .safeRelease d body
  | 0x39 => .gotoCue d body
  | 0x3A => .noticesRead d body
  | 0x3B => .showQuery d body
  | 0x40 => .clockSetup d body
  | 0x41 => .clockQuery d body
  | 0x48 => .surfaceSetup d body
  | 0x49 => .bankPut d body
  | 0x4A => .bankSelect d body
  | 0x4B => .surfaceQuery d body
  | 0x50 => .contactSetup d body
  | 0x51 => .contactQuery d body
  | 0x58 => .outputSetup d body
  | 0x59 => .routePut d body
  | 0x5A => .routeQuery d body
  | 0x5B => .outputQuery d body
  | _ => .unknownType d code body

/-- Whom an address character is for: a request to the own address or to 31; other addresses and
replies are for others. Bits 5 and 6 are reserved (R174, R176, R196). -/
def destOf (address : BitVec 5) (a : Byte) : Option Dest :=
  if a.getLsbD 7 then none
  else if a.extractLsb' 0 5 = 31 then some .broadcast
  else if a.extractLsb' 0 5 = address then some .own
  else none

/-- The sum of characters modulo 256 (R175). -/
def charSum (cs : List Byte) : Byte := cs.foldl (· + ·) 0

namespace Machine

/-! ### The link receiver, character by character (R176, R177) -/

/-- The receiver is in a collection (R176). -/
def Receiver.collecting : Receiver → Bool
  | .unaddressed => false
  | .length _ => true
  | .body _ _ _ => true
  | .check _ _ _ => true

/-- The receiver after an address character that is for this part in this way, or for others (R176). -/
def receiverFor : Option Dest → Receiver
  | none => .unaddressed
  | some d => .length d

/-- A character with a bad stop bit: a framing fault in a collection, ignored outside one (R177). -/
def Receiver.framing (r : Receiver) : Receiver × Option Instr :=
  if r.collecting then (.unaddressed, some .linkFramingFault)
  else (.unaddressed, some .trafficForOtherParts)

/-- A character with its marker bit set: an address character. In a collection it abandons it, which is a
form fault, and is then judged afresh (R176). -/
def Receiver.marked (address : BitVec 5) (r : Receiver) (a : Byte) : Receiver × Option Instr :=
  let opens := destOf address a
  (receiverFor opens,
    if r.collecting then some (.linkFormFault (.abandoned opens))
    else if opens.isSome then none
    else some .trafficForOtherParts)

/-- A character with its marker bit clear, judged in each state: ignored in UNADDRESSED; taken as the
length N, which is good in 1..249; as one of the N type and body characters; as the check, which ends the
message (R175 to R177). -/
def Receiver.plain (r : Receiver) (b : Byte) : Receiver × Option Instr :=
  match r with
  | .unaddressed => (.unaddressed, some .trafficForOtherParts)
  | .length d =>
    if b.toNat < 1 ∨ 249 < b.toNat then (.unaddressed, some (.linkFormFault .length))
    else (.body d b.toNat [], none)
  | .body d n taken =>
    if (taken ++ [b]).length < n then (.body d n (taken ++ [b]), none)
    else (.check d n (taken ++ [b]), none)
  | .check d n taken =>
    (.unaddressed,
      if charSum (byte n :: (taken ++ [b])) ≠ 0 then some .linkCheckFault
      else
        match taken with
        | [] => none
        | code :: text => some (requestOf code d text))

/-- A character on LRX judged in the state it finds: the state it leaves, and the row of the table that
it brings about, if it does (R176, R177). -/
def Receiver.judge (address : BitVec 5) (r : Receiver) (c : LinkChar) (stop : Bool) :
    Receiver × Option Instr :=
  if !stop then r.framing
  else if c.marker then r.marked address c.data
  else r.plain c.data

/-- What a run of good characters leaves of the receiver, and the row that the last of them brings
about. -/
def Receiver.run (address : BitVec 5) : Receiver → List LinkChar → Receiver × Option Instr
  | r, [] => (r, none)
  | r, [c] => r.judge address c true
  | r, c :: d :: rest => Receiver.run address (r.judge address c true).1 (d :: rest)

/-! ### The mark receiver, character by character (R111, R112) -/

/-- The eight characters of a whole mark after its sync: song, position, flags, check (R199). -/
def markOf : List Byte → Option Instr
  | [song, p3, p2, p1, p0, flags, check] => some (.timeMark song (p3 ++ p2 ++ p1 ++ p0) flags check)
  | _ => none

/-- A character on TMIN judged in the state it finds: in HUNT the sync character starts a mark and any
other is ignored; in COLLECT a bad stop bit abandons the mark, and every other character is taken until
the mark is whole (R111, R112). -/
def MarkReceiver.judge (r : MarkReceiver) (b : Byte) (stop : Bool) : MarkReceiver × Option Instr :=
  match r with
  | .hunt => if stop && b == 0xA5 then (.collect [], none) else (.hunt, none)
  | .collect taken =>
    if !stop then (.hunt, some .markFramingFault)
    else if taken.length < 6 then (.collect (taken ++ [b]), none)
    else (.hunt, markOf (taken ++ [b]))

/-- What a run of good characters leaves of the mark receiver, and the row that the last of them brings
about. -/
def MarkReceiver.run : MarkReceiver → List Byte → MarkReceiver × Option Instr
  | r, [] => (r, none)
  | r, [b] => r.judge b true
  | r, b :: c :: rest => MarkReceiver.run (r.judge b true).1 (c :: rest)

end Machine

/-- The command that the last of these characters brings about at a part of this address whose receiver
is UNADDRESSED: for the characters of one message, what the message is (R175, R176). -/
def decodeMessage (address : BitVec 5) (cs : List Machine.LinkChar) : Option Instr :=
  (Machine.Receiver.run address .unaddressed cs).2

/-- The address character of a request (R174, R196). -/
def addressChar (address : BitVec 5) : Dest → Byte
  | .own => address.zeroExtend 8
  | .broadcast => 31

/-- The characters of a request to a part at this address (R175, R197). -/
def encodeRequest (address : BitVec 5) (d : Dest) (code : Byte) (body : List Byte) : List Machine.LinkChar :=
  let counted := Machine.byte (body.length + 1) :: code :: body
  Machine.marked (addressChar address d) (counted ++ [Machine.messageCheck counted])

/-- The command that the last of these characters on TMIN brings about at a receiver in HUNT: for the
eight characters of a mark, the mark (R111, R199). -/
def decodeMark (bs : List Byte) : Option Instr := (Machine.MarkReceiver.run .hunt bs).2

/-- The characters of a time mark (R199, R200). -/
def encodeMark (song : Byte) (position : BitVec 32) (flags : Byte) : List Byte :=
  0xA5 :: song :: (Machine.bytesOf 4 position.toNat ++
    [flags, Machine.markCheck song position flags])

end Sys2Proof
end

