-- ==== Sys2Proof/Config.lean ====
section
/-!
DEFINITION. What the manual leaves open: the free values.

A free value has no body, so nothing can be proved of it beyond what holds of every value. It is
applied to the counter `State.free`, so that two uses need not give the same value (log entry 10).
-/

namespace Sys2Proof.Config

/-- The result code of a RESTART served while the restart sequence is DUE. R193 gives that request
"no effect" and states no result; its reply is lost with the buffer at the restart. -/
opaque restartInDueResult : Nat → Byte

end Sys2Proof.Config
end

