-- ==== Sys2Proof/Machine/Operands.lean ====
section
/-!
DEFINITION. The operand forms: the body of each request, field by field in the order its rule lists
them and the widths of R196. A parser answers `none` exactly for a body length its type does not allow
(R178, R197). Fields are read as they were sent; the owning block judges and clamps them.
-/

namespace Sys2Proof.Machine

/-- A body of no bytes. -/
def parseEmpty : List Byte → Option Unit
  | [] => some ()
  | _ => none

/-- A body of one byte. -/
def parseByte : List Byte → Option Byte
  | [b] => some b
  | _ => none

/-- A body of one two-byte number: CUE_DELETE, CUE_QUERY, GO. -/
def parseNumber : List Byte → Option Nat
  | [b1, b0] => some (natOf [b1, b0])
  | _ => none

/-- Body of LINK_SETUP (R184). -/
structure LinkSetup where
  divider : Nat
  limit : Nat
deriving DecidableEq, Repr

def parseLinkSetup : List Byte → Option LinkSetup
  | [d, l1, l0] => some { divider := d.toNat, limit := natOf [l1, l0] }
  | _ => none

/-- Body of EVENTS_SETUP (R190, R197): the 32 enable bits and three act codes. -/
structure EventsSetup where
  enables : Nat
  lost : Byte
  silence : Byte
  late : Byte
deriving DecidableEq, Repr

def parseEventsSetup : List Byte → Option EventsSetup
  | [e3, e2, e1, e0, a, b, c] =>
    some { enables := natOf [e3, e2, e1, e0], lost := a, silence := b, late := c }
  | _ => none

/-- Body of CHANNEL_SETUP (R13). -/
structure ChannelSetup where
  channel : Byte
  group : Byte
  base : Int
  trim : Int
  muteRamp : Nat
  release : Byte
  returnTime : Nat
deriving DecidableEq, Repr

def parseChannelSetup : List Byte → Option ChannelSetup
  | [c, g, b1, b0, t1, t0, m1, m0, r, x1, x0] =>
    some { channel := c, group := g, base := intOf b1 b0, trim := intOf t1 t0,
           muteRamp := natOf [m1, m0], release := r, returnTime := natOf [x1, x0] }
  | _ => none

/-- Body of TRIM (R15). -/
structure TrimBody where
  channel : Byte
  trim : Int
deriving DecidableEq, Repr

def parseTrim : List Byte → Option TrimBody
  | [c, t1, t0] => some { channel := c, trim := intOf t1 t0 }
  | _ => none

/-- Body of MUTE_REMOTE (R16). -/
structure MuteRemote where
  channel : Byte
  action : Byte
deriving DecidableEq, Repr

def parseMuteRemote : List Byte → Option MuteRemote
  | [c, a] => some { channel := c, action := a }
  | _ => none

/-- Body of LEVEL (R105). -/
structure LevelBody where
  channel : Byte
  target : Int
  time : Nat
  curve : Byte
deriving DecidableEq, Repr

def parseLevel : List Byte → Option LevelBody
  | [c, t1, t0, d2, d1, d0, k] =>
    some { channel := c, target := intOf t1 t0, time := natOf [d2, d1, d0], curve := k }
  | _ => none

/-- Body of CUE_PUT: the cue header (R50, R197). -/
structure CuePut where
  number : Nat
  trigger : Byte
  base : Byte
  wait : Nat
  song : Nat
  position : Nat
  keep : Bool
deriving DecidableEq, Repr

def parseCuePut : List Byte → Option CuePut
  | [n1, n0, t, b, w2, w1, w0, s, p2, p1, p0, f] =>
    some { number := natOf [n1, n0], trigger := t, base := b, wait := natOf [w2, w1, w0],
           song := s.toNat, position := natOf [p2, p1, p0], keep := f.getLsbD 0 }
  | _ => none

/-- A move entry (R53, R197): the action and curve codes are bits 1..0 and 4..2 of its second byte;
its timebase bit and reserved bits are ignored. -/
structure MoveEntry where
  channel : Byte
  action : Byte
  curve : Byte
  target : Int
  delay : Nat
  duration : Nat
deriving DecidableEq, Repr

/-- The move entries of a run of whole 10-byte entries. -/
def parseEntries : List Byte → Option (List MoveEntry)
  | [] => some []
  | c :: k :: t1 :: t0 :: d2 :: d1 :: d0 :: u2 :: u1 :: u0 :: rest =>
    match parseEntries rest with
    | none => none
    | some es =>
      some ({ channel := c, action := k &&& 3, curve := (k >>> 2) &&& 7, target := intOf t1 t0,
              delay := natOf [d2, d1, d0], duration := natOf [u2, u1, u0] } :: es)
  | _ => none

/-- Body of MOVES_ADD (R53). -/
structure MovesAdd where
  cue : Nat
  entries : List MoveEntry
deriving DecidableEq, Repr

/-- 1 to 24 whole entries after the cue number (R53). -/
def parseMovesAdd : List Byte → Option MovesAdd
  | n1 :: n0 :: rest =>
    match parseEntries rest with
    | none => none
    | some es =>
      if 1 ≤ es.length ∧ es.length ≤ 24 then some { cue := natOf [n1, n0], entries := es } else none
  | _ => none

/-- Body of MOVES_QUERY (R58). -/
structure MovesQuery where
  cue : Nat
  first : Nat
  count : Nat
deriving DecidableEq, Repr

def parseMovesQuery : List Byte → Option MovesQuery
  | [n1, n0, f, k] => some { cue := natOf [n1, n0], first := f.toNat, count := k.toNat }
  | _ => none

/-- Body of LIST_QUERY (R59). -/
structure ListQuery where
  start : Nat
  count : Nat
deriving DecidableEq, Repr

def parseListQuery : List Byte → Option ListQuery
  | [n1, n0, k] => some { start := natOf [n1, n0], count := k.toNat }
  | _ => none

/-- Body of GOTO (R82). -/
structure GotoBody where
  cue : Nat
  loadTime : Nat
deriving DecidableEq, Repr

def parseGoto : List Byte → Option GotoBody
  | [n1, n0, t1, t0] => some { cue := natOf [n1, n0], loadTime := natOf [t1, t0] }
  | _ => none

/-- Body of CLOCK_SETUP (R126), as sent. -/
def parseClockSetup : List Byte → Option ClockConfig
  | [d, w, r1, r0, t1, t0, f1, f0, p, q] =>
    some { markDelay := d.toNat, lockWindow := w.toNat, relocate := natOf [r1, r0],
           markTimeout := natOf [t1, t0], freewheel := natOf [f1, f0], phaseDepth := p.toNat,
           rateDepth := q.toNat }
  | _ => none

/-- Body of SURFACE_SETUP (R146). -/
structure SurfaceSetup where
  mode : Byte
  period : Nat
  hysteresis : Nat
  tolerance : Nat
  qualify : Nat
deriving DecidableEq, Repr

def parseSurfaceSetup : List Byte → Option SurfaceSetup
  | [m, p, h, t, q] =>
    some { mode := m, period := p.toNat, hysteresis := h.toNat, tolerance := t.toNat,
           qualify := q.toNat }
  | _ => none

/-- Body of BANK_PUT (R134): the bank number and 16 channel numbers. -/
structure BankPut where
  bank : Byte
  slots : Tab 16 Byte
deriving DecidableEq, Repr

def parseBankPut : List Byte → Option BankPut
  | [] => none
  | b :: rest => if h : rest.length = 16 then some { bank := b, slots := ⟨rest, h⟩ } else none

/-- Body of CONTACT_SETUP (R155): Qc, four polarities, GO guard. -/
structure ContactSetup where
  qualify : Nat
  polarity : Tab 4 Byte
  guard : Nat
deriving DecidableEq, Repr

def parseContactSetup : List Byte → Option ContactSetup
  | [q, a, b, c, d, g1, g0] =>
    some { qualify := q.toNat, polarity := ⟨[a, b, c, d], rfl⟩, guard := natOf [g1, g0] }
  | _ => none

/-- Body of OUTPUT_SETUP (R170): frame period and four dividers. -/
structure OutputSetup where
  period : Nat
  dividers : Tab 4 Nat
deriving DecidableEq, Repr

def parseOutputSetup : List Byte → Option OutputSetup
  | [f, a, b, c, d] =>
    some { period := f.toNat, dividers := ⟨[a.toNat, b.toNat, c.toNat, d.toNat], rfl⟩ }
  | _ => none

/-- Body of ROUTE_PUT (R163). -/
structure RoutePut where
  strip : Nat
  line : Nat
  slot : Nat
deriving DecidableEq, Repr

def parseRoutePut : List Byte → Option RoutePut
  | [p, l, k] => some { strip := p.toNat, line := l.toNat, slot := k.toNat }
  | _ => none

/-! ### Numbers that name a record -/

/-- The channel a channel number names: 1..56 (R1). -/
def chanOf (b : Byte) : Option Chan :=
  if h : 1 ≤ b.toNat ∧ b.toNat ≤ 56 then some ⟨b.toNat - 1, by omega⟩ else none

/-- A slot value of a bank: 0 for none, or a channel; `none` above 56 (R133, R134). -/
def slotOf (b : Byte) : Option (Option Chan) :=
  if b.toNat = 0 then some none
  else
    match chanOf b with
    | none => none
    | some c => some (some c)

/-- The bank a bank number names: 1..8 (R133). -/
def bankOf (b : Byte) : Option (Fin 8) :=
  if h : 1 ≤ b.toNat ∧ b.toNat ≤ 8 then some ⟨b.toNat - 1, by omega⟩ else none

/-- A group value: on a strip 0 for none or 1..8, on a group master 0 (R2, R13). -/
def groupOf (c : Chan) (b : Byte) : Option (Option (Fin 8)) :=
  if b.toNat = 0 then some none
  else if h : c.val < 48 ∧ b.toNat ≤ 8 ∧ 1 ≤ b.toNat then some (some ⟨b.toNat - 1, by omega⟩) else none

/-- A cue number is 1..9999 (R40). -/
def cueNumberOk (n : Nat) : Bool := decide (1 ≤ n ∧ n ≤ 9999)

end Sys2Proof.Machine
end

