-- ==== Sys2Proof/Machine/Levels.lean ====
section
/-!
DEFINITION. Level arithmetic: chapter 2 of the manual, each computation on whole numbers with the
rounding the chapter names (R21).
-/

namespace Sys2Proof.Machine

/-! ### Rounding and clamping -/

/-- `n / d` rounded to nearest, halves away from zero (`d` at least 1). -/
def roundAway (n : Int) (d : Nat) : Int :=
  if 0 ≤ n then (2 * n + d) / (2 * d) else -((2 * -n + d) / (2 * d))

/-- `n / d` rounded half up (`d` at least 1). -/
def roundHalfUp (n d : Nat) : Nat := (2 * n + d) / (2 * d)

/-- `n / d` rounded up (`d` at least 1). -/
def ceilDiv (n d : Nat) : Nat := (n + (d - 1)) / d

/-- The nearest value of `lo..hi`. -/
def clampInt (lo hi v : Int) : Int := max lo (min hi v)

/-- The nearest value of `lo..hi`. -/
def clampNat (lo hi v : Nat) : Nat := max lo (min hi v)

/-- A level brought into −800..+100 (R20). -/
def clampLevel (v : Int) : Int := clampInt (-800) 100 v

/-- One more, stopping at `top` (00_scope.md, Counters). -/
def countUp (top n : Nat) : Nat := if n < top then n + 1 else n

/-! ### Level moves (R22 to R24) -/

/-- Progress of a move of duration `d` at `t` elapsed milliseconds, `t` stopping at `d` (R22). -/
def progress (t d : Nat) : Nat := min t d * 65536 / d

/-- Shaped progress of a curve at progress `p`, before the clamp (R23). -/
def Curve.raw (c : Curve) (p : Nat) : Int :=
  match c with
  | .linear => p
  | .easeIn => p * p / 65536
  | .easeOut => 65536 - (65536 - p) * (65536 - p) / 65536
  | .scurve => 3 * (p * p / 65536) - 2 * (p * p / 65536 * p / 65536)
  | .snapEnd => if p < 65536 then 0 else 65536
  | .snapStart => 65536

/-- Shaped progress q of a curve at progress `p` (R23). -/
def Curve.shape (c : Curve) (p : Nat) : Int := clampInt 0 65536 (c.raw p)

/-- The level of a move from `s` to `t` at shaped progress `q` (R24). -/
def levelAt (s t q : Int) : Int := s + roundAway ((t - s) * q) 65536

/-- The level of a move from `s` to `target` at `t` whole elapsed milliseconds (R22 to R24). -/
def moveLevel (s target : Int) (duration : Nat) (c : Curve) (t : Nat) : Int :=
  if duration = 0 then target else levelAt s target (c.shape (progress t duration))

/-! ### The glide (R26, R27) -/

/-- The used level of a glide from `start` toward the live `level`, `since` milliseconds after the
release, over `time` milliseconds (R26). -/
def glideLevel (start level : Int) (since time : Nat) : Int :=
  if time = 0 then level else levelAt start level (progress since time)

/-! ### The effective level (R28, R29) -/

/-- The combined level turned into E and LIMITED (R29). -/
def saturate (e : Int) : Int × Bool :=
  if 100 < e then (100, true) else if e ≤ -800 then (-800, false) else (e, false)

/-- E and LIMITED of a strip from its used level and trim and its group master's, if it has one
(R28, R29). -/
def effectiveLevel (v trim : Int) (master : Option (Int × Int)) : Int × Bool :=
  if v = -800 then (-800, false)
  else
    match master with
    | none => saturate (v + trim)
    | some (gv, gt) => if gv = -800 then (-800, false) else saturate (v + trim + (gv + gt))

/-! ### The mute step (R30, R31) -/

/-- The mute factor after one frame event with period `f` and ramp time `ramp` (R30). -/
def muteStep (f ramp goal m : Nat) : Nat :=
  if ramp = 0 then goal
  else
    let step := ceilDiv (1024 * f) ramp
    if m < goal then min (m + step) goal else if goal < m then max (m - step) goal else m

/-! ### The gain word (R32 to R34) -/

/-- Entries 0 to 24 of the table T (R33). -/
def gainTable0 : List Nat :=
  [1048576, 1060718, 1073000, 1085425, 1097994,
    1110708, 1123569, 1136580, 1149741, 1163054,
    1176522, 1190145, 1203926, 1217867, 1231969,
    1246235, 1260666, 1275263, 1290030, 1304968,
    1320079, 1335365, 1350828, 1366469, 1382292]

/-- Entries 25 to 49 of the table T (R33). -/
def gainTable25 : List Nat :=
  [1398299, 1414490, 1430869, 1447438, 1464198,
    1481153, 1498304, 1515653, 1533204, 1550958,
    1568917, 1587084, 1605462, 1624052, 1642858,
    1661881, 1681125, 1700591, 1720283, 1740203,
    1760354, 1780738, 1801358, 1822216, 1843317]

/-- Entries 50 to 74 of the table T (R33). -/
def gainTable50 : List Nat :=
  [1864661, 1886253, 1908095, 1930189, 1952540,
    1975149, 1998020, 2021156, 2044560, 2068235,
    2092184, 2116411, 2140917, 2165708, 2190786,
    2216154, 2241816, 2267775, 2294034, 2320598,
    2347469, 2374652, 2402149, 2429964, 2458102]

/-- Entries 75 to 99 of the table T (R33). -/
def gainTable75 : List Nat :=
  [2486566, 2515359, 2544485, 2573949, 2603754,
    2633904, 2664403, 2695255, 2726465, 2758036,
    2789972, 2822279, 2854959, 2888018, 2921460,
    2955289, 2989509, 3024126, 3059144, 3094567,
    3130401, 3166649, 3203317, 3240410, 3277932]

/-- Entries 100 to 124 of the table T (R33). -/
def gainTable100 : List Nat :=
  [3315888, 3354285, 3393125, 3432416, 3472161,
    3512367, 3553038, 3594181, 3635799, 3677900,
    3720488, 3763569, 3807149, 3851234, 3895829,
    3940941, 3986575, 4032737, 4079434, 4126672,
    4174456, 4222794, 4271692, 4321156, 4371192]

/-- Entries 125 to 149 of the table T (R33). -/
def gainTable125 : List Nat :=
  [4421808, 4473010, 4524805, 4577200, 4630202,
    4683817, 4738053, 4792917, 4848416, 4904558,
    4961351, 5018800, 5076915, 5135703, 5195172,
    5255329, 5316183, 5377741, 5440013, 5503005,
    5566727, 5631187, 5696393, 5762354, 5829079]

/-- Entries 150 to 174 of the table T (R33). -/
def gainTable150 : List Nat :=
  [5896576, 5964855, 6033925, 6103795, 6174473,
    6245970, 6318295, 6391458, 6465467, 6540334,
    6616067, 6692678, 6770175, 6848570, 6927873,
    7008094, 7089244, 7171333, 7254374, 7338375,
    7423350, 7509308, 7596262, 7684222, 7773201]

/-- Entries 175 to 199 of the table T (R33). -/
def gainTable175 : List Nat :=
  [7863211, 7954262, 8046368, 8139541, 8233792,
    8329135, 8425582, 8523146, 8621839, 8721675,
    8822668, 8924829, 9028174, 9132715, 9238467,
    9345443, 9453659, 9563127, 9673863, 9785881,
    9899196, 10013823, 10129778, 10247075, 10365730]

/-- The fixed table T: entry r is 1,048,576 × 10^(r / 200) rounded half up (R33). -/
def gainTable : List Nat :=
  gainTable0 ++ gainTable25 ++ gainTable50 ++ gainTable75 ++
    gainTable100 ++ gainTable125 ++ gainTable150 ++ gainTable175

/-- The unscaled gain W0 of a level above OFF: decade and remainder, table, division by ten once for
each decade below 0 dB (R32, R34). -/
def unscaledGain (e : Int) : Nat :=
  let k := (-(e / 200)).toNat
  let t := gainTable.getD (e % 200).toNat 0
  if k = 0 then t else (t + 10 ^ k / 2) / 10 ^ k

/-- The gain word of a strip with effective level `e` and mute factor `m` (R32, R34). -/
def gainWord (e : Int) (m : Nat) : Nat :=
  if e = -800 then 0 else unscaledGain e * m / 1024

/-! ### The fader law (R36, R37) -/

/-- The level at an accepted position (R36). -/
def faderLaw (p : Nat) : Int :=
  if p < 16 then -800
  else if p < 256 then -800 + roundHalfUp (500 * (p - 16)) 240
  else if p < 768 then -300 + roundHalfUp (300 * (p - 256)) 512
  else roundHalfUp (100 * (p - 768)) 255

/-- The motor target of a used level (R37). -/
def motorTarget (v : Int) : Nat :=
  if v ≤ -800 then 0
  else if v < -300 then 16 + roundHalfUp (240 * (v + 800).toNat) 500
  else if v < 0 then 256 + roundHalfUp (512 * (v + 300).toNat) 300
  else 768 + roundHalfUp (255 * v.toNat) 100

end Sys2Proof.Machine
end

