-- ==== Sys2Proof/Machine/Flags.lean ====
section
/-!
DEFINITION. The flags of the part: the 21 events and their pending flags, ATTN, and what a channel
record derives from others at every moment (mute sources GROUP and SAFE, the mute goal, the used
level V).
-/

namespace Sys2Proof.Machine

/-! ### Events (R187) -/

/-- The 21 events, in the order of the table in 11.1 (R187). -/
inductive Event where
  | stateChange | cueFired | cueComplete | endOfList | goIgnored | flightRetired | noticeOverflow
  | restarted | clockLocked | clockRelocated | clockFreewheel | clockLost | clockStopped | markError
  | wiperDisagree | touchBlocked | remapDone | linkError | linkSilence | lineLate | levelClamp
deriving DecidableEq, Repr

/-- The bit of an event in the flags and enables (R197). -/
def Event.index : Event → Fin 21
  | .stateChange => 0
  | .cueFired => 1
  | .cueComplete => 2
  | .endOfList => 3
  | .goIgnored => 4
  | .flightRetired => 5
  | .noticeOverflow => 6
  | .restarted => 7
  | .clockLocked => 8
  | .clockRelocated => 9
  | .clockFreewheel => 10
  | .clockLost => 11
  | .clockStopped => 12
  | .markError => 13
  | .wiperDisagree => 14
  | .touchBlocked => 15
  | .remapDone => 16
  | .linkError => 17
  | .linkSilence => 18
  | .lineLate => 19
  | .levelClamp => 20

/-- An event's flag alone. -/
def Event.mask (e : Event) : BitVec 21 := 1#21 <<< e.index.val

/-- The pending flag of an event is set. -/
def State.flagged (s : State) (e : Event) : Bool := s.events.flags.getLsbD e.index.val

/-- Raising an event sets its pending flag (R187). -/
def State.raise (s : State) (e : Event) : State :=
  s.setEvents { s.events with flags := s.events.flags ||| e.mask }

/-- The five groups of events with their first bit and their number of events (R187, R191): 1 SHOW,
2 CLOCK, 3 SURFACE, 4 LINK, 5 OUTPUT. -/
def groupSpan : Nat → Nat × Nat
  | 1 => (0, 8)
  | 2 => (8, 6)
  | 3 => (14, 3)
  | 4 => (17, 2)
  | 5 => (19, 2)
  | _ => (0, 0)

/-- The flags of group `g`, from bit 0 for its first event (R197). -/
def groupFlags (flags : BitVec 21) (g : Nat) : Nat :=
  flags.toNat / 2 ^ (groupSpan g).1 % 2 ^ (groupSpan g).2

/-- The flags with those of group `g` cleared (R191). -/
def clearGroup (flags : BitVec 21) (g : Nat) : BitVec 21 :=
  flags &&& ~~~(BitVec.ofNat 21 ((2 ^ (groupSpan g).2 - 1) * 2 ^ (groupSpan g).1))

/-- The summary of the five groups: bit 0 SHOW to bit 4 OUTPUT (R191, R198). -/
def groupSummary (flags : BitVec 21) : Nat :=
  (if groupFlags flags 1 = 0 then 0 else 1) + (if groupFlags flags 2 = 0 then 0 else 2) +
    (if groupFlags flags 3 = 0 then 0 else 4) + (if groupFlags flags 4 = 0 then 0 else 8) +
    (if groupFlags flags 5 = 0 then 0 else 16)

/-- ATTN is driven low: an enabled flag is pending, or a notice waits and notice reporting is enabled;
never while RESETn is low (R189). -/
def State.attention (s : State) : Bool :=
  !s.resetLow &&
    (s.events.flags &&& s.events.enables != 0 ||
      (!s.seq.notices.isEmpty && s.events.noticeEnable))

/-- LDE is driven: a reply is on LTX (R181). -/
def State.driving (s : State) : Bool := s.link.sending.isSome

/-! ### Channels (R1, R5 to R10) -/

/-- The record of a channel. -/
def State.chan (s : State) (c : Chan) : Channel := s.channels.get c

/-- The state with a channel's record replaced. -/
def State.setChan (s : State) (c : Chan) (r : Channel) : State :=
  s.setChannels (s.channels.set c r)

/-- The channel is a strip (R1). -/
def isStrip (c : Chan) : Bool := c.val < 48

/-- The channel of a strip. -/
def stripChan (p : Strip) : Chan := ⟨p.val, by omega⟩

/-- The group master of group index `g` (R1). -/
def masterChan (g : Fin 8) : Chan := ⟨48 + g.val, by omega⟩

/-- All 56 channels, in order. -/
def allChans : List Chan := List.finRange 56

/-- The SAFE mute source: set on every channel exactly while the show state is SAFE (R9). -/
def State.safeSource (s : State) : Bool := s.seq.state == .safe

/-- One of the stored mute sources is set (R7). -/
def Channel.storedMute (r : Channel) : Bool := r.cue || r.operator || r.remote

/-- The GROUP mute source of a channel: its group master has any source set; never on a group master
(R8). -/
def State.groupSource (s : State) (c : Chan) : Bool :=
  isStrip c &&
    match (s.chan c).cfg.group with
    | none => false
    | some g => (s.chan (masterChan g)).storedMute || s.safeSource

/-- Some mute source of the channel is set (R10). -/
def State.muted (s : State) (c : Chan) : Bool :=
  (s.chan c).storedMute || s.groupSource c || s.safeSource

/-- A channel's whole set of mute sources, as a flag set (R198). -/
def State.muteSources (s : State) (c : Chan) : Nat :=
  let r := s.chan c
  (if r.cue then 1 else 0) + (if r.operator then 2 else 0) + (if r.remote then 4 else 0) +
    (if s.groupSource c then 8 else 0) + (if s.safeSource then 16 else 0)

/-- The mute goal of a strip (R10). -/
def State.muteGoal (s : State) (c : Chan) : Nat := if s.muted c then 0 else 1024

/-- The ramp time in force for a strip: 20 ms under SAFE, else its own (R31). -/
def State.rampTime (s : State) (c : Chan) : Nat :=
  if s.safeSource then 20 else (s.chan c).cfg.muteRamp

/-- The used level V of a record, formed at this instant (R5, R6, R26). -/
def Channel.used (r : Channel) : Int :=
  match r.hand with
  | .free => r.level
  | .held h => h
  | .gliding start since time => glideLevel start r.level since time

/-! ### Standing still (R104) -/

/-- The show clock gives clock-locked advance: LOCKED or FREEWHEEL (R115). -/
def State.clockLocked (s : State) : Bool :=
  s.clock.state == .locked || s.clock.state == .freewheel

/-- Moves and waits of this timebase that belong to the show advance at this instant (R77, R104). -/
def State.showAdvances (s : State) (b : Timebase) : Bool :=
  s.seq.state == .running &&
    match b with
    | .wall => true
    | .clock => s.clockLocked

/-- What one wall millisecond adds to the elapsed time of a move of this timebase, or takes from a
remaining delay or wait: the millisecond itself, or the clock-locked advance, ρ units of 1/65536 ms (R77,
R102, R103, R115). -/
def State.advance (s : State) (b : Timebase) : Nat :=
  match b with
  | .wall => 65536
  | .clock => s.clock.rate

/-- The active move advances at this instant: REMOTE and LOAD moves always (R104). -/
def State.moveAdvances (s : State) (m : ActiveMove) : Bool :=
  match m.owner with
  | .firing _ _ => s.showAdvances m.base
  | .remote => true
  | .load => true

end Sys2Proof.Machine
end

