-- ==== Sys2Proof/Machine/Ops.lean ====
section
/-!
DEFINITION. The operations that several commands share: notices, the arm record, ends of moves,
starts, firings, clearing, show-state changes and acts.

Order of events that fall together inside one operation: log entry 6.
-/

namespace Sys2Proof.Machine

/-! ### The cue list (R42, R67) -/

/-- The cue of this number, if it is in the list. -/
def findCue (cues : List Cue) (n : Nat) : Option Cue := cues.find? (fun c => c.number == n)

/-- The cue after number `n`: the least number greater than `n` (R67). The list is ascending (R42). -/
def cueAfter (cues : List Cue) (n : Nat) : Option Nat :=
  (cues.find? (fun c => decide (n < c.number))).map Cue.number

/-- The cue before number `n`: the greatest number smaller than `n` (R67). -/
def cueBefore (cues : List Cue) (n : Nat) : Option Nat :=
  ((cues.filter (fun c => decide (c.number < n))).getLast?).map Cue.number

/-- The first cue of the list. -/
def firstCue (cues : List Cue) : Option Nat := cues.head?.map Cue.number

/-- The last cue of the list. -/
def lastCue (cues : List Cue) : Option Nat := cues.getLast?.map Cue.number

/-- The moves in use, over all cues (R43). -/
def movesInUse (cues : List Cue) : Nat := (cues.map fun c => c.moves.length).sum

/-- The pool's free count (R43). -/
def poolFree (cues : List Cue) : Nat := 2048 - movesInUse cues

/-- The record of the next cue (R67). -/
def State.nextCue (s : State) : Option Cue := s.seq.next.bind (findCue s.cues)

/-! ### Notices (R86) -/

/-- A notice joins the queue, or is discarded, counted and reported when 16 are held (R86). -/
def State.notify (s : State) (n : Notice) : State :=
  if s.seq.notices.length < 16 then s.setSeq { s.seq with notices := s.seq.notices ++ [n] }
  else (s.setSeq { s.seq with overflow := countUp 255 s.seq.overflow }).raise .noticeOverflow

/-! ### The arm record (R75, R76, R123) -/

/-- The clock point an arm hands to the show clock (R76, R123). -/
def Arm.point : Arm → Option (Nat × Nat)
  | .clock song position => some (song, position)
  | .empty => none
  | .await _ => none
  | .waiting _ _ => none

/-- The arm is a WAITING arm. -/
def Arm.isWaiting : Arm → Bool
  | .waiting _ _ => true
  | .empty => false
  | .await _ => false
  | .clock _ _ => false

/-- The arm record is set; the clock holds its clock point, or none (R76, R123). -/
def State.setArm (s : State) (a : Arm) : State :=
  (s.setSeq { s.seq with arm := a }).setClock { s.clock with point := a.point }

/-- CLOCK for a CLOCK next cue, otherwise empty (R76). -/
def State.clockArm (s : State) : Arm :=
  match s.nextCue with
  | none => .empty
  | some c => if c.trigger = .clock then .clock c.song c.position else .empty

/-- WAITING with the next cue's wait, in its timebase (R74, R75). -/
def State.waitingArm (s : State) : Arm :=
  match s.nextCue with
  | none => .empty
  | some c => .waiting (c.wait * 65536) c.base

/-- The arm a firing sets for the new next cue (R75). -/
def State.firingArm (s : State) (id : Nat) : Arm :=
  match s.nextCue with
  | none => .empty
  | some c =>
    match c.trigger with
    | .manual => .empty
    | .follow => .await id
    | .withCue => .waiting (c.wait * 65536) c.base
    | .clock => .clock c.song c.position

/-- The arm SAFE_RELEASE into HOLD sets (R76). -/
def State.releaseArm (s : State) : Arm :=
  match s.nextCue with
  | none => .empty
  | some c =>
    match c.trigger with
    | .manual => .empty
    | .follow => .waiting (c.wait * 65536) c.base
    | .withCue => .waiting (c.wait * 65536) c.base
    | .clock => .clock c.song c.position

/-! ### Ends of moves (R74, R100) -/

/-- A firing completes: its entry leaves the table, COMPLETE is queued, CUE_COMPLETE raised, and an
arm that awaits it starts waiting (R74). -/
def State.completeFiring (s : State) (f : Firing) : State :=
  let left := s.setSeq { s.seq with flight := s.seq.flight.filter (fun g => g.id != f.id) }
  let told := (left.notify { kind := .complete, cue := f.cue, firing := f.id, cause := none }).raise
    .cueComplete
  if told.seq.arm = .await f.id then told.setArm told.waitingArm else told

/-- One end of a move of firing `id` is counted: at 0 the firing completes (R74, R100). -/
def State.countEnd (s : State) (id : Nat) : State :=
  match s.seq.flight.find? (fun f => f.id == id) with
  | none => s
  | some f =>
    if f.outstanding ≤ 1 then s.completeFiring f
    else
      s.setSeq { s.seq with
        flight := s.seq.flight.map fun g =>
          if g.id == id then { g with outstanding := g.outstanding - 1 } else g }

/-- An end is reported to the owner of the move: REMOTE and LOAD moves report to nobody (R100). -/
def State.reportEnd (s : State) (o : Owner) : State :=
  match o with
  | .firing id _ => s.countEnd id
  | .remote => s
  | .load => s

/-- The channel's active move, if any, is reported as ended (R95, R101, R105). -/
def State.reportActive (s : State) (c : Chan) : State :=
  match (s.chan c).active with
  | none => s
  | some m => s.reportEnd m.owner

/-- The active move ends COMPLETED: A is the target exactly, and the end is reported (R99). -/
def State.completeMove (s : State) (c : Chan) : State :=
  match (s.chan c).active with
  | none => s
  | some m =>
    (s.setChan c { s.chan c with level := m.target, active := none }).reportEnd m.owner

/-! ### Starts of moves (R94 to R97) -/

/-- The level of an active move at its elapsed time (R98). -/
def ActiveMove.now (m : ActiveMove) : Int :=
  moveLevel m.start m.target m.duration m.curve (m.elapsed / 65536)

/-- A level move takes the channel: the active move ends REPLACED, and the new one starts from A with
elapsed time 0, or, with duration 0, sets A to the target and ends COMPLETED (R95, R105, R107). -/
def State.startLevel (s : State) (c : Chan) (target : Int) (duration : Nat) (curve : Curve)
    (base : Timebase) (owner : Owner) : State :=
  let m : ActiveMove :=
    { target, duration, curve, base, owner, start := (s.chan c).level, elapsed := 0 }
  let s := s.reportActive c
  if duration = 0 then
    (s.setChan c { s.chan c with level := target, active := none }).reportEnd owner
  else s.setChan c { s.chan c with level := m.now, active := some m }

/-- A move that has left the pending list starts (R94 to R96). -/
def State.startMove (s : State) (c : Chan) (p : PendingMove) : State :=
  match p.action with
  | .level => s.startLevel c p.target p.duration p.curve p.base (.firing p.firing p.cue)
  | .mute => (s.setChan c { s.chan c with cue := true }).countEnd p.firing
  | .unmute => (s.setChan c { s.chan c with cue := false }).countEnd p.firing

/-- The head of a channel's pending list leaves it and starts. -/
def State.startHead (s : State) (c : Chan) : State :=
  match (s.chan c).waiting with
  | [] => s
  | p :: rest => (s.setChan c { s.chan c with waiting := rest }).startMove c p

/-- The remaining delay at the head of the pending list is 0. -/
def Channel.headDue (r : Channel) : Bool :=
  match r.waiting with
  | [] => false
  | p :: _ => p.delay == 0

/-- The moves at the head of the channel's pending list whose delay is 0 start one after another, at
most `n` of them (R97). -/
def State.startDue : Nat → State → Chan → State
  | 0, s, _ => s
  | n + 1, s, c => if (s.chan c).headDue then State.startDue n (s.startHead c) c else s

/-! ### Firings (R72, R73, R92, R93) -/

/-- The moves of a firing leave a channel at its retirement (R109). -/
def Channel.withoutFiring (r : Channel) (id : Nat) : Channel :=
  { r with
    waiting := r.waiting.filter fun p => p.firing != id
    active := r.active.filter fun m =>
      match m.owner with
      | .firing k _ => k != id
      | .remote => true
      | .load => true }

/-- The oldest firing is retired (R73). -/
def State.retireOldest (s : State) : State :=
  match s.seq.flight with
  | [] => s
  | f :: rest =>
    let s := s.setChannels (s.channels.map fun r => r.withoutFiring f.id)
    let s := s.setSeq { s.seq with flight := rest }
    (s.notify { kind := .retired, cue := f.cue, firing := f.id, cause := none }).raise
      .flightRetired

/-- A firing's copy of a stored move (R72, R90). -/
def StoredMove.copy (m : StoredMove) (id cue : Nat) (base : Timebase) : PendingMove :=
  { action := m.action, target := m.target, duration := m.duration, curve := m.curve,
    delay := m.delay * 65536, base, firing := id, cue, counted := false }

/-- A move takes its place in a pending list: after every move of the same or a smaller remaining
delay (R93). -/
def insertMove (p : PendingMove) : List PendingMove → List PendingMove
  | [] => [p]
  | q :: rest => if p.delay < q.delay then p :: q :: rest else q :: insertMove p rest

/-- The pending list of one channel for a firing of `cue` (R93). -/
def pendingFor (cue : Cue) (id : Nat) (c : Chan) : List PendingMove :=
  ((cue.moves.filter fun m => m.channel == c).map fun m => m.copy id cue.number cue.base).foldl
    (fun l p => insertMove p l) []

/-- A firing is placed on one channel: the moves pending there end DROPPED, and the firing's moves
take their places (R92). A channel the cue does not name is left as it is. -/
def State.placeOn (s : State) (cue : Cue) (id : Nat) (c : Chan) : State :=
  if cue.moves.any fun m => m.channel == c then
    let s := (s.chan c).waiting.foldl (fun s p => s.countEnd p.firing) s
    s.setChan c { s.chan c with waiting := pendingFor cue id c }
  else s

/-- The firing id after `id` (R71). -/
def idAfter (id : Nat) : Nat := if id < 65535 then id + 1 else 1

/-- The arm is emptied, and the oldest firing is retired when 8 are in flight: steps 1 and 2 of a
firing (R72, R73). -/
def State.makeRoom (s : State) : State :=
  let t := s.setArm .empty
  if t.seq.flight.length < 8 then t else t.retireOldest

/-- The flight table entry of a firing of `cue` with the id that comes next (R71). -/
def State.entryFor (s : State) (cue : Cue) (cause : Cause) : Firing :=
  { id := s.seq.nextId, cue := cue.number, cause, outstanding := cue.moves.length }

/-- The firing takes the next id and joins the flight table (R71, R72). -/
def State.enterFiring (s : State) (cue : Cue) (cause : Cause) : State :=
  s.setSeq { s.seq with
    nextId := idAfter s.seq.nextId, flight := s.seq.flight ++ [s.entryFor cue cause] }

/-- The firing is placed on every channel that its cue names (R72, R92). -/
def State.placeFiring (s : State) (cue : Cue) (id : Nat) : State :=
  allChans.foldl (fun t c => t.placeOn cue id c) s

/-- The playhead moves on, and the firing is told and raised (R67, R72, R86). -/
def State.announce (s : State) (cue : Cue) (id : Nat) (cause : Cause) : State :=
  let t := s.setSeq { s.seq with
    standing := some cue.number, next := cueAfter s.cues cue.number }
  (t.notify { kind := .fired, cue := cue.number, firing := id, cause := some cause }).raise .cueFired

/-- Steps 1 to 8 of a firing of the next cue (R72). -/
def State.fireSteps (s : State) (cue : Cue) (cause : Cause) : State :=
  let r := s.makeRoom
  let t := ((r.enterFiring cue cause).placeFiring cue r.seq.nextId).announce cue r.seq.nextId cause
  let t := t.setArm (t.firingArm r.seq.nextId)
  if cue.moves.isEmpty then t.completeFiring (r.entryFor cue cause) else t

/-- The moves of firing `id` whose delay is 0 start on one channel (R94). -/
def State.startOwn (s : State) (id : Nat) (c : Chan) : State :=
  match (s.chan c).waiting with
  | [] => s
  | p :: rest => if p.firing = id then State.startDue (rest.length + 1) s c else s

/-- The next cue fires, and its moves without a delay start (R72, R94). -/
def State.fire (s : State) (cause : Cause) : State :=
  match s.nextCue with
  | none => s
  | some cue =>
    allChans.foldl (fun t c => t.startOwn s.seq.nextId c) (s.fireSteps cue cause)

/-- The cause of a firing by a WAITING arm (R77). -/
def State.waitCause (s : State) : Cause :=
  match s.nextCue with
  | none => .withCue
  | some c => if c.trigger = .follow then .follow else .withCue

/-- A WAITING arm stands at 0 in SHOW (R77). -/
def State.waitDue (s : State) : Bool :=
  s.seq.state == .running &&
    match s.seq.arm with
    | .waiting left _ => left == 0
    | .empty => false
    | .await _ => false
    | .clock _ _ => false

/-- Waits of 0 that have been set expire at once, one after another, at most `n` (R77). Each fires a
later cue of the list, so the number of cues bounds the chain. -/
def State.settle : Nat → State → State
  | 0, s => s
  | n + 1, s => if s.waitDue then State.settle n (s.fire s.waitCause) else s

/-- Every wait of 0 that has been set expires (R77). -/
def State.settled (s : State) : State := State.settle (s.cues.length + 1) s

/-- After an event that may have completed a firing: a wait of 0 that it set expires. An arm that was
WAITING before is left to WAIT_EXPIRY (R77, R79). -/
def State.settledFrom (s before : State) : State :=
  if before.seq.arm.isWaiting then s else s.settled

/-- The next cue fires with everything that follows at the same instant. -/
def State.fireChain (s : State) (cause : Cause) : State := (s.fire cause).settled

/-! ### Clearing (R81, R108) -/

/-- A channel without moves; A stays where it stands (R108). -/
def Channel.cleared (r : Channel) : Channel := { r with active := none, waiting := [] }

/-- Every move of every channel ends CLEARED, every firing leaves with a CLEARED notice, oldest first,
and the arm is emptied (R65, R81, R108). A crossing of this millisecond is over with it (R46, log
entry 26). -/
def State.clearShow (s : State) : State :=
  let t := s.setChannels (s.channels.map Channel.cleared)
  let t := s.seq.flight.foldl
    (fun t f => t.notify { kind := .cleared, cue := f.cue, firing := f.id, cause := none }) t
  (t.setSeq { t.seq with flight := [], crossed := none }).setArm .empty

/-! ### Show states (R60, R63 to R65, R188) -/

/-- The show state becomes `st`; a change raises STATE_CHANGE (R60). -/
def State.setShow (s : State) (st : ShowState) : State :=
  if s.seq.state = st then s else (s.setSeq { s.seq with state := st }).raise .stateChange

/-- HOLD from a request, contact or act: SHOW becomes HOLD, any other state stays (R63). -/
def State.holdShow (s : State) : State :=
  if s.seq.state = .running then s.setShow .hold else s

/-- SAFE is entered from EDIT, SHOW or HOLD with the clearing of STOP; in SAFE nothing changes
(R65). -/
def State.enterSafe (s : State) : State :=
  if s.seq.state = .safe then s
  else
    let s := s.setSeq { s.seq with ret := if s.seq.state = .edit then .edit else .hold }
    (s.setShow .safe).clearShow

/-- The return from HOLD to SHOW: an empty arm becomes CLOCK for a CLOCK next cue, unless a scan is in
flight, and a WAITING arm at 0 expires (R64, R85). -/
def State.resumeShow (s : State) : State :=
  let s := s.setShow .running
  let s := if s.seq.arm = .empty ∧ s.seq.scan = none then s.setArm s.clockArm else s
  s.settled

/-- The act an act-capable event carries out (R188). -/
def State.apply (s : State) (a : Act) : State :=
  match a with
  | .none => s
  | .hold => s.holdShow
  | .safe => s.enterSafe

/-! ### Retained memory and resets (R89, R148, R172, R186, R192, R194, R195) -/

/-- The live flag of a reset taken now (R194). -/
def State.live (s : State) : Bool :=
  s.seq.state == .running || s.seq.state == .hold || (s.seq.state == .safe && s.seq.ret == .hold)

/-- A slot is in use: all 16 in SEQUENTIAL, the first 8 in PAIRED (R129). -/
def ScanMode.uses (m : ScanMode) (f : Slot) : Bool :=
  match m with
  | .sequential => true
  | .paired => f.val < 8

/-- The touch line or key after a reset: the pin keeps its level (R132). -/
def TouchLine.afterReset (l : TouchLine) : TouchLine :=
  { level := l.level, qualified := false, count := 0 }

/-- The contact line after a reset: the pin keeps its level (R157). -/
def Contact.afterReset (l : Contact) : Contact :=
  { high := l.high, qualified := false, count := 0 }

/-- The surface after a reset, with what it retains (R148). -/
def Surface.afterReset (u : Surface) : Surface :=
  { u with
    faders := Tab.build 16 fun f =>
      Fader.fresh (if u.cfg.mode.uses f then (u.banks.get u.activeBank).get f else none)
    touch := u.touch.map TouchLine.afterReset
    keys := u.keys.map TouchLine.afterReset
    passLeft := u.cfg.period }

/-- The reset pin or a link restart is taken: the restart record is written, the flags are cleared but
for RESTARTED, the restart sequence is IDLE, every block's running state is set afresh, and the
retained memory stays (R192, R194, R195). A link restart is taken and left at one instant, so the characters
that LRX and TMIN have brought behind it wait to be judged, and one under way goes on; the reset pin holds
the part, and they are lost (R176, R192; log entries 5 and 23). -/
def State.takeReset (s : State) (cause : ResetCause) : State :=
  let live := s.live
  let record : RestartRecord :=
    { cause, live, standing := s.seq.standing, next := s.seq.next,
      count := countUp 255 s.restart.count }
  { s with
    channels := Tab.build 56 fun c =>
      Channel.afterReset (s.chan c).cfg (if live && isStrip c then 0 else 1024)
    seq :=
      if live then Sequencer.afterReset .safe .hold record.next record.standing
      else Sequencer.afterReset .edit .edit (firstCue s.cues) none
    clock :=
      { Clock.afterReset s.clock.cfg with
        line := if cause = .linkRestart then s.clock.line else []
        begun := if cause = .linkRestart then s.clock.begun else none }
    surface := s.surface.afterReset
    contacts :=
      { s.contacts with lines := s.contacts.lines.map Contact.afterReset, ignored := 0 }
    output := Output.afterReset s.output.stored s.output.routes
    link :=
      { Link.afterReset s.link.straps s.link.limit with
        line := if cause = .linkRestart then s.link.line else []
        begun := if cause = .linkRestart then s.link.begun else none }
    events := { s.events with flags := restartedOnly, sequence := .idle, window := 0 }
    restart := record }

/-- Power-on: the retained memory takes its power-on values and everything else is set afresh. The
input pins keep their levels, and the queue is untouched (R192, R195). -/
def State.takePowerOn (s : State) (straps : BitVec 5) : State :=
  { State.reset with
    surface :=
      { State.reset.surface with
        touch := s.surface.touch.map TouchLine.afterReset
        keys := s.surface.keys.map TouchLine.afterReset
        wipers := s.surface.wipers }
    contacts :=
      { State.reset.contacts with lines := s.contacts.lines.map Contact.afterReset }
    link := Link.afterReset straps 0
    resetLow := s.resetLow
    free := s.free
    pending := s.pending
    inputs := s.inputs }

/-! ### Events with acts (R188) -/

/-- The act set for an event: NONE for the events that are not act-capable (R187, R188). -/
def State.actFor (s : State) (e : Event) : Act :=
  match e with
  | .clockLost => s.events.actLost
  | .linkSilence => s.events.actSilence
  | .lineLate => s.events.actLate
  | _ => .none

/-- An event is raised and its act applied at the instant of the raise (R187, R188). -/
def State.raiseWithAct (s : State) (e : Event) : State :=
  (s.raise e).apply (s.actFor e)

end Sys2Proof.Machine
end

