-- ==== Sys2Proof/Machine/LinkUnit.lean ====
section
/-!
DEFINITION. The Link Unit (chapter 10): how a good request is received, judged, served and answered,
the four link faults, replies, the silence watchdog, and the requests the unit owns.
-/

namespace Sys2Proof.Machine

/-! ### Serving a request (R178, R179, R183, R193) -/

/-- The answer a block gives to a request: result code, payload, and what the end of the reply brings
about. -/
structure Answer where
  result : Byte
  payload : List Byte
  after : AfterReply
deriving DecidableEq, Repr

/-- An answer with a result and a payload. -/
def Answer.mk' (r : Result) (payload : List Byte) : Answer := ⟨r.code, payload, .nothing⟩

/-- An answer with a result alone: a refusal carries no payload unless its rule gives one (R180). -/
def Answer.bare (r : Result) : Answer := ⟨r.code, [], .nothing⟩

/-- What serving a request leaves: the state, and the answer unless it is held back (R82). -/
structure Served where
  state : State
  answer : Option Answer

/-- A request that is answered and changes nothing. -/
def State.refuse (s : State) (r : Result) : Served := ⟨s, some (Answer.bare r)⟩

/-- A request that is answered at once. -/
def State.reply (s : State) (r : Result) (payload : List Byte) : Served :=
  ⟨s, some (Answer.mk' r payload)⟩

/-- The part judges what comes over LRX: it is not held in reset, and it is not driving LDE (R176,
R181, R192). -/
def State.hears (s : State) : Bool := !s.resetLow && s.link.sending.isNone

/-- A character time in crystal cycles, 11 bits of 16 × (n + 1) cycles (R173). -/
def charTime (divider : Nat) : Nat := 176 * (divider + 1)

/-- A good request restarts the silence watchdog, and the receiver is UNADDRESSED after it (R176,
R183). -/
def State.goodRequest (s : State) : State :=
  s.setLink { s.link with
    receiver := .unaddressed, rxQuiet := 0, timer := 0,
    watchdog := if s.link.limit = 0 then .off else .running }

/-- A good request that arrives while two are held is dropped, counted and reported (R179). -/
def State.dropRequest (s : State) : State :=
  (s.setLink { s.link with overrun := countUp 255 s.link.overrun }).raise .linkError

/-- The restart sequence is in STEP1 or STEP2 (R193). -/
def State.stepping (s : State) : Bool :=
  s.events.sequence == .step1 || s.events.sequence == .step2

/-- The restart sequence goes from STEP1 or STEP2 back to IDLE (R193). -/
def State.sequenceIdle (s : State) : State :=
  if s.stepping then s.setEvents { s.events with sequence := .idle } else s

/-- A good request of a known type is judged: wrong length, then the restart sequence, then its own
block (R178, R193). A refusal carries no payload unless the rule of the request gives one (R180): GO and
BACK carry theirs with every result code (R69, R80; log entry 9). -/
def judge {α : Type} (parsed : Option α) (serve : α → State → Served) (s : State)
    (carried : State → List Byte := fun _ => []) : Served :=
  match parsed with
  | none => s.sequenceIdle.reply .badLength (carried s)
  | some f => if s.stepping then s.sequenceIdle.reply .sequence (carried s) else serve f s

/-- The request takes its place in the buffer with its reply. A broadcast leaves the buffer when it
has been served (R179, R180). -/
def State.enqueue (v : Served) (code : Byte) (broadcast : Bool) : State :=
  if broadcast then v.state
  else
    let entry : Entry :=
      match v.answer with
      | none => ⟨none, .nothing⟩
      | some a => ⟨some ⟨code, a.result, a.payload⟩, a.after⟩
    v.state.setLink { v.state.link with buffer := v.state.link.buffer ++ [entry] }

/-- The request is a broadcast for this part: sent to 31, or to a part strapped to 31 (R174). -/
def State.isBroadcast (s : State) (d : Dest) : Bool := d == .broadcast || s.link.address == 31

/-- A good request arrives: while LDE is driven or RESETn is low it is not received; while two
requests are held it is dropped; otherwise it is served at once, since every request in the buffer has
been served (R179, R181). `serve` is told whether it was broadcast. -/
def State.receive (s : State) (d : Dest) (code : Byte) (serve : Bool → State → Served) : State :=
  if s.hears then
    let t := s.goodRequest
    if t.link.buffer.length < 2 then
      State.enqueue (serve (t.isBroadcast d) t) code (t.isBroadcast d)
    else t.dropRequest
  else s

/-- A request of a known type arrives with this body: received, parsed, judged (R178, R179). -/
def State.request {α : Type} (s : State) (d : Dest) (code : Byte) (parsed : Option α)
    (serve : α → Bool → State → Served) (carried : State → List Byte := fun _ => []) : State :=
  s.receive d code fun b t => judge parsed (fun f u => serve f b u) t carried

/-- A query's answer; a query changes nothing, and a broadcast one is not answered (R180). -/
def query {α : Type} (answer : α → State → Answer) (f : α) (_broadcast : Bool) (s : State) : Served :=
  ⟨s, some (answer f s)⟩

/-! ### Link requests (R184, R185) -/

/-- NOP is answered OK with no payload (R185). -/
def execNop (d : Dest) (body : List Byte) (s : State) : Host.Outcome State Fault Refusal :=
  .next (s.request d 0x01 (parseEmpty body) (query fun _ _ => Answer.bare .ok))

/-- The silence limit as stored: 0, or a multiple of 100 in 100..25,500, rounded down, with 1..99
becoming 100 (R184). -/
def silenceLimit (v : Nat) : Nat :=
  let v := min v 25500
  if v = 0 then 0 else if v < 100 then 100 else v / 100 * 100

/-- LINK_SETUP stores the silence limit, measured from 0, and the rate divider, in force from the end
of the reply or, when broadcast, at once; the change of rate discards a collection in progress
(R184). -/
def serveLinkSetup (f : LinkSetup) (broadcast : Bool) (s : State) : Served :=
  let limit := silenceLimit f.limit
  let t := s.setLink { s.link with
    limit, timer := 0, watchdog := if limit = 0 then .off else .running }
  let t := if broadcast then
      t.setLink { t.link with divider := f.divider, receiver := .unaddressed } else t
  ⟨t, some ⟨(Result.applied (limit != f.limit)).code, byte f.divider :: bytesOf 2 limit,
    .setDivider f.divider⟩⟩

def execLinkSetup (d : Dest) (body : List Byte) (s : State) : Host.Outcome State Fault Refusal :=
  .next (s.request d 0x02 (parseLinkSetup body) serveLinkSetup)

/-- What LINK_QUERY reports (R185). The address goes in one byte (R196 names no width for it; log
entry 7). -/
def linkReport (s : State) : List Byte :=
  let k := s.link
  [byte k.framing, byte k.gap, byte k.form, byte k.check, byte k.overrun, byte k.divider] ++
    bytesOf 2 k.limit ++ [k.watchdog.code] ++ bytesOf 2 k.timer ++ [byte k.address.toNat]

def execLinkQuery (d : Dest) (body : List Byte) (s : State) : Host.Outcome State Fault Refusal :=
  .next (s.request d 0x03 (parseEmpty body) (query fun _ s => Answer.mk' .ok (linkReport s)))

/-- A good request whose type code names no request is answered UNKNOWN_TYPE, is not applied, and
returns a restart sequence under way to IDLE (R178, R193). Its body is not looked at. -/
def execUnknownType (d : Dest) (code : Byte) (_body : List Byte) (s : State) :
    Host.Outcome State Fault Refusal :=
  .next (s.receive d code fun _ t => t.sequenceIdle.refuse .unknownType)

/-- A good request arriving while two requests are held is dropped (R179). With fewer held there is no
overrun, and nothing happens (log entry 4). -/
def execRequestOverrun (s : State) : Host.Outcome State Fault Refusal :=
  .next (if s.hears && decide (2 ≤ s.link.buffer.length) then s.goodRequest.dropRequest else s)

/-! ### Link faults and other traffic (R176, R177, R180) -/

/-- A fault discards the collection: the receiver is in `after`, LRX has been quiet for `quiet` cycles,
and LINK_ERROR is raised. `count` steps the fault's own counter (R177). -/
def State.linkFault (s : State) (after : Receiver) (quiet : Nat) (count : Link → Link) : State :=
  if s.hears then
    (s.setLink (count { s.link with receiver := after, rxQuiet := quiet })).raise .linkError
  else s

/-- A character with a bad stop bit during a collection (R177). -/
def execLinkFramingFault (s : State) : Host.Outcome State Fault Refusal :=
  .next (s.linkFault .unaddressed 0 fun k => { k with framing := countUp 255 k.framing })

/-- The quiet on LRX that makes a gap: one cycle more than four character times (R177). -/
def gapQuiet (divider : Nat) : Nat := 4 * charTime divider + 1

/-- More than four character times between characters of a collection (R177). It is judged when the gap
passes them, so LRX has then been quiet for longer than the wait of R180. -/
def execLinkGapFault (s : State) : Host.Outcome State Fault Refusal :=
  .next (s.linkFault .unaddressed (max s.link.rxQuiet (gapQuiet s.link.divider)) fun k =>
    { k with gap := countUp 255 k.gap })

/-- The receiver after a form fault: an abandoning address character for this part opens its own
collection (R176). -/
def receiverAfterForm : FormFault → Receiver
  | .length => .unaddressed
  | .abandoned none => .unaddressed
  | .abandoned (some d) => .length d

/-- A bad length, or a collection abandoned by an address character (R176, R177). -/
def execLinkFormFault (how : FormFault) (s : State) : Host.Outcome State Fault Refusal :=
  .next (s.linkFault (receiverAfterForm how) 0 fun k => { k with form := countUp 255 k.form })

/-- A message whose sum of length, type, body and check is not 0 modulo 256 (R177). -/
def execLinkCheckFault (s : State) : Host.Outcome State Fault Refusal :=
  .next (s.linkFault .unaddressed 0 fun k => { k with check := countUp 255 k.check })

/-- Characters that are not this part's collection restart the two-character wait and leave the
receiver UNADDRESSED. A collection under way is abandoned by their address character, which is a form
fault (R176, R180; log entry 18). -/
def execTrafficForOtherParts (s : State) : Host.Outcome State Fault Refusal :=
  .next
    (if s.hears then
      if s.link.receiver = .unaddressed then s.setLink { s.link with rxQuiet := 0 }
      else s.linkFault .unaddressed 0 fun k => { k with form := countUp 255 k.form }
    else s)

/-! ### Replies (R180, R181) -/

/-- The oldest reply, if it is ready (R180). -/
def Link.ready (k : Link) : Option Reply :=
  match k.buffer with
  | [] => none
  | e :: _ => e.reply

/-- A ready reply starts its send: LDE is driven for the time of its characters, and a collection that
LRX has begun is discarded without a count (R176, R180, R181; log entry 19). -/
def execReplySend (s : State) : Host.Outcome State Fault Refusal :=
  .next
    (if s.hears then
      match s.link.ready with
      | none => s
      | some r =>
        let m := r.message s.link.address
        s.setLink { s.link with
          receiver := .unaddressed
          sending := some { message := m, left := (m.length * charTime s.link.divider : Nat) }
          rxQuiet := max s.link.rxQuiet (2 * charTime s.link.divider)
          txQuiet := max s.link.txQuiet (2 * charTime s.link.divider) }
    else s)

/-- The level at LTX while a reply is sent: the bit of this instant, each for 16 × (n + 1) cycles (R173,
R181). The manual gives no level while none is sent. -/
def State.ltx (s : State) : Option Bool :=
  s.link.sending.bind fun x =>
    (x.message.flatMap LinkChar.bits)[
      ((x.message.length * charTime s.link.divider : Nat) - x.left).toNat /
        (16 * (s.link.divider + 1))]?

/-- The reply that is being sent has ended: LDE is released, its request leaves the buffer, and what
its end brings about happens: the new rate divider (R184) or the link restart (R192, R193). -/
def execReplyEnd (s : State) : Host.Outcome State Fault Refusal :=
  .next
    (if s.resetLow || s.link.sending.isNone then s
    else
      let t := s.setLink { s.link with
        sending := none, txQuiet := 0, receiver := .unaddressed, buffer := s.link.buffer.tail }
      match s.link.buffer with
      | [] => t
      | e :: _ =>
        match e.after with
        | .nothing => t
        | .setDivider n => t.setLink { t.link with divider := n }
        | .linkRestart => t.takeReset .linkRestart)

/-- The silence timer of a RUNNING watchdog has reached its limit (R183). -/
def Link.silent (k : Link) : Bool := k.watchdog == .running && decide (k.limit ≤ k.timer)

/-- The silence limit is due: the timer of a RUNNING watchdog has reached it, or reaches it in the next
millisecond, so that the act of LINK_SILENCE can be taken before the advance of P in that millisecond (R125,
R183, log entry 3). -/
def Link.silenceDue (k : Link) : Bool := k.watchdog == .running && decide (k.limit ≤ k.timer + 1)

/-- The silence timer of a RUNNING watchdog reaches its limit: EXPIRED, and LINK_SILENCE is raised with
its act. An OFF watchdog's timer is not judged, an EXPIRED one raises nothing more, and a timer further from
the limit, restarted by a request taken first, expires nothing (R183, log entry 3). -/
def execLinkSilence (s : State) : Host.Outcome State Fault Refusal :=
  .next
    (if s.resetLow || !s.link.silenceDue then s
    else (s.setLink { s.link with watchdog := .expired }).raiseWithAct .linkSilence)

end Sys2Proof.Machine
end

