-- ==== Sys2Proof/Machine/ChannelTable.lean ====
section
/-!
DEFINITION. The Channel Table's requests (chapter 1): CHANNEL_SETUP, TRIM, MUTE_REMOTE and
CHANNEL_QUERY. Each is judged channel first, then enumerated fields, then numeric fields are clamped
(R12).
-/

namespace Sys2Proof.Machine

/-- A channel's configuration record as it stands in a reply, in the order of R2. -/
def configBytes (c : ChannelConfig) : List Byte :=
  [match c.group with
    | none => 0
    | some g => byte (g.val + 1)] ++
    int2 c.base ++ int2 c.trim ++ bytesOf 2 c.muteRamp ++ [c.release.code] ++ bytesOf 2 c.returnTime

/-- CHANNEL_SETUP writes a channel's whole configuration record; the running state stays (R13,
R14). -/
def serveChannelSetup (f : ChannelSetup) (_broadcast : Bool) (s : State) : Served :=
  match chanOf f.channel with
  | none => s.refuse .badField
  | some c =>
    match groupOf c f.group, ReleaseMode.ofCode f.release with
    | some group, some release =>
      let cfg : ChannelConfig :=
        { group, base := clampLevel f.base, trim := clampInt (-200) 100 f.trim,
          muteRamp := min f.muteRamp 250, release, returnTime := min f.returnTime 5000 }
      let clamped := cfg.base != f.base || cfg.trim != f.trim || cfg.muteRamp != f.muteRamp ||
        cfg.returnTime != f.returnTime
      (s.setChan c { s.chan c with cfg }).reply (Result.applied clamped) (configBytes cfg)
    | _, _ => s.refuse .badField

def execChannelSetup (d : Dest) (body : List Byte) (s : State) : Host.Outcome State Fault Refusal :=
  .next (s.request d 0x10 (parseChannelSetup body) serveChannelSetup)

/-- TRIM sets one channel's trim, clamped to −200..+100 (R15). -/
def serveTrim (f : TrimBody) (_broadcast : Bool) (s : State) : Served :=
  match chanOf f.channel with
  | none => s.refuse .badField
  | some c =>
    let trim := clampInt (-200) 100 f.trim
    (s.setChan c { s.chan c with cfg := { (s.chan c).cfg with trim } }).reply
      (Result.applied (trim != f.trim)) (int2 trim)

def execTrim (d : Dest) (body : List Byte) (s : State) : Host.Outcome State Fault Refusal :=
  .next (s.request d 0x11 (parseTrim body) serveTrim)

/-- MUTE_REMOTE sets or clears one channel's REMOTE source; the reply carries its whole set of sources
after the request (R16). -/
def serveMuteRemote (f : MuteRemote) (_broadcast : Bool) (s : State) : Served :=
  match chanOf f.channel, setOfCode f.action with
  | some c, some v =>
    let t := s.setChan c { s.chan c with remote := v }
    t.reply .ok [byte (t.muteSources c)]
  | _, _ => s.refuse .badField

def execMuteRemote (d : Dest) (body : List Byte) (s : State) : Host.Outcome State Fault Refusal :=
  .next (s.request d 0x12 (parseMuteRemote body) serveMuteRemote)

/-- The active move summary: owner, target, remaining whole milliseconds, frozen (R18). -/
def moveSummary (s : State) (c : Chan) : List Byte :=
  match (s.chan c).active with
  | none => ownerField none ++ int2 (-800) ++ bytesOf 3 0 ++ [flag false]
  | some m =>
    ownerField (some m.owner) ++ int2 m.target ++
      bytesOf 3 ((m.duration * 65536 - m.elapsed) / 65536) ++ [flag (!s.moveAdvances m)]

/-- The H field of CHANNEL_QUERY: H when HELD, H0 when GLIDING, −800 when FREE (R17). -/
def handField : Hand → Int
  | .free => -800
  | .held h => h
  | .gliding start _ _ => start

/-- What CHANNEL_QUERY reports of a channel (R17). -/
def channelReport (s : State) (c : Chan) : List Byte :=
  let r := s.chan c
  configBytes r.cfg ++ int2 r.level ++ int2 r.used ++ int2 r.effective ++ [r.hand.code] ++
    int2 (handField r.hand) ++ [byte (s.muteSources c)] ++ bytesOf 2 r.mute ++ [flag r.limited] ++
    moveSummary s c ++ [byte r.waiting.length]

/-- CHANNEL_QUERY's answer (R17). -/
def channelAnswer (b : Byte) (s : State) : Answer :=
  match chanOf b with
  | none => Answer.bare .badField
  | some c => Answer.mk' .ok (channelReport s c)

def execChannelQuery (d : Dest) (body : List Byte) (s : State) : Host.Outcome State Fault Refusal :=
  .next (s.request d 0x13 (parseByte body) (query channelAnswer))

end Sys2Proof.Machine
end

