-- ==== Sys2Proof/Machine/CueStore.lean ====
section
/-!
DEFINITION. The Cue Store's requests (chapter 3): the four edits, judged in the order of R45, and the
three queries.
-/

namespace Sys2Proof.Machine

/-! ### The list -/

/-- A cue takes its place in ascending order, or the place of the cue of its number (R42). -/
def putCue (c : Cue) : List Cue → List Cue
  | [] => [c]
  | x :: rest =>
    if c.number < x.number then c :: x :: rest
    else if c.number = x.number then c :: rest
    else x :: putCue c rest

/-- The cue list without the cue of this number (R55). -/
def removeCue (cues : List Cue) (n : Nat) : List Cue := cues.filter fun c => c.number != n

/-- The edit would change the next cue while the arm record is not empty (R45, R46), or a CLOCK cue that a
crossing has fired in this millisecond: an edit that falls together with a crossing is refused ARMED in
either order (R49). What empties or moves the arm after the crossing ends that, so that EDIT and SAFE know
no such cue (R46, log entry 26). -/
def State.editArmed (s : State) (n : Nat) : Bool :=
  (s.seq.next == some n && s.seq.arm != .empty) || s.seq.crossed == some n

/-- A tracking scan is in flight (R85). -/
def State.scanning (s : State) : Bool := s.seq.scan.isSome

/-- A cue header in the layout of CUE_PUT (R197). -/
def headerBytes (c : Cue) : List Byte :=
  bytesOf 2 c.number ++ [c.trigger.code, c.base.code] ++ bytesOf 3 c.wait ++ [byte c.song] ++
    bytesOf 3 c.position ++ [0]

/-- A stored move as MOVES_QUERY reports it, with its cue's timebase in bit 5 (R58, R197). -/
def moveBytes (base : Timebase) (m : StoredMove) : List Byte :=
  [byte (m.channel.val + 1),
    byte (m.action.code.toNat + 4 * m.curve.code.toNat + 32 * base.code.toNat)] ++
    int2 m.target ++ bytesOf 3 m.delay ++ bytesOf 3 m.duration

/-! ### CUE_PUT (R50 to R52) -/

/-- The trigger counts a wait (R40). -/
def Trigger.waits : Trigger → Bool
  | .manual => false
  | .follow => true
  | .withCue => true
  | .clock => false

/-- The header a CUE_PUT stores: a field its trigger does not use is stored as 0, the others are
clamped (R52). -/
def CuePut.cue (f : CuePut) (trigger : Trigger) (base : Timebase) (moves : List StoredMove) : Cue :=
  { number := f.number, trigger, base, moves
    wait := if trigger.waits then min f.wait 600000 else 0
    song := if trigger = .clock then f.song else 0
    position := if trigger = .clock then min f.position 5999999 else 0 }

/-- A field of a CUE_PUT was clamped: the wait or the position of a trigger that uses it (R52). -/
def CuePut.clamped (f : CuePut) (trigger : Trigger) : Bool :=
  (trigger.waits && decide (600000 < f.wait)) ||
    (trigger == .clock && decide (5999999 < f.position))

/-- The moves a CUE_PUT leaves its cue: those of the cue it replaces when the keep-moves flag is set,
otherwise none (R50, R51). -/
def keptMoves (old : Option Cue) (keep : Bool) : List StoredMove :=
  match old with
  | none => []
  | some c => if keep then c.moves else []

/-- CUE_PUT creates a cue or replaces a cue's header (R45, R46, R50 to R52). -/
def serveCuePut (f : CuePut) (_broadcast : Bool) (s : State) : Served :=
  match Trigger.ofCode f.trigger, Timebase.ofCode f.base with
  | some trigger, some base =>
    if !cueNumberOk f.number || (trigger == .clock && decide (99 < f.song)) then s.refuse .badField
    else if s.scanning then s.refuse .busy
    else if s.editArmed f.number then s.refuse .armed
    else
      let old := findCue s.cues f.number
      if old.isNone && decide (512 ≤ s.cues.length) then s.refuse .listFull
      else
        let cue := f.cue trigger base (keptMoves old f.keep)
        (s.setCues (putCue cue s.cues)).reply (Result.applied (f.clamped trigger))
          (headerBytes cue)
  | _, _ => s.refuse .badField

def execCuePut (d : Dest) (body : List Byte) (s : State) : Host.Outcome State Fault Refusal :=
  .next (s.request d 0x20 (parseCuePut body) serveCuePut)

/-! ### MOVES_ADD (R53, R54) -/

/-- The stored move of an entry that passes its field checks (R53). A MUTE or UNMUTE move's unused
fields are not checked and are stored as −800, 0 and LINEAR. -/
def MoveEntry.stored (e : MoveEntry) : Option StoredMove :=
  match chanOf e.channel, Action.ofCode e.action with
  | some channel, some .level =>
    match Curve.ofCode e.curve with
    | none => none
    | some curve =>
      some { channel, action := .level, target := clampLevel e.target, delay := min e.delay 600000,
             duration := min e.duration 600000, curve }
  | some channel, some action =>
    some { channel, action, target := -800, delay := min e.delay 600000, duration := 0,
           curve := .linear }
  | _, _ => none

/-- A field of the entry was clamped (R53). -/
def MoveEntry.clamped (e : MoveEntry) : Bool :=
  decide (600000 < e.delay) ||
    (Action.ofCode e.action == some .level &&
      (clampLevel e.target != e.target || decide (600000 < e.duration)))

/-- The position, from 1, of the first entry that fails a field check, or 0 (R53). -/
def badEntry : Nat → List MoveEntry → Nat
  | _, [] => 0
  | k, e :: rest => if e.stored.isNone then k else badEntry (k + 1) rest

/-- The stored moves of a cue that name a channel. -/
def namedMoves (moves : List StoredMove) (c : Chan) : Nat :=
  (moves.filter fun m => m.channel == c).length

/-- The position, from 1, of the first new move that would be its channel's fifth in the cue, or 0
(R54). -/
def crowdedAt : Nat → List StoredMove → List StoredMove → Nat
  | _, _, [] => 0
  | k, held, m :: rest =>
    if 4 ≤ namedMoves held m.channel then k else crowdedAt (k + 1) (held ++ [m]) rest

/-- The payload of a MOVES_ADD reply: position, the cue's move count, the pool's free count (R54, log
entry 8). -/
def movesAddReply (s : State) (n position : Nat) : List Byte :=
  let count :=
    match findCue s.cues n with
    | none => 0
    | some c => c.moves.length
  [byte position, byte count] ++ bytesOf 2 (poolFree s.cues)

/-- A refused MOVES_ADD carries the position and the counts as they stand (R53, R54). -/
def State.refuseAdd (s : State) (r : Result) (n position : Nat) : Served :=
  s.reply r (movesAddReply s n position)

/-- MOVES_ADD appends its entries to one cue, all or nothing (R45, R53, R54). Where both the cue number
and an entry are bad, the cue number is judged first, with position 0 (R53 fixes no order of the two; log
entry 8). -/
def serveMovesAdd (f : MovesAdd) (_broadcast : Bool) (s : State) : Served :=
  let bad := badEntry 1 f.entries
  if !cueNumberOk f.cue then s.refuseAdd .badField f.cue 0
  else if bad ≠ 0 then s.refuseAdd .badField f.cue bad
  else if s.scanning then s.refuseAdd .busy f.cue 0
  else
    match findCue s.cues f.cue with
    | none => s.refuseAdd .noCue f.cue 0
    | some cue =>
      let moves := f.entries.filterMap MoveEntry.stored
      let crowded := crowdedAt 1 cue.moves moves
      if s.editArmed f.cue then s.refuseAdd .armed f.cue 0
      else if 64 < cue.moves.length + moves.length then
        s.refuseAdd .cueFull f.cue (65 - cue.moves.length)
      else if crowded ≠ 0 then s.refuseAdd .channelCrowded f.cue crowded
      else if poolFree s.cues < moves.length then
        s.refuseAdd .poolFull f.cue (poolFree s.cues + 1)
      else
        let t := s.setCues (putCue { cue with moves := cue.moves ++ moves } s.cues)
        t.reply (Result.applied (f.entries.any MoveEntry.clamped)) (movesAddReply t f.cue 0)

def execMovesAdd (d : Dest) (body : List Byte) (s : State) : Host.Outcome State Fault Refusal :=
  .next (s.request d 0x21 (parseMovesAdd body) serveMovesAdd)

/-! ### CUE_DELETE and LIST_CLEAR (R47, R55, R56) -/

/-- The playhead after the deletion of cue `n`: next moves to its successor, and standing becomes none
(R47). -/
def State.playheadWithout (s : State) (n : Nat) : State :=
  s.setSeq { s.seq with
    next := if s.seq.next = some n then cueAfter s.cues n else s.seq.next
    standing := if s.seq.standing = some n then none else s.seq.standing }

/-- Cue `n` leaves the list, its moves return to the pool, and the playhead is brought up to date; for
a new next cue the arm is set as BACK sets it in SHOW and HOLD (R47, R55). -/
def State.deleteCue (s : State) (n : Nat) : State :=
  let t := (s.playheadWithout n).setCues (removeCue s.cues n)
  if s.seq.next = some n ∧ (s.seq.state = .running ∨ s.seq.state = .hold) then t.setArm t.clockArm
  else t

/-- CUE_DELETE (R45, R55). -/
def serveCueDelete (n : Nat) (_broadcast : Bool) (s : State) : Served :=
  if !cueNumberOk n then s.refuse .badField
  else if s.scanning then s.refuse .busy
  else if (findCue s.cues n).isNone then s.refuse .noCue
  else if s.editArmed n then s.refuse .armed
  else
    let t := s.deleteCue n
    t.reply .ok (bytesOf 2 (poolFree t.cues) ++ cueField t.seq.next ++ cueField t.seq.standing)

def execCueDelete (d : Dest) (body : List Byte) (s : State) : Host.Outcome State Fault Refusal :=
  .next (s.request d 0x22 (parseNumber body) serveCueDelete)

/-- LIST_CLEAR empties the store in EDIT (R45, R56). -/
def serveListClear (_ : Unit) (_broadcast : Bool) (s : State) : Served :=
  if s.scanning then s.refuse .busy
  else if s.seq.state = .edit then
    ((s.setCues []).setSeq { s.seq with next := none, standing := none }).reply .ok []
  else s.refuse .wrongState

def execListClear (d : Dest) (body : List Byte) (s : State) : Host.Outcome State Fault Refusal :=
  .next (s.request d 0x23 (parseEmpty body) serveListClear)

/-! ### Queries (R57 to R59) -/

/-- A cue's place in the list, from 1 (R57). -/
def placeOf (cues : List Cue) (n : Nat) : Nat :=
  (cues.takeWhile fun c => c.number != n).length + 1

/-- CUE_QUERY's answer: header, move count, place (R57). -/
def cueAnswer (n : Nat) (s : State) : Answer :=
  if !cueNumberOk n then Answer.bare .badField
  else
    match findCue s.cues n with
    | none => Answer.bare .noCue
    | some c =>
      Answer.mk' .ok (headerBytes c ++ [byte c.moves.length] ++ bytesOf 2 (placeOf s.cues n))

def execCueQuery (d : Dest) (body : List Byte) (s : State) : Host.Outcome State Fault Refusal :=
  .next (s.request d 0x24 (parseNumber body) (query cueAnswer))

/-- MOVES_QUERY's answer: the move count, then the moves from the first position on (R58). -/
def movesAnswer (f : MovesQuery) (s : State) : Answer :=
  if !cueNumberOk f.cue || decide (f.first < 1 ∨ 64 < f.first ∨ f.count < 1 ∨ 24 < f.count) then
    Answer.bare .badField
  else
    match findCue s.cues f.cue with
    | none => Answer.bare .noCue
    | some c =>
      Answer.mk' .ok
        (byte c.moves.length ::
          ((c.moves.drop (f.first - 1)).take f.count).flatMap (moveBytes c.base))

def execMovesQuery (d : Dest) (body : List Byte) (s : State) : Host.Outcome State Fault Refusal :=
  .next (s.request d 0x25 (parseMovesQuery body) (query movesAnswer))

/-- LIST_QUERY's answer: numbers from the starting number on, their number, the more flag, the cue
count and the free count (R59). -/
def listAnswer (f : ListQuery) (s : State) : Answer :=
  if 9999 < f.start ∨ f.count < 1 ∨ 100 < f.count then Answer.bare .badField
  else
    let found := s.cues.filter fun c => decide (f.start ≤ c.number)
    let shown := found.take f.count
    Answer.mk' .ok
      (shown.flatMap (fun c => bytesOf 2 c.number) ++
        [byte shown.length, flag (decide (shown.length < found.length))] ++
        bytesOf 2 s.cues.length ++ bytesOf 2 (poolFree s.cues))

def execListQuery (d : Dest) (body : List Byte) (s : State) : Host.Outcome State Fault Refusal :=
  .next (s.request d 0x26 (parseListQuery body) (query listAnswer))

end Sys2Proof.Machine
end

