-- ==== Sys2Proof/Machine/Sequencer.lean ====
section
/-!
DEFINITION. The Show Sequencer (chapter 4): the show requests, GO and its gate, BACK, the tracking scan
of a GOTO, wait expiry, notices and the show query. Firings, clearing and the arm stand in Ops.lean.
-/

namespace Sys2Proof.Machine

/-! ### GO (R68 to R70) -/

/-- What became of a GO: the state, the result, and cue number and firing id of the cue fired. -/
structure GoOutcome where
  state : State
  result : Result
  fired : Option (Nat × Nat)

/-- The GO gate is open (R68). -/
def State.gateOpen (s : State) : Bool := decide (s.contacts.cfg.guard ≤ s.seq.gateTime)

/-- A GO is judged in the order of R69; an expected cue of 0 is any cue. A GO taken sets the gate time
to 0; in HOLD it resumes the show, in SHOW it fires the next cue (R68 to R70). -/
def State.go (s : State) (cause : Cause) (expected : Nat) : GoOutcome :=
  if s.scanning then ⟨s, .busy, none⟩
  else
    match s.seq.state with
    | .edit => ⟨s, .wrongState, none⟩
    | .safe => ⟨s, .wrongState, none⟩
    | .hold =>
      if s.gateOpen then ⟨(s.setSeq { s.seq with gateTime := 0 }).resumeShow, .ok, none⟩
      else ⟨s, .guarded, none⟩
    | .running =>
      if s.gateOpen then
        match s.seq.next with
        | none => ⟨s.raise .endOfList, .endOfList, none⟩
        | some n =>
          if expected ≠ 0 ∧ expected ≠ n then ⟨s, .mismatch, none⟩
          else
            ⟨(s.setSeq { s.seq with gateTime := 0 }).fireChain cause, .ok, some (n, s.seq.nextId)⟩
      else ⟨s, .guarded, none⟩

/-- The payload of a GO reply: cue number and firing id of the cue fired, 0 when none fired, and next
after the GO (R69). -/
def goReply (o : GoOutcome) : List Byte :=
  (match o.fired with
    | none => bytesOf 2 0 ++ bytesOf 2 0
    | some (n, id) => bytesOf 2 n ++ bytesOf 2 id) ++ cueField o.state.seq.next

/-- GO from the link: an expected number above 9999 is refused BAD_FIELD (R69). -/
def serveGo (expected : Nat) (_broadcast : Bool) (s : State) : Served :=
  let o := if 9999 < expected then ⟨s, .badField, none⟩ else s.go .goLink expected
  o.state.reply o.result (goReply o)

/-- The payload of a GO that is refused before the sequencer judges it (R69, log entry 9). -/
def goUnfired (s : State) : List Byte := goReply ⟨s, .ok, none⟩

def execGo (d : Dest) (body : List Byte) (s : State) : Host.Outcome State Fault Refusal :=
  .next (s.request d 0x32 (parseNumber body) serveGo goUnfired)

/-! ### BACK (R80) -/

/-- The cue a BACK moves next to: the cue before next, or the last cue when next is none (R80). -/
def State.backTarget (s : State) : Option Nat :=
  match s.seq.next with
  | none => lastCue s.cues
  | some n => cueBefore s.cues n

/-- A BACK is judged by R80: the state it leaves and its result. One that moves the arm ends a crossing of
this millisecond (R46, log entry 26). -/
def State.back (s : State) : State × Result :=
  if s.scanning then (s, .busy)
  else if s.seq.state = .edit ∨ s.seq.state = .safe then (s, .wrongState)
  else
    match s.backTarget with
    | none => (s.raise .endOfList, .endOfList)
    | some n =>
      let t := s.setSeq { s.seq with next := some n, crossed := none }
      (t.setArm t.clockArm, .ok)

/-- BACK from the link is answered with next after the BACK, whatever the result (R80). -/
def serveBack (_ : Unit) (_broadcast : Bool) (s : State) : Served :=
  s.back.1.reply s.back.2 (cueField s.back.1.seq.next)

/-- The payload of every BACK that changes nothing: next as it stands (R80, log entry 9). -/
def backUnmoved (s : State) : List Byte := cueField s.seq.next

def execBack (d : Dest) (body : List Byte) (s : State) : Host.Outcome State Fault Refusal :=
  .next (s.request d 0x33 (parseEmpty body) serveBack backUnmoved)

/-! ### Show states (R61 to R66, R81) -/

/-- Next and standing as a reply carries them. -/
def playheadBytes (s : State) : List Byte := cueField s.seq.next ++ cueField s.seq.standing

/-- SHOW_START begins a show (R61). -/
def serveShowStart (_ : Unit) (_broadcast : Bool) (s : State) : Served :=
  if s.scanning then s.refuse .busy
  else if s.seq.state ≠ .edit then s.refuse .wrongState
  else if s.cues.isEmpty then s.refuse .emptyList
  else
    let t := s.setShow .running
    let t := t.setSeq { t.seq with
      next := match t.seq.next with
        | none => firstCue t.cues
        | some n => some n }
    let t := t.setArm t.clockArm
    t.reply .ok (playheadBytes t)

def execShowStart (d : Dest) (body : List Byte) (s : State) : Host.Outcome State Fault Refusal :=
  .next (s.request d 0x30 (parseEmpty body) serveShowStart)

/-- SHOW_END returns the part from SHOW to EDIT, and a crossing of this millisecond is over with the show
(R46, R62, log entry 26). -/
def serveShowEnd (_ : Unit) (_broadcast : Bool) (s : State) : Served :=
  if s.scanning then s.refuse .busy
  else if s.seq.state ≠ .running then s.refuse .wrongState
  else if !s.seq.flight.isEmpty then s.refuse .inFlight
  else
    (((s.setSeq { s.seq with crossed := none }).setArm .empty).setShow .edit).reply .ok []

def execShowEnd (d : Dest) (body : List Byte) (s : State) : Host.Outcome State Fault Refusal :=
  .next (s.request d 0x31 (parseEmpty body) serveShowEnd)

/-- HOLD from the link (R63). -/
def serveHold (_ : Unit) (_broadcast : Bool) (s : State) : Served :=
  if s.seq.state = .running then s.holdShow.reply .ok [] else s.refuse .wrongState

def execHold (d : Dest) (body : List Byte) (s : State) : Host.Outcome State Fault Refusal :=
  .next (s.request d 0x34 (parseEmpty body) serveHold)

/-- RESUME (R64). -/
def serveResume (_ : Unit) (_broadcast : Bool) (s : State) : Served :=
  if s.seq.state = .hold then s.resumeShow.reply .ok [] else s.refuse .wrongState

def execResume (d : Dest) (body : List Byte) (s : State) : Host.Outcome State Fault Refusal :=
  .next (s.request d 0x35 (parseEmpty body) serveResume)

/-- STOP clears every move and firing and empties the arm; state and playhead stay (R81). -/
def serveStop (_ : Unit) (_broadcast : Bool) (s : State) : Served :=
  if s.seq.state = .running ∨ s.seq.state = .hold then
    s.clearShow.reply .ok [byte s.seq.flight.length]
  else s.refuse .wrongState

def execStop (d : Dest) (body : List Byte) (s : State) : Host.Outcome State Fault Refusal :=
  .next (s.request d 0x36 (parseEmpty body) serveStop)

/-- SAFE from the link: answered OK from every state (R65). -/
def serveSafe (_ : Unit) (_broadcast : Bool) (s : State) : Served := s.enterSafe.reply .ok []

def execSafe (d : Dest) (body : List Byte) (s : State) : Host.Outcome State Fault Refusal :=
  .next (s.request d 0x37 (parseEmpty body) serveSafe)

/-- SAFE is left for the return state, which then reads EDIT; into HOLD the arm is set for the next
cue, unless a scan is in flight (R66, R76, R85). -/
def State.leaveSafe (s : State) : State :=
  let t := (s.setShow s.seq.ret)
  let t := t.setSeq { t.seq with ret := .edit }
  if t.seq.state = .hold ∧ t.seq.scan = none then t.setArm t.releaseArm else t

/-- SAFE_RELEASE (R66). -/
def serveSafeRelease (_ : Unit) (_broadcast : Bool) (s : State) : Served :=
  if s.seq.state = .safe then s.leaveSafe.reply .ok [s.leaveSafe.seq.state.code]
  else s.refuse .wrongState

def execSafeRelease (d : Dest) (body : List Byte) (s : State) : Host.Outcome State Fault Refusal :=
  .next (s.request d 0x38 (parseEmpty body) serveSafeRelease)

/-! ### GOTO and the tracking scan (R82 to R84) -/

/-- GOTO starts a tracking scan and empties the arm; its reply is held until the scan completes
(R82). -/
def serveGoto (f : GotoBody) (_broadcast : Bool) (s : State) : Served :=
  if !cueNumberOk f.cue then s.refuse .badField
  else if s.scanning then s.refuse .busy
  else if (findCue s.cues f.cue).isNone then s.refuse .noCue
  else
    let scan : Scan :=
      { cue := f.cue, loadTime := min f.loadTime 10000, clamped := decide (10000 < f.loadTime),
        age := 0 }
    ⟨(s.setSeq { s.seq with scan := some scan }).setArm .empty, none⟩

def execGotoCue (d : Dest) (body : List Byte) (s : State) : Host.Outcome State Fault Refusal :=
  .next (s.request d 0x39 (parseGoto body) serveGoto)

/-- The stored move of greatest delay in a list, the last of equal ones (R83). -/
def greatestDelay (moves : List StoredMove) : Option StoredMove :=
  moves.foldl
    (fun best m =>
      match best with
      | none => some m
      | some b => if b.delay ≤ m.delay then some m else some b)
    none

/-- The move of a cue that gives its level for a channel (R83). -/
def Cue.levelMove (cue : Cue) (c : Chan) : Option StoredMove :=
  greatestDelay (cue.moves.filter fun m => m.channel == c && m.action == .level)

/-- The move of a cue that gives its cue-mute for a channel (R83). -/
def Cue.muteMove (cue : Cue) (c : Chan) : Option StoredMove :=
  greatestDelay (cue.moves.filter fun m => m.channel == c && m.action != .level)

/-- The cues a scan to cue `k` walks, in ascending order (R83). -/
def scanned (cues : List Cue) (k : Nat) : List Cue := cues.filter fun c => decide (c.number ≤ k)

/-- The tracked level of a channel, starting from its base level (R83). -/
def trackedLevel (cues : List Cue) (k : Nat) (c : Chan) (base : Int) : Int :=
  (scanned cues k).foldl
    (fun v cue =>
      match cue.levelMove c with
      | none => v
      | some m => m.target)
    base

/-- The tracked cue-mute of a channel: muted or not (R83). -/
def trackedMute (cues : List Cue) (k : Nat) (c : Chan) : Bool :=
  (scanned cues k).foldl
    (fun v cue =>
      match cue.muteMove c with
      | none => v
      | some m => m.action == .mute)
    false

/-- A channel without moves takes the load: a LOAD move from A to the tracked level over the load
time, A at once when the load time is 0, nothing when A stands there already; CUE follows the tracked
cue-mute (R84, R107). -/
def Channel.loaded (r : Channel) (target : Int) (mute : Bool) (loadTime : Nat) : Channel :=
  if r.level = target then { r with cue := mute }
  else if loadTime = 0 then { r with level := target, cue := mute }
  else
    { r with
      cue := mute
      active := some
        { target, duration := loadTime, curve := .linear, base := .wall, owner := .load,
          start := r.level, elapsed := 0 } }

/-- Steps 1 to 5 of the completion of a scan (R84). -/
def State.loadScan (s : State) (k : Scan) : State :=
  let t := s.clearShow
  let t := t.setChannels (Tab.build 56 fun c =>
    (t.chan c).loaded (trackedLevel t.cues k.cue c (t.chan c).cfg.base)
      (trackedMute t.cues k.cue c) k.loadTime)
  let t := t.setSeq { t.seq with
    standing := some k.cue, next := cueAfter t.cues k.cue, scan := none }
  if t.seq.state = .running ∨ t.seq.state = .hold then t.setArm t.clockArm else t

/-- The GOTO reply becomes ready: the entry of the buffer whose reply was held back (R84, R180). -/
def answerGoto (r : Reply) (buffer : List Entry) : List Entry :=
  buffer.map fun e => if e.reply.isNone then { e with reply := some r } else e

/-- The tracking scan completes: the load is applied in the show state that stands now, and the GOTO is
answered (R84). With no scan in flight nothing happens. -/
def execGotoComplete (s : State) : Host.Outcome State Fault Refusal :=
  .next
    (if s.resetLow then s
    else
      match s.seq.scan with
      | none => s
      | some k =>
        let t := s.loadScan k
        t.setLink { t.link with
          buffer := answerGoto ⟨0x39, (Result.applied k.clamped).code, playheadBytes t⟩
            t.link.buffer })

/-- The expiry of a WAITING arm is due: it stands at 0 in SHOW, or it counts, some of the next cue's wait
has been counted, and no more than the next millisecond is left of it, so that the expiry and what it hands
over can be taken before the advance of P in that millisecond (R77, R125, log entry 3). A wait just set has
no expiry due, whatever wait was due before it (R79). -/
def State.expiryDue (s : State) : Bool :=
  s.waitDue ||
    match s.seq.arm with
    | .waiting left base =>
      s.showAdvances base && decide (left ≤ s.advance base) &&
        s.nextCue.any fun q => decide (left < q.wait * 65536)
    | .empty => false
    | .await _ => false
    | .clock _ _ => false

/-- The remaining time of a WAITING arm reaches 0 in SHOW: the next cue fires with cause FOLLOW or WITH
(R77). An arm that has more time left, set by a GO taken first, is no arm for an expiry to act on (R79, log
entry 3). -/
def execWaitExpiry (s : State) : Host.Outcome State Fault Refusal :=
  .next (if s.resetLow || !s.expiryDue then s else s.fireChain s.waitCause)

/-! ### Notices and the show query (R87, R88) -/

/-- A notice in a reply: kind, cue, firing id, cause (R86, R87). -/
def noticeBytes (n : Notice) : List Byte :=
  [n.kind.code] ++ bytesOf 2 n.cue ++ bytesOf 2 n.firing ++ [causeField n.cause]

/-- NOTICES_READ hands out the oldest notices and removes them; a broadcast changes nothing (R87). -/
def serveNoticesRead (count : Byte) (broadcast : Bool) (s : State) : Served :=
  if count.toNat < 1 ∨ 16 < count.toNat then s.refuse .badField
  else if broadcast then s.reply .ok []
  else
    let rest := s.seq.notices.drop count.toNat
    (s.setSeq { s.seq with notices := rest }).reply .ok
      ((s.seq.notices.take count.toNat).flatMap noticeBytes ++
        [byte rest.length, byte s.seq.overflow])

def execNoticesRead (d : Dest) (body : List Byte) (s : State) : Host.Outcome State Fault Refusal :=
  .next (s.request d 0x3A (parseByte body) serveNoticesRead)

/-- A flight table entry in a reply: firing id, cue, cause, outstanding (R88). -/
def firingBytes (f : Firing) : List Byte :=
  bytesOf 2 f.id ++ bytesOf 2 f.cue ++ [f.cause.code, byte f.outstanding]

/-- The arm record in a reply: form, firing id, remaining whole milliseconds, song, position; a field
its form does not have reads 0 (R88, log entry 7). -/
def armBytes (a : Arm) : List Byte :=
  [a.code] ++
    match a with
    | .empty => bytesOf 2 0 ++ bytesOf 3 0 ++ [0] ++ bytesOf 3 0
    | .await id => bytesOf 2 id ++ bytesOf 3 0 ++ [0] ++ bytesOf 3 0
    | .waiting left _ => bytesOf 2 0 ++ bytesOf 3 (left / 65536) ++ [0] ++ bytesOf 3 0
    | .clock song position => bytesOf 2 0 ++ bytesOf 3 0 ++ [byte song] ++ bytesOf 3 position

/-- What SHOW_QUERY reports (R88). -/
def showReport (s : State) : List Byte :=
  let q := s.seq
  [q.state.code, q.ret.code] ++ cueField q.next ++ cueField q.standing ++
    [byte q.flight.length] ++ q.flight.flatMap firingBytes ++ armBytes q.arm ++
    [flag q.scan.isSome] ++ cueField (q.scan.map Scan.cue) ++ bytesOf 2 q.gateTime ++
    [byte q.notices.length, byte q.overflow] ++ bytesOf 2 q.nextId

def execShowQuery (d : Dest) (body : List Byte) (s : State) : Host.Outcome State Fault Refusal :=
  .next (s.request d 0x3B (parseEmpty body) (query fun _ s => Answer.mk' .ok (showReport s)))

end Sys2Proof.Machine
end

