-- ==== Sys2Proof/Machine/MoveEngine.lean ====
section
/-!
DEFINITION. The Move Engine (chapter 5): the LEVEL request, the starts and ends of moves by their own
timers, and the advance of moves in a wall millisecond. Starts, ends and placement stand in Ops.lean.
-/

namespace Sys2Proof.Machine

/-! ### LEVEL (R105) -/

/-- LEVEL replaces the channel's active move with a REMOTE move of its own target, time and curve
(R105). -/
def serveLevel (f : LevelBody) (_broadcast : Bool) (s : State) : Served :=
  match chanOf f.channel, Curve.ofCode f.curve with
  | some c, some curve =>
    let target := clampLevel f.target
    let time := min f.time 600000
    let t := (s.startLevel c target time curve .wall .remote).settledFrom s
    t.reply (Result.applied (target != f.target || time != f.time))
      (int2 target ++ bytesOf 3 time ++ int2 (s.chan c).level ++
        ownerField ((s.chan c).active.map ActiveMove.owner))
  | _, _ => s.refuse .badField

def execLevel (d : Dest) (body : List Byte) (s : State) : Host.Outcome State Fault Refusal :=
  .next (s.request d 0x14 (parseLevel body) serveLevel)

/-! ### Starts and ends by their own timers (R94, R97, R99) -/

/-- The pending list after `d` more of its delays have passed (R93). -/
def forward (d : Nat) (l : List PendingMove) : List PendingMove :=
  l.map fun p => { p with delay := p.delay - d, counted := true }

/-- The pending list when its moves with no more than `d` left of their delays fall due (R94, R97). -/
def dueWithin (d : Nat) (l : List PendingMove) : List PendingMove :=
  l.map fun p => { p with delay := if p.delay ≤ d then 0 else p.delay }

/-- The time in which an active move counts: its firing's timebase, or WALL for a REMOTE or LOAD move
(R102). -/
def ActiveMove.counts (m : ActiveMove) : Timebase :=
  match m.owner with
  | .firing _ _ => m.base
  | .remote => .wall
  | .load => .wall

/-- The start of a pending move is due: its delay counts, a millisecond of it has been counted, and no
more than the next is left. A move just placed has no start due, whatever move was due before it (R94,
R110, log entry 30). -/
def State.startIsDue (s : State) (p : PendingMove) : Bool :=
  s.showAdvances p.base && p.counted && decide (p.delay ≤ s.advance p.base)

/-- The end of an active move is due: it advances, it has run, and no more than the next millisecond is
left of it. A move just started has no end due, whatever move was due before it (R99, R110, log
entry 30). -/
def State.endIsDue (s : State) (m : ActiveMove) : Bool :=
  s.moveAdvances m && decide (0 < m.elapsed ∧ m.duration * 65536 ≤ m.elapsed + s.advance m.counts)

/-- The remaining delay at the head of the channel's pending list reaches 0: it starts, and with it
every move of the list due at the same instant, in list order (R94, R97). A list that stands still
starts nothing (R104), and neither does one whose head is not due (R110). -/
def execMoveStart (c : Chan) (s : State) : Host.Outcome State Fault Refusal :=
  .next
    (if s.resetLow then s
    else
      match (s.chan c).waiting with
      | [] => s
      | p :: rest =>
        if s.startIsDue p then
          (State.startDue (rest.length + 1)
            (s.setChan c { s.chan c with waiting := dueWithin (s.advance p.base) (p :: rest) })
            c).settledFrom s
        else s)

/-- The elapsed time of the channel's active move reaches its duration: A is the target exactly, and
the end is counted to its owner (R99). A move that stands still does not end (R104), and neither does one
whose end is not due (R110). -/
def execMoveComplete (c : Chan) (s : State) : Host.Outcome State Fault Refusal :=
  .next
    (if s.resetLow then s
    else
      match (s.chan c).active with
      | none => s
      | some m => if s.endIsDue m then (s.completeMove c).settledFrom s else s)

/-! ### A wall millisecond (R98, R102, R103, R115) -/

/-- An active move after `d` more elapsed time, which stops at its duration. -/
def ActiveMove.after (m : ActiveMove) (d : Nat) : ActiveMove :=
  { m with elapsed := min (m.elapsed + d) (m.duration * 65536) }

/-- The elapsed time has reached the duration. -/
def ActiveMove.over (m : ActiveMove) : Bool := decide (m.duration * 65536 ≤ m.elapsed)

/-- The active move of a channel in one wall millisecond: where it advances, its elapsed time rises and A
is its level at that time, and a move that reaches its duration ends COMPLETED (R98, R99, R102 to R104,
R110). -/
def State.activeTick (s : State) (c : Chan) : State :=
  match (s.chan c).active with
  | none => s
  | some m =>
    if s.moveAdvances m then
      let n := m.after (s.advance m.counts)
      if n.over then s.completeMove c
      else s.setChan c { s.chan c with active := some n, level := n.now }
    else s

/-- The pending list of a channel in one wall millisecond: where it advances, its delays fall, and the
moves whose delay reaches 0 start in list order (R93, R94, R97, R102 to R104). -/
def State.pendingTick (s : State) (c : Chan) : State :=
  match (s.chan c).waiting with
  | [] => s
  | p :: rest =>
    if s.showAdvances p.base then
      State.startDue (rest.length + 1)
        (s.setChan c { s.chan c with waiting := forward (s.advance p.base) (p :: rest) }) c
    else s

/-- A channel's moves in one wall millisecond, the active move before the pending ones (log entry 6). -/
def State.movesTick (s : State) (c : Chan) : State := (s.activeTick c).pendingTick c

end Sys2Proof.Machine
end

