-- ==== Sys2Proof/Machine/ShowClock.lean ====
section
/-!
DEFINITION. The Show Clock (chapter 6): time marks, the clock states, position and rate, crossings, the
clock requests. The advance of P stands in WallTime.lean.
-/

namespace Sys2Proof.Machine

/-! ### Crossings (R124) -/

/-- A change of P's whole part from `old` to `new` crosses the point held: the song matches, the clock
is LOCKED or FREEWHEEL after the change, and the position passes the point from below (R124). -/
def Clock.crosses (k : Clock) (old : Nat) : Bool :=
  match k.point with
  | none => false
  | some (song, x) =>
    k.song == song && (k.state == .locked || k.state == .freewheel) && decide (old < x ∧ x ≤ k.whole)

/-- The sequencer takes a reported crossing: in SHOW the next cue fires with cause CLOCK, in any other
state nothing fires (R78). The cue fired is noted for the edits that fall together with the crossing
(R49). DESIGN CHOICE: of two crossings in one millisecond, one by the advance of P and one by a mark's phase
step, only the cue fired last is noted, so that an edit of the cue fired first is then accepted, as of any
cue behind `next`; the spec does not say how long the first crossing goes on falling together with an edit
(log entry 26). -/
def State.takeCrossing (s : State) : State :=
  if s.seq.state = .running then
    (s.fireChain .clock).setSeq { (s.fireChain .clock).seq with crossed := s.seq.next }
  else s

/-! ### Time marks (R112, R116 to R119) -/

/-- A bad mark is counted and raises MARK_ERROR, and has no other effect (R112). -/
def State.badMark (s : State) : State :=
  (s.setClock { s.clock with errors := countUp 255 s.clock.errors, receiver := .hunt }).raise
    .markError

/-- P with whole part `w`, which stops at 4,294,967,295 (R114). Of the fraction there the rule says
nothing; it goes on counting modulo 65536 (log entry 27). -/
def wholePart (w : Nat) : Nat := min w 4294967295

/-- The error of a running mark at position `m`: (M + Δm) − L (R116). -/
def Clock.error (k : Clock) (m : Nat) : Int := ((m + k.cfg.markDelay : Nat) : Int) - k.whole

/-- A running mark of song `s` at position `m` relocates the clock (R116). -/
def Clock.relocates (k : Clock) (song m : Nat) : Bool :=
  k.state == .none || k.state == .lost || k.state == .stopped || k.song != song ||
    decide (k.cfg.relocate < (k.error m).natAbs)

/-- A relocation: P, song, good count, LOCKING, timer (R116). -/
def Clock.relocated (k : Clock) (song m : Nat) : Clock :=
  { k with whole := m + k.cfg.markDelay, frac := 0, song, good := 0, state := .locking,
           markTimer := 0 }

/-- The phase and rate steps of a correction (R117). -/
def Clock.corrected (k : Clock) (m : Nat) : Clock :=
  let e := k.error m
  { k with
    whole := wholePart (k.whole + e.tdiv (2 ^ k.cfg.phaseDepth)).toNat
    rate := (clampInt 64225 66847 (k.rate + (e * 64).tdiv (2 ^ k.cfg.rateDepth))).toNat
    markTimer := 0 }

/-- A correcting mark acts on the clock state and the good count; `true` when LOCKED is entered
(R118). -/
def Clock.counted (k : Clock) (within : Bool) : Clock × Bool :=
  match k.state with
  | .locking =>
    if within then
      if k.good + 1 < 4 then ({ k with good := k.good + 1 }, false)
      else ({ k with good := 4, state := .locked }, true)
    else ({ k with good := 0 }, false)
  | .freewheel => ({ k with state := .locked }, true)
  | .locked => (k, false)
  | .none => (k, false)
  | .stopped => (k, false)
  | .lost => (k, false)

/-- A correcting mark: phase and rate, state and count, and the crossing its phase step may make
(R117, R118, R124). -/
def State.correct (s : State) (m : Nat) : State :=
  let within := decide ((s.clock.error m).natAbs ≤ s.clock.cfg.lockWindow)
  let k := ((s.clock.corrected m).counted within)
  let t := s.setClock k.1
  let t := if k.2 then t.raise .clockLocked else t
  if k.1.crosses s.clock.whole then t.takeCrossing else t

/-- A good running mark relocates or corrects the clock (R116, R117). -/
def State.runningMark (s : State) (song m : Nat) : State :=
  if s.clock.relocates song m then
    (s.setClock (s.clock.relocated song m)).raise .clockRelocated
  else s.correct m

/-- A good stopped mark sets P and the song and stops the clock; CLOCK_STOPPED is raised on entry
(R119). -/
def State.stoppedMark (s : State) (song m : Nat) : State :=
  let t := s.setClock { s.clock with
    whole := m, frac := 0, song, good := 0, markTimer := 0, state := .stopped }
  if s.clock.state = .stopped then t else t.raise .clockStopped

/-- A complete time mark arrives and is judged: check, then content, then its running flag (R111,
R112, R200). -/
def execTimeMark (song : Byte) (position : BitVec 32) (flags check : Byte) (s : State) :
    Host.Outcome State Fault Refusal :=
  .next
    (if s.resetLow then s
    else if check ≠ markCheck song position flags then s.badMark
    else if 99 < song.toNat ∨ 5999999 < position.toNat then s.badMark
    else
      let t := s.setClock { s.clock with receiver := .hunt }
      if flags.getLsbD 0 then t.runningMark song.toNat position.toNat
      else t.stoppedMark song.toNat position.toNat)

/-- A mark character with a bad stop bit (R112). -/
def execMarkFramingFault (s : State) : Host.Outcome State Fault Refusal :=
  .next (if s.resetLow then s else s.badMark)

/-- The longest quiet between two characters of a mark, 160 µs, in whole cycles of the crystal (R112). -/
def markGap : Nat := 2949

/-- More than 160 µs between characters of a mark (R112). -/
def execMarkGapFault (s : State) : Host.Outcome State Fault Refusal :=
  .next (if s.resetLow then s else s.badMark)

/-! ### Timeouts (R120, R121) -/

/-- The clock becomes LOST, and CLOCK_LOST is raised with its act (R120, R121). -/
def State.loseClock (s : State) : State :=
  (s.setClock { s.clock with state := .lost }).raiseWithAct .clockLost

/-- The mark timer has reached the mark timeout (R120). -/
def State.timeoutClock (s : State) : State :=
  match s.clock.state with
  | .locking => s.setClock { s.clock with state := .none, good := 0 }
  | .locked =>
    if s.clock.cfg.freewheel = 0 then s.loseClock
    else
      (s.setClock { s.clock with state := .freewheel, freewheelTimer := 0 }).raise .clockFreewheel
  | .none => s
  | .freewheel => s
  | .stopped => s
  | .lost => s

/-- The mark timer is judged: LOCKING and LOCKED only (R113, R120). -/
def Clock.timed (k : Clock) : Bool := k.state == .locking || k.state == .locked

/-- The mark timer of LOCKING or LOCKED stands at or above the mark timeout (R120). -/
def Clock.overdue (k : Clock) : Bool := k.timed && decide (k.cfg.markTimeout ≤ k.markTimer)

/-- The freewheel timer of FREEWHEEL stands at or above the freewheel limit (R121). -/
def Clock.spent (k : Clock) : Bool :=
  k.state == .freewheel && decide (k.cfg.freewheel ≤ k.freewheelTimer)

/-- The mark timeout is due: the mark timer has reached it, or reaches it in the next millisecond, so that
the timeout can be taken before the advance of P in that millisecond (R120, R125, log entry 3). -/
def Clock.timeoutDue (k : Clock) : Bool :=
  k.timed && decide (k.cfg.markTimeout ≤ k.markTimer + 1)

/-- The freewheel limit is due: the freewheel timer has reached it, or reaches it in the next millisecond,
so that the limit can be taken before the advance of P in that millisecond (R121, R125, log entry 3). -/
def Clock.limitDue (k : Clock) : Bool :=
  k.state == .freewheel && decide (k.cfg.freewheel ≤ k.freewheelTimer + 1)

/-- The mark timer reaches the mark timeout in LOCKING or LOCKED (R120). A timer that is further from it,
restarted by a mark taken first, brings no timeout (R122, log entry 3). -/
def execMarkTimeout (s : State) : Host.Outcome State Fault Refusal :=
  .next (if s.resetLow || !s.clock.timeoutDue then s else s.timeoutClock)

/-- The freewheel timer reaches the freewheel limit in FREEWHEEL (R121, R122, log entry 3). -/
def execFreewheelLimit (s : State) : Host.Outcome State Fault Refusal :=
  .next (if s.resetLow || !s.clock.limitDue then s else s.loseClock)

/-! ### Clock requests (R126 to R128) -/

/-- The clock settings in the order of R126. -/
def clockSettings (c : ClockConfig) : List Byte :=
  [byte c.markDelay, byte c.lockWindow] ++ bytesOf 2 c.relocate ++ bytesOf 2 c.markTimeout ++
    bytesOf 2 c.freewheel ++ [byte c.phaseDepth, byte c.rateDepth]

/-- The clock settings brought into their ranges (R126). -/
def ClockConfig.clamped (c : ClockConfig) : ClockConfig :=
  { markDelay := min c.markDelay 50
    lockWindow := clampNat 1 100 c.lockWindow
    relocate := clampNat 20 1000 c.relocate
    markTimeout := clampNat 20 1000 c.markTimeout
    freewheel := min c.freewheel 10000
    phaseDepth := min c.phaseDepth 7
    rateDepth := min c.rateDepth 15 }

/-- A new mark timeout or freewheel limit is compared with its timer at once (R127). -/
def State.judgeTimers (s : State) : State :=
  if s.clock.overdue then s.timeoutClock
  else if s.clock.spent then s.loseClock
  else s

/-- CLOCK_SETUP writes the seven settings (R126, R127). -/
def serveClockSetup (f : ClockConfig) (_broadcast : Bool) (s : State) : Served :=
  ((s.setClock { s.clock with cfg := f.clamped }).judgeTimers).reply
    (Result.applied (f.clamped != f)) (clockSettings f.clamped)

def execClockSetup (d : Dest) (body : List Byte) (s : State) : Host.Outcome State Fault Refusal :=
  .next (s.request d 0x40 (parseClockSetup body) serveClockSetup)

/-- The clock point field of CLOCK_QUERY: song and position, then a none flag (R128, log entry 7). -/
def pointBytes : Option (Nat × Nat) → List Byte
  | none => [0] ++ bytesOf 3 0 ++ [flag true]
  | some (song, x) => [byte song] ++ bytesOf 3 x ++ [flag false]

/-- What CLOCK_QUERY reports (R128). -/
def clockReport (s : State) : List Byte :=
  let k := s.clock
  [k.state.code] ++ bytesOf 4 k.whole ++ bytesOf 3 k.rate ++ [byte k.song, byte k.good, byte k.errors] ++
    pointBytes k.point ++ clockSettings k.cfg

def execClockQuery (d : Dest) (body : List Byte) (s : State) : Host.Outcome State Fault Refusal :=
  .next (s.request d 0x41 (parseEmpty body) (query fun _ s => Answer.mk' .ok (clockReport s)))

end Sys2Proof.Machine
end

