-- ==== Sys2Proof/Machine/CueContacts.lean ====
section
/-!
DEFINITION. The Contact Inputs (chapter 8): presses and releases of the four cue contact lines,
CONTACT_SETUP and CONTACT_QUERY. Sampling stands in WallTime.lean.
-/

namespace Sys2Proof.Machine

/-! ### Presses and releases (R149 to R153) -/

/-- A contact line's level read by its polarity (R149). -/
def Polarity.active (p : Polarity) (high : Bool) : Bool :=
  match p with
  | .activeLow => !high
  | .activeHigh => high

/-- The pin level that means `active` under a polarity (R149). -/
def Polarity.level (p : Polarity) (active : Bool) : Bool :=
  match p with
  | .activeLow => !active
  | .activeHigh => active

/-- The polarity of a contact line. -/
def State.polarity (s : State) (l : ContactLine) : Polarity := s.contacts.cfg.polarity.get l.index

/-- A contact line's record. -/
def State.contact (s : State) (l : ContactLine) : Contact := s.contacts.lines.get l.index

/-- A contact line has changed its qualified state: the pin stands at it and the count is 0 (R149). -/
def State.contactChanged (s : State) (l : ContactLine) (active : Bool) : State :=
  s.setContacts { s.contacts with
    lines := s.contacts.lines.set l.index
      { high := (s.polarity l).level active, qualified := active, count := 0 } }

/-- A press that the sequencer refused is counted, up to 255, and raises GO_IGNORED (R153). -/
def State.ignorePress (s : State) : State :=
  (s.setContacts { s.contacts with ignored := countUp 255 s.contacts.ignored }).raise .goIgnored

/-- A GO or BACK press has been judged with this result (R151 to R153). -/
def State.judgedPress (s : State) (r : Result) : State := if r = .ok then s else s.ignorePress

/-- A qualified press of `l` does `act`. A line that is active already has no such press (R149, log
entry 4). -/
def State.press (s : State) (l : ContactLine) (act : State → State) : State :=
  if s.resetLow || (s.contact l).qualified then s else act (s.contactChanged l true)

/-- A qualified press of CGO is a GO with no expected cue (R151). -/
def State.contactGo (s : State) : State :=
  let o := s.go .goContact 0
  o.state.judgedPress o.result

def execContactGoPress (s : State) : Host.Outcome State Fault Refusal :=
  .next (s.press .cgo State.contactGo)

/-- A qualified press of CBACK is a BACK (R152). -/
def State.contactBack (s : State) : State := s.back.1.judgedPress s.back.2

def execContactBackPress (s : State) : Host.Outcome State Fault Refusal :=
  .next (s.press .cback State.contactBack)

/-- A qualified press of CHOLD is a HOLD; it is never counted (R152). -/
def execContactHoldPress (s : State) : Host.Outcome State Fault Refusal :=
  .next (s.press .chold State.holdShow)

/-- A qualified press of CSAFE is a SAFE request; it is never counted (R152). -/
def execContactSafePress (s : State) : Host.Outcome State Fault Refusal :=
  .next (s.press .csafe State.enterSafe)

/-- A qualified release updates the line's qualified state and produces nothing (R149). -/
def execContactRelease (l : ContactLine) (s : State) : Host.Outcome State Fault Refusal :=
  .next (if s.resetLow || !(s.contact l).qualified then s else s.contactChanged l false)

/-! ### Setting up and reading the contacts (R155, R156) -/

/-- The four polarities of a request, if every code is known (R155). -/
def polaritiesOf (codes : Tab 4 Byte) : Option (Tab 4 Polarity) :=
  if codes.data.all fun b => (Polarity.ofCode b).isSome then
    some (codes.map fun b => (Polarity.ofCode b).getD .activeLow)
  else none

/-- A line under a newly written polarity: a changed polarity sets the qualified state at once from
the present level, with the count at 0; an unchanged one leaves the line as it is (R155). -/
def Contact.repolarized (l : Contact) (old new : Polarity) : Contact :=
  if old = new then l else { l with qualified := new.active l.high, count := 0 }

/-- The contact configuration in the order of R155. -/
def contactSettings (c : ContactConfig) : List Byte :=
  [byte c.qualify] ++ c.polarity.data.map Polarity.code ++ bytesOf 2 c.guard

/-- CONTACT_SETUP writes the contact configuration as a whole (R155). -/
def serveContactSetup (f : ContactSetup) (_broadcast : Bool) (s : State) : Served :=
  match polaritiesOf f.polarity with
  | none => s.refuse .badField
  | some polarity =>
    let cfg : ContactConfig := { qualify := clampNat 1 31 f.qualify, polarity, guard := min f.guard 2000 }
    let lines := Tab.build 4 fun i =>
      (s.contacts.lines.get i).repolarized (s.contacts.cfg.polarity.get i) (polarity.get i)
    (s.setContacts { s.contacts with cfg, lines }).reply
      (Result.applied (cfg.qualify != f.qualify || cfg.guard != f.guard)) (contactSettings cfg)

def execContactSetup (d : Dest) (body : List Byte) (s : State) : Host.Outcome State Fault Refusal :=
  .next (s.request d 0x50 (parseContactSetup body) serveContactSetup)

/-- What CONTACT_QUERY reports (R156). -/
def contactReport (s : State) : List Byte :=
  (List.finRange 4).flatMap (fun i =>
      [flag (s.contacts.lines.get i).qualified, (s.contacts.cfg.polarity.get i).code]) ++
    [byte s.contacts.cfg.qualify] ++ bytesOf 2 s.contacts.cfg.guard ++ [byte s.contacts.ignored]

def execContactQuery (d : Dest) (body : List Byte) (s : State) : Host.Outcome State Fault Refusal :=
  .next (s.request d 0x51 (parseEmpty body) (query fun _ s => Answer.mk' .ok (contactReport s)))

end Sys2Proof.Machine
end

