-- ==== Sys2Proof/Machine/EventUnit.lean ====
section
/-!
DEFINITION. The Event Unit (chapter 11): event settings, reading of flags, the restart sequence, the
resets and the restart record.
-/

namespace Sys2Proof.Machine

/-! ### Event requests (R190, R191) -/

/-- The event settings in the layout of EVENTS_SETUP: 32 enable bits and three acts (R197). -/
def eventSettings (v : Events) : List Byte :=
  bytesOf 4 (v.enables.toNat + if v.noticeEnable then 2097152 else 0) ++
    [v.actLost.code, v.actSilence.code, v.actLate.code]

/-- EVENTS_SETUP replaces every setting at once, or, with an unknown act code, stores nothing
(R190). -/
def serveEventsSetup (f : EventsSetup) (_broadcast : Bool) (s : State) : Served :=
  match Act.ofCode f.lost, Act.ofCode f.silence, Act.ofCode f.late with
  | some a, some b, some c =>
    let v := { s.events with
      enables := BitVec.ofNat 21 f.enables
      noticeEnable := decide (f.enables / 2097152 % 2 = 1)
      actLost := a, actSilence := b, actLate := c }
    (s.setEvents v).reply .ok (eventSettings v)
  | _, _, _ => s.refuse .badField

def execEventsSetup (d : Dest) (body : List Byte) (s : State) : Host.Outcome State Fault Refusal :=
  .next (s.request d 0x08 (parseEventsSetup body) serveEventsSetup)

/-- EVENTS_READ reports a group's flags and clears them; group 0 reads the summary alone, and a
broadcast clears nothing (R191). -/
def serveEventsRead (g : Byte) (broadcast : Bool) (s : State) : Served :=
  if 5 < g.toNat then s.refuse .badField
  else if broadcast then s.reply .ok []
  else
    let flags := clearGroup s.events.flags g.toNat
    (s.setEvents { s.events with flags }).reply .ok
      ((if g.toNat = 0 then [] else [byte (groupFlags s.events.flags g.toNat)]) ++
        [byte (groupSummary flags), byte s.seq.notices.length] ++ eventSettings s.events)

def execEventsRead (d : Dest) (body : List Byte) (s : State) : Host.Outcome State Fault Refusal :=
  .next (s.request d 0x09 (parseByte body) serveEventsRead)

/-! ### The restart sequence (R193) -/

/-- The restart sequence is in this state. -/
def State.setSequence (s : State) (q : RestartSequence) : State :=
  s.setEvents { s.events with sequence := q }

/-- Steps 1 and 2 are answered with the step taken and the whole milliseconds left in the window
(R193). -/
def stepReply (s : State) (step : Nat) : List Byte :=
  byte step :: bytesOf 3 (1000 - s.events.window)

/-- A RESTART of a good length is served in each state of the restart sequence. A broadcast step 3
restarts the part at once; an addressed one restarts it at the end of its reply (R193). -/
def serveRestart (step : Nat) (broadcast : Bool) (s : State) : Served :=
  if step < 1 ∨ 3 < step then s.sequenceIdle.refuse .badField
  else
    match s.events.sequence with
    | .idle =>
      if step = 1 then
        let t := s.setEvents { s.events with sequence := .step1, window := 0 }
        t.reply .ok (stepReply t 1)
      else s.refuse .sequence
    | .step1 =>
      if step = 2 then (s.setSequence .step2).reply .ok (stepReply s 2)
      else (s.setSequence .idle).refuse .sequence
    | .step2 =>
      if step = 3 then
        if broadcast then ⟨(s.setSequence .due).takeReset .linkRestart, none⟩
        else ⟨s.setSequence .due, some ⟨Result.ok.code, [], .linkRestart⟩⟩
      else (s.setSequence .idle).refuse .sequence
    | .due =>
      ⟨s.setFree (s.free + 1), some ⟨Config.restartInDueResult s.free, [], .nothing⟩⟩

/-- RESTART: a wrong length keeps its answer and returns the sequence to IDLE (R193). -/
def execRestart (d : Dest) (body : List Byte) (s : State) : Host.Outcome State Fault Refusal :=
  .next (s.receive d 0x0A fun b t =>
    match parseByte body with
    | none => t.sequenceIdle.refuse .badLength
    | some k => serveRestart k.toNat b t)

/-- The window of 1000 ms runs out before step 3: the sequence returns to IDLE with no reply and no
event. A window that has not run out has no lapse (R193, log entry 3). -/
def execRestartWindowLapse (s : State) : Host.Outcome State Fault Refusal :=
  .next (if s.resetLow || decide (s.events.window < 1000) then s else s.sequenceIdle)

/-- What RESTART_QUERY reports (R194). -/
def restartReport (s : State) : List Byte :=
  let r := s.restart
  [r.cause.code, flag r.live] ++ cueField r.standing ++ cueField r.next ++ [byte r.count]

def execRestartQuery (d : Dest) (body : List Byte) (s : State) : Host.Outcome State Fault Refusal :=
  .next (s.request d 0x0B (parseEmpty body) (query fun _ s => Answer.mk' .ok (restartReport s)))

/-! ### Resets (R192) -/

/-- The supply comes up, with these levels at the straps (R192, R174). -/
def execPowerOn (straps : BitVec 5) (s : State) : Host.Outcome State Fault Refusal :=
  .next (s.takePowerOn straps)

/-- The reply to the third step of the restart sequence has been sent whole and its link restart is due:
it falls together with whatever is taken before it (R192, R193). -/
def Link.restartDue (k : Link) : Bool :=
  k.sending.any (fun x => decide (x.left ≤ 0)) && k.buffer.head?.any fun e => e.after == .linkRestart

/-- RESETn goes low, with these levels at the straps: the reset is taken, and the part is held. A link
restart that falls together with it is taken in turn, from the state that the first reset left; a reply
that is still being sent is cut off, and no link restart follows. While RESETn is low it cannot go low
again (R192, R174). -/
def execResetPin (straps : BitVec 5) (s : State) : Host.Outcome State Fault Refusal :=
  .next
    (if s.resetLow then s
    else
      let t := (s.setLink { s.link with straps }).takeReset .resetPin
      (if s.link.restartDue then t.takeReset .linkRestart else t).setResetLow true)

/-- RESETn returns high: the part comes out of the reset, and its time-based behaviour counts from
here (R192). -/
def execResetPinRelease (s : State) : Host.Outcome State Fault Refusal :=
  .next (s.setResetLow false)

end Sys2Proof.Machine
end

