-- ==== Sys2Proof/Machine/FaderSurface.lean ====
section
/-!
DEFINITION. The Fader Surface Unit (chapter 7): scan passes, the hand on a fader, mute keys, banks and
mapping, and the unit's requests. The surface frame stands in GainOutput.lean.
-/

namespace Sys2Proof.Machine

/-! ### The faders -/

/-- The fader of a slot. -/
def State.fader (s : State) (f : Slot) : Fader := s.surface.faders.get f

/-- The state with the fader of a slot replaced. -/
def State.setFader (s : State) (f : Slot) (d : Fader) : State :=
  s.setSurface { s.surface with faders := s.surface.faders.set f d }

/-- All 16 slots, in order. -/
def allSlots : List Slot := List.finRange 16

/-- The slot has a fader in the mode in force (R129). -/
def State.slotUsed (s : State) (f : Slot) : Bool := s.surface.cfg.mode.uses f

/-! ### The hand (R137 to R141) -/

/-- A qualified touch of a FREE fader: ignored when unmapped, BLOCKED when its channel is HELD, and
otherwise HOLDING, with H at the law's level of its accepted position (R138). -/
def State.takeTouch (s : State) (f : Slot) : State :=
  match (s.fader f).mapping with
  | none => s
  | some c =>
    match (s.chan c).hand with
    | .held _ => (s.setFader f { s.fader f with state := .blocked }).raise .touchBlocked
    | .free | .gliding _ _ _ =>
      (s.setFader f { s.fader f with state := .holding }).setChan c
        { s.chan c with hand := .held (faderLaw (s.fader f).position) }

/-- A channel is handed back at hand level `h` by its release mode: RETURN starts a glide, or with
return time 0 ends it there; KEEP ends the active move TAKEN and sets A to H (R139, R140, R101). -/
def State.handBack (s : State) (c : Chan) (h : Int) : State :=
  match (s.chan c).cfg.release with
  | .ret =>
    s.setChan c { s.chan c with
      hand := if (s.chan c).cfg.returnTime = 0 then .free
              else .gliding h 0 (s.chan c).cfg.returnTime }
  | .keep =>
    let t := s.reportActive c
    t.setChan c { t.chan c with level := h, hand := .free, active := none }

/-- The hand level of a channel at its release: H, or the used level where no hand holds it. -/
def Channel.releaseLevel (r : Channel) : Int :=
  match r.hand with
  | .free => r.used
  | .held h => h
  | .gliding _ _ _ => r.used

/-- A released fader takes its pending mapping, if it has one, and REMAP_DONE is raised (R141). -/
def State.remap (s : State) (f : Slot) : State :=
  match (s.fader f).pending with
  | none => s
  | some m => (s.setFader f { s.fader f with mapping := m, pending := none }).raise .remapDone

/-- A qualified release: a HOLDING fader hands its channel back, a BLOCKED one changes no channel, and
both become FREE and take their pending mapping; a FREE fader is left as it is (R139 to R141). -/
def State.releaseFader (s : State) (f : Slot) : State :=
  match (s.fader f).state with
  | .free => s
  | .blocked => (s.setFader f { s.fader f with state := .free }).remap f
  | .holding =>
    let t := s.setFader f { s.fader f with state := .free }
    match (s.fader f).mapping with
    | none => t.remap f
    | some c => (t.handBack c (t.chan c).releaseLevel).remap f

/-! ### Touch lines and mute keys (R132, R138, R139, R143) -/

/-- A line that has changed its qualified state: the pin stands at it and the count is 0 (R132). -/
def TouchLine.changed (active : Bool) : TouchLine :=
  { level := active, qualified := active, count := 0 }

/-- The touch line of a slot has changed its qualified state. -/
def State.touchChanged (s : State) (f : Slot) (active : Bool) : State :=
  s.setSurface { s.surface with touch := s.surface.touch.set f (TouchLine.changed active) }

/-- The mute key of a slot has changed its qualified state. -/
def State.keyChanged (s : State) (f : Slot) (active : Bool) : State :=
  s.setSurface { s.surface with keys := s.surface.keys.set f (TouchLine.changed active) }

/-- What a qualified touch does: a FREE fader in use is judged by R138 (R129, R132). -/
def State.handOn (s : State) (f : Slot) : State :=
  if s.slotUsed f && (s.fader f).state == .free then s.takeTouch f else s

/-- What a qualified release does: the fader in use is released (R139 to R141). -/
def State.handOff (s : State) (f : Slot) : State :=
  if s.slotUsed f then (s.releaseFader f).settledFrom s else s

/-- A qualified touch: the line's qualified state becomes active, and a FREE fader in use is judged by
R138. A line that is active already has no such change (log entry 4). -/
def execQualifiedTouch (f : Slot) (s : State) : Host.Outcome State Fault Refusal :=
  .next
    (if s.resetLow || (s.surface.touch.get f).qualified then s
    else (s.touchChanged f true).handOn f)

/-- A qualified release: the line's qualified state becomes inactive, and the fader in use is released
(R139 to R141). -/
def execQualifiedRelease (f : Slot) (s : State) : Host.Outcome State Fault Refusal :=
  .next
    (if s.resetLow || !(s.surface.touch.get f).qualified then s
    else (s.touchChanged f false).handOff f)

/-- The OPERATOR source of a slot's effective mapping is toggled; an unmapped slot is ignored
(R143). -/
def State.toggleOperator (s : State) (f : Slot) : State :=
  match (s.fader f).mapping with
  | none => s
  | some c => s.setChan c { s.chan c with operator := !(s.chan c).operator }

/-- What a qualified press of a mute key does, on a slot in use (R129, R143). -/
def State.keyOn (s : State) (f : Slot) : State := if s.slotUsed f then s.toggleOperator f else s

/-- A qualified press of a mute key (R143). -/
def execKeyPress (f : Slot) (s : State) : Host.Outcome State Fault Refusal :=
  .next
    (if s.resetLow || (s.surface.keys.get f).qualified then s else (s.keyChanged f true).keyOn f)

/-- A key's change to inactive updates its qualified state only (R132). -/
def execKeyRelease (f : Slot) (s : State) : Host.Outcome State Fault Refusal :=
  .next
    (if s.resetLow || !(s.surface.keys.get f).qualified then s else s.keyChanged f false)

/-! ### Scan passes (R129 to R131) -/

/-- A reading replaces the accepted position `p` (R130). -/
def acceptsReading (hysteresis p reading : Nat) : Bool :=
  decide (reading = 0 ∨ reading = 1023 ∨ p + hysteresis < reading ∨ reading + hysteresis < p)

/-- A fader's reading of a pass is judged; a new accepted position on a HOLDING fader sets H
(R130). -/
def State.takeReading (s : State) (f : Slot) (reading : Nat) : State :=
  if acceptsReading s.surface.cfg.hysteresis (s.fader f).position reading then
    let t := s.setFader f { s.fader f with position := reading }
    match (s.fader f).state, (s.fader f).mapping with
    | .holding, some c => t.setChan c { t.chan c with hand := .held (faderLaw reading) }
    | _, _ => t
  else s

/-- The two wipers of fader `f` in PAIRED mode, and whether they agree (R131). -/
def wipersOf (readings : Tab 16 (BitVec 10)) (f : Slot) : Nat × Nat :=
  ((readings.get (Fin.ofNat 16 (2 * f.val))).toNat,
    (readings.get (Fin.ofNat 16 (2 * f.val + 1))).toNat)

/-- Two wipers agree within the tolerance (R131). -/
def agree (tolerance a b : Nat) : Bool := decide (a ≤ b + tolerance ∧ b ≤ a + tolerance)

/-- The end of a pass for one fader: in PAIRED mode the wipers are checked against each other first
(R130, R131). -/
def State.passFader (s : State) (readings : Tab 16 (BitVec 10)) (f : Slot) : State :=
  match s.surface.cfg.mode with
  | .sequential => s.takeReading f (readings.get f).toNat
  | .paired =>
    if f.val < 8 then
      let (a, b) := wipersOf readings f
      if agree s.surface.cfg.tolerance a b then
        (s.setFader f { s.fader f with disagree := false }).takeReading f ((a + b) / 2)
      else if (s.fader f).disagree then s
      else (s.setFader f { s.fader f with disagree := true }).raise .wiperDisagree
    else s

/-- A scan pass ends with these readings at the wipers: every fader in use is judged, and the next pass
begins (R129 to R131, R146). -/
def execPassEnd (readings : Tab 16 (BitVec 10)) (s : State) : Host.Outcome State Fault Refusal :=
  .next
    (if s.resetLow then s
    else
      let t := s.setSurface { s.surface with wipers := readings, passLeft := s.surface.cfg.period }
      allSlots.foldl (fun t f => t.passFader readings f) t)

/-! ### Banks and mapping (R133 to R136) -/

/-- A FREE fader takes effective mapping `m`: a change to a channel under a touched line is handled as
a qualified touch (R135, R136). -/
def State.mapFree (s : State) (f : Slot) (m : Option Chan) : State :=
  let t := s.setFader f { s.fader f with mapping := m, pending := none }
  if m ≠ (s.fader f).mapping ∧ (s.surface.touch.get f).qualified then t.takeTouch f else t

/-- One slot is brought up to date from the active bank's slot `m`: a FREE fader at once, a held or
blocked one by its pending mapping (R135). -/
def State.applySlot (s : State) (f : Slot) (m : Option Chan) : State :=
  match (s.fader f).state with
  | .free => s.mapFree f m
  | .holding | .blocked =>
    s.setFader f { s.fader f with pending := if m = (s.fader f).mapping then none else some m }

/-- The active bank's slot of a slot. -/
def State.bankSlot (s : State) (f : Slot) : Option Chan :=
  (s.surface.banks.get s.surface.activeBank).get f

/-- Each slot in use is brought up to date from the active bank, slot 1 first (R135). -/
def State.applyBank (s : State) : State :=
  allSlots.foldl (fun t f => if t.slotUsed f then t.applySlot f (t.bankSlot f) else t) s

/-- The number of faders with a pending mapping. -/
def State.pendingFaders (s : State) : Nat :=
  (s.surface.faders.data.filter fun d => d.pending.isSome).length

/-- A channel above 0 stands in two or more slots (R134). -/
def slotsRepeat : List (Option Chan) → Bool
  | [] => false
  | none :: rest => slotsRepeat rest
  | some c :: rest => rest.contains (some c) || slotsRepeat rest

/-- The bank of the request: none when a slot value is above 56 (R134). -/
def bankOfSlots (slots : Tab 16 Byte) : Option Bank :=
  if slots.data.all fun b => (slotOf b).isSome then
    some (slots.map fun b => (slotOf b).getD none)
  else none

/-- The slots of a bank as a reply carries them. -/
def bankBytes (b : Bank) : List Byte := b.data.map chanField

/-- BANK_PUT writes one whole bank, and applies it when it is the active one (R134). -/
def serveBankPut (f : BankPut) (_broadcast : Bool) (s : State) : Served :=
  match bankOf f.bank, bankOfSlots f.slots with
  | some k, some bank =>
    if slotsRepeat bank.data then s.refuse .duplicate
    else
      let t := s.setSurface { s.surface with banks := s.surface.banks.set k bank }
      let t := if k = t.surface.activeBank then t.applyBank else t
      t.reply .ok (bankBytes bank ++ [byte t.pendingFaders])
  | _, _ => s.refuse .badField

def execBankPut (d : Dest) (body : List Byte) (s : State) : Host.Outcome State Fault Refusal :=
  .next (s.request d 0x49 (parseBankPut body) serveBankPut)

/-- BANK_SELECT makes a bank active and applies it (R135). -/
def serveBankSelect (k : Byte) (_broadcast : Bool) (s : State) : Served :=
  match bankOf k with
  | none => s.refuse .badField
  | some k =>
    let t := (s.setSurface { s.surface with activeBank := k }).applyBank
    t.reply .ok [byte (k.val + 1), byte t.pendingFaders]

def execBankSelect (d : Dest) (body : List Byte) (s : State) : Host.Outcome State Fault Refusal :=
  .next (s.request d 0x4A (parseByte body) serveBankSelect)

/-! ### Setting up and reading the surface (R146, R147) -/

/-- The surface configuration in the order of R146. -/
def surfaceSettings (c : SurfaceConfig) : List Byte :=
  [c.mode.code, byte c.period, byte c.hysteresis, byte c.tolerance, byte c.qualify]

/-- Slots 9 to 16. -/
def upperSlots : List Slot := allSlots.filter fun f => decide (8 ≤ f.val)

/-- Slot `f` of 9 to 16 goes out of use: a held or blocked fader is released, and the slot is left
unmapped (R146, R147). -/
def State.retireSlot (s : State) (f : Slot) : State :=
  (s.releaseFader f).setFader f (Fader.fresh none)

/-- Slot `f` of 9 to 16 comes into use FREE, mapped by the active bank (R146). -/
def State.reviveSlot (s : State) (f : Slot) : State :=
  (s.setFader f (Fader.fresh none)).mapFree f (s.bankSlot f)

/-- The mode of the scanner has changed to the mode in force: every disagreement flag is cleared, and
slots 9 to 16 go out of use or come into use (R146). The rule is silent on the pass in progress: it runs
on, and is judged with the new wiper arrangement (log entry 28). -/
def State.modeChanged (s : State) : State :=
  let t := s.setSurface { s.surface with
    faders := s.surface.faders.map fun d => { d with disagree := false } }
  match t.surface.cfg.mode with
  | .paired => upperSlots.foldl (fun t f => t.retireSlot f) t
  | .sequential => upperSlots.foldl (fun t f => t.reviveSlot f) t

/-- SURFACE_SETUP writes the surface configuration whole; a change of mode is applied at once
(R146). -/
def serveSurfaceSetup (f : SurfaceSetup) (_broadcast : Bool) (s : State) : Served :=
  match ScanMode.ofCode f.mode with
  | none => s.refuse .badField
  | some mode =>
    let cfg : SurfaceConfig :=
      { mode, period := clampNat 1 8 f.period, hysteresis := min f.hysteresis 15,
        tolerance := min f.tolerance 63, qualify := clampNat 1 15 f.qualify }
    let clamped := cfg.period != f.period || cfg.hysteresis != f.hysteresis ||
      cfg.tolerance != f.tolerance || cfg.qualify != f.qualify
    let t := s.setSurface { s.surface with cfg }
    let t := if mode = s.surface.cfg.mode then t else t.modeChanged.settledFrom s
    t.reply (Result.applied clamped) (surfaceSettings cfg)

def execSurfaceSetup (d : Dest) (body : List Byte) (s : State) : Host.Outcome State Fault Refusal :=
  .next (s.request d 0x48 (parseSurfaceSetup body) serveSurfaceSetup)

/-- The pending mapping in a reply: the channel, then a none flag (R147, log entry 7). -/
def pendingBytes : Option (Option Chan) → List Byte
  | none => [0, flag true]
  | some m => [chanField m, flag false]

/-- One slot in a SURFACE_QUERY reply (R147). -/
def slotReport (s : State) (f : Slot) : List Byte :=
  let d := s.fader f
  bytesOf 2 d.position ++ [d.state.code, chanField d.mapping] ++ pendingBytes d.pending ++
    [flag (s.surface.touch.get f).qualified, flag (s.surface.keys.get f).qualified,
      flag d.disagree]

/-- What SURFACE_QUERY reports (R147). -/
def surfaceAnswer (k : Byte) (s : State) : Answer :=
  if 8 < k.toNat then Answer.bare .badField
  else
    Answer.mk' .ok
      (surfaceSettings s.surface.cfg ++ [byte (s.surface.activeBank.val + 1)] ++
        allSlots.flatMap (slotReport s) ++
        match bankOf k with
        | none => []
        | some b => bankBytes (s.surface.banks.get b))

def execSurfaceQuery (d : Dest) (body : List Byte) (s : State) : Host.Outcome State Fault Refusal :=
  .next (s.request d 0x4B (parseByte body) (query surfaceAnswer))

end Sys2Proof.Machine
end

