-- ==== Sys2Proof/Machine/GainOutput.lean ====
section
/-!
DEFINITION. The Gain Output Unit (chapter 9) and the surface frame (7.6): the frame event, placing and
sending of frames, and the unit's requests.
-/

namespace Sys2Proof.Machine

/-! ### The channels at a frame event (R159, R6, R11, R30 to R35) -/

/-- A glide at full progress ends at the frame event that forms it (R6, R27). -/
def Hand.atFrame : Hand → Hand
  | .free => .free
  | .held h => .held h
  | .gliding start since time => if time ≤ since then .free else .gliding start since time

/-- Used level and trim of a strip's group master, if it is grouped (R28). -/
def State.masterLevels (s : State) (c : Chan) : Option (Int × Int) :=
  match (s.chan c).cfg.group with
  | none => none
  | some g => some ((s.chan (masterChan g)).used, (s.chan (masterChan g)).cfg.trim)

/-- E and LIMITED of a strip, formed at this instant (R28, R29). -/
def State.effective (s : State) (c : Chan) : Int × Bool :=
  effectiveLevel (s.chan c).used (s.chan c).cfg.trim (s.masterLevels c)

/-- A channel's record after a frame event with period `f`: mute step, E and LIMITED of a strip; the end
of a glide of any channel (R159). -/
def State.atFrame (s : State) (f : Nat) (c : Chan) : Channel :=
  if isStrip c then
    { s.chan c with
      hand := (s.chan c).hand.atFrame
      mute := muteStep f (s.rampTime c) (s.muteGoal c) (s.chan c).mute
      effective := (s.effective c).1
      limited := (s.effective c).2 }
  else { s.chan c with hand := (s.chan c).hand.atFrame }

/-- The gain word of a strip, from its record after the frame event's step (R32, R34). -/
def Channel.word (r : Channel) : Nat := gainWord r.effective r.mute

/-- The channels of a frame event are formed, and LEVEL_CLAMP is raised where a strip's LIMITED goes
from clear to set (R11, R159). -/
def State.formChannels (s : State) (f : Nat) : State :=
  let t := s.setChannels (Tab.build 56 (s.atFrame f))
  if allChans.any fun c => !(s.chan c).limited && (t.chan c).limited then t.raise .levelClamp else t

/-! ### Frames (R144, R160, R161, R169) -/

/-- The strip a routing map sends to a line slot (R162). -/
def routed (routes : Tab 48 (Option (GainNo × Fin 64))) (n : GainNo) (k : Fin 64) : Option Strip :=
  (List.finRange 48).find? fun p => routes.get p == some (n, k)

/-- The gain word of a line slot: W of the strip routed there, or 0 (R160). -/
def State.slotWord (s : State) (n : GainNo) (k : Fin 64) : Nat :=
  match routed s.output.routes n k with
  | none => 0
  | some p => (s.chan (stripChan p)).word

/-- The surface frame's entry of a slot (R144). -/
def State.slotEntry (s : State) (f : Slot) : SlotEntry :=
  if s.slotUsed f then
    match (s.fader f).mapping with
    | none => { target := 0, drive := false, tally := false }
    | some c =>
      { target := motorTarget (s.chan c).used, drive := (s.fader f).state == .free,
        tally := s.muted c }
  else { target := 0, drive := false, tally := false }

/-- A frame with the count and flags of this instant (R161). -/
def State.frame (s : State) (content : Content) : Frame :=
  { count := s.output.frameCount, safe := s.seq.state == .safe, hold := s.seq.state == .hold, content }

/-- The gain frame of line `n` (R160). -/
def State.gainFrame (s : State) (n : GainNo) : Frame :=
  s.frame (.gain ((List.finRange 64).map (s.slotWord n)))

/-- The surface frame (R145, R169). -/
def State.surfaceFrame (s : State) : Frame := s.frame (.surface (allSlots.map s.slotEntry))

/-! ### Stage and shift (R165, R166, R168, R169) -/

/-- The crystal cycles of one bit at a divider (R165). -/
def bitTimeOf (divider : Nat) : Nat := divider + 1

/-- The crystal cycles of one bit on the surface line, whose rate is that of divider 7 (R169). -/
def surfaceBitTime : Nat := bitTimeOf 7

/-- The send time of a frame in crystal cycles, at this time for each bit: 1592 bits of a gain frame, 312
of a surface frame (R160, R165, R169). -/
def Frame.sendTime (f : Frame) (bitTime : Nat) : Nat :=
  match f.content with
  | .gain _ => 1592 * bitTime
  | .surface _ => 312 * bitTime

/-- The send of a frame as it starts, with the bit time it keeps to its end (R165). -/
def Frame.start (f : Frame) (bitTime : Nat) : Shifting :=
  { frame := f, bitTime, left := f.sendTime bitTime }

/-- A frame event finds the line's shift sending and its stage FULL (R168). -/
def GainLine.behind (l : GainLine) : Bool := l.shift.isSome && l.stage.isSome

/-- A new frame is placed on a gain line of this bit time: into an idle shift, or into the stage; a
staged frame it replaces is late and counted (R166, R168). -/
def GainLine.place (l : GainLine) (f : Frame) (bitTime : Nat) : GainLine :=
  match l.shift with
  | none => { l with shift := some (f.start bitTime) }
  | some _ =>
    match l.stage with
    | none => { l with stage := some f }
    | some _ => { l with stage := some f, late := countUp 65535 l.late }

/-- What follows in the shift when a send ends: the staged frame, whose send began at the instant the
last one ended (R166), with the bit time now in force (R165). -/
def nextShift (stage : Option Frame) (bitTime : Nat) (ended : Shifting) : Option Shifting :=
  match stage with
  | none => none
  | some f => some { f.start bitTime with left := (f.sendTime bitTime : Nat) + min ended.left 0 }

/-- The bit time of line `n` with the divider in force (R165). -/
def State.bitTime (s : State) (n : GainNo) : Nat := bitTimeOf (s.output.inForce.dividers.get n)

/-- The frames of a frame event are placed on their lines, the surface frame as R166 lays down for a
gain line (R166, R168, R169). -/
def State.placeFrames (s t : State) : State :=
  t.setOutput { t.output with
    lines := Tab.build 4 fun n => (t.output.lines.get n).place (s.gainFrame n) (t.bitTime n)
    surfaceShift :=
      match t.output.surfaceShift with
      | none => some (s.surfaceFrame.start surfaceBitTime)
      | some h => some h
    surfaceStage :=
      match t.output.surfaceShift with
      | none => t.output.surfaceStage
      | some _ => some s.surfaceFrame }

/-! ### The line pins (R165, R169, R172) -/

/-- The crystal cycles since a send started. -/
def Shifting.since (h : Shifting) : Nat := ((h.frame.sendTime h.bitTime : Nat) - h.left).toNat

/-- The bit that a send carries on its data pin at this instant (R165, R169). -/
def Shifting.data (h : Shifting) : Bool := (h.frame.bits[h.since / h.bitTime]?).getD false

/-- The level of the clock pin of a send at this instant: one period for each bit, the second half high,
so that the bit is valid at the rising edge (R165; log entry 20). -/
def Shifting.clock (h : Shifting) : Bool :=
  decide (0 < h.left) && decide (h.bitTime ≤ 2 * (h.since % h.bitTime))

/-- The clock and data pins of a line: those of its send, and low while it is idle (R165, R169, R172). -/
def linePins : Option Shifting → Bool × Bool
  | none => (false, false)
  | some h => (h.clock, h.data)

/-- GCLKn and GDATn (R165, R172). -/
def State.gainPins (s : State) (n : GainNo) : Bool × Bool := linePins (s.output.lines.get n).shift

/-- SCLK and SDAT (R169, R172). -/
def State.surfacePins (s : State) : Bool × Bool := linePins s.output.surfaceShift

/-! ### The frame event (R158, R159) -/

/-- LINE_LATE is raised with its act for every line that was found behind, line 1 first (R168,
R188). -/
def State.raiseLate (s t : State) : State :=
  (List.finRange 4).foldl
    (fun u n => if (s.output.lines.get n).behind then u.raiseWithAct .lineLate else u) t

/-- The stored configuration comes into force and the timer starts the next period (R158). -/
def State.startPeriod (s : State) : State :=
  s.setOutput { s.output with inForce := s.output.stored, frameLeft := s.output.stored.period }

/-- The frame count of the next frame event (R161). -/
def State.countFrame (s : State) : State :=
  s.setOutput { s.output with frameCount := (s.output.frameCount + 1) % 65536 }

/-- A frame event: the stored configuration comes into force, the channels are formed, the five frames
are built and placed, and late lines are reported (R158 to R161, R166, R168). -/
def State.frameEvent (s : State) : State :=
  let t := s.startPeriod.formChannels s.output.stored.period
  s.raiseLate (t.placeFrames t.countFrame)

def execFrameEvent (s : State) : Host.Outcome State Fault Refusal :=
  .next (if s.resetLow then s else s.frameEvent)

/-- The send on a line ends: the staged frame starts at once, or the line becomes idle (R166). An idle
line has no such end (log entry 4). -/
def State.sendEnd (s : State) (l : OutLine) : State :=
  match l with
  | .gain n =>
    match (s.output.lines.get n).shift with
    | none => s
    | some h =>
      s.setOutput { s.output with
        lines := s.output.lines.set n
          { s.output.lines.get n with
            shift := nextShift (s.output.lines.get n).stage (s.bitTime n) h, stage := none } }
  | .surface =>
    match s.output.surfaceShift with
    | none => s
    | some h =>
      s.setOutput { s.output with
        surfaceShift := nextShift s.output.surfaceStage surfaceBitTime h, surfaceStage := none }

def execSendEnd (l : OutLine) (s : State) : Host.Outcome State Fault Refusal :=
  .next (if s.resetLow then s else s.sendEnd l)

/-! ### Setting up and reading the unit (R163, R164, R170, R171) -/

/-- A configuration of the unit: frame period and four dividers. -/
def outputSettings (c : OutputConfig) : List Byte := byte c.period :: c.dividers.data.map byte

/-- OUTPUT_SETUP writes the stored configuration (R170). -/
def serveOutputSetup (f : OutputSetup) (_broadcast : Bool) (s : State) : Served :=
  if f.period = 1 ∨ f.period = 2 ∨ f.period = 4 ∨ f.period = 8 then
    let stored : OutputConfig := { period := f.period, dividers := f.dividers.map (clampNat 3 255) }
    (s.setOutput { s.output with stored }).reply (Result.applied (stored.dividers != f.dividers))
      (outputSettings stored ++ [flag (stored != s.output.inForce)])
  else s.refuse .badField

def execOutputSetup (d : Dest) (body : List Byte) (s : State) : Host.Outcome State Fault Refusal :=
  .next (s.request d 0x58 (parseOutputSetup body) serveOutputSetup)

/-- A routing entry in a reply: line and slot, 0 and 0 when unrouted (R163, log entry 7). -/
def routeBytes : Option (GainNo × Fin 64) → List Byte
  | none => [0, 0]
  | some (n, k) => [byte (n.val + 1), byte (k.val + 1)]

/-- The strip a strip number names: 1..48. -/
def stripOf (v : Nat) : Option Strip :=
  if h : 1 ≤ v ∧ v ≤ 48 then some ⟨v - 1, by omega⟩ else none

/-- The place a line and slot name: `some none` for line 0, `none` when a number is outside its range
(R163). -/
def routePlace (line slot : Nat) : Option (Option (GainNo × Fin 64)) :=
  if line = 0 then some none
  else if h : (1 ≤ line ∧ line ≤ 4) ∧ 1 ≤ slot ∧ slot ≤ 64 then
    some (some (⟨line - 1, by omega⟩, ⟨slot - 1, by omega⟩))
  else none

/-- Another strip that holds the place, if there is one (R163). -/
def otherHolder (routes : Tab 48 (Option (GainNo × Fin 64))) (p : Strip)
    (place : Option (GainNo × Fin 64)) : Option Strip :=
  (List.finRange 48).find? fun q => q != p && place.isSome && routes.get q == place

/-- ROUTE_PUT places one strip on a line slot or takes it off the lines. The reply carries the strip's
entry as stored after the request, a refusal's the entry as it stands; DUPLICATE carries the strip that holds
the slot too, and a number that names no strip has no entry to carry (R163, R180; log entry 7). -/
def serveRoutePut (f : RoutePut) (_broadcast : Bool) (s : State) : Served :=
  match stripOf f.strip with
  | none => s.refuse .badField
  | some p =>
    match routePlace f.line f.slot with
    | none => s.reply .badField (routeBytes (s.output.routes.get p))
    | some place =>
      match otherHolder s.output.routes p place with
      | some q => s.reply .duplicate (routeBytes (s.output.routes.get p) ++ [byte (q.val + 1)])
      | none =>
        (s.setOutput { s.output with routes := s.output.routes.set p place }).reply .ok
          (routeBytes place)

def execRoutePut (d : Dest) (body : List Byte) (s : State) : Host.Outcome State Fault Refusal :=
  .next (s.request d 0x59 (parseRoutePut body) serveRoutePut)

/-- A strip number in a reply, 0 for none. -/
def stripField : Option Strip → Byte
  | none => 0
  | some p => byte (p.val + 1)

/-- ROUTE_QUERY's answer: the map by strip, or one line's slots (R164). -/
def routeAnswer (k : Byte) (s : State) : Answer :=
  if h : 1 ≤ k.toNat ∧ k.toNat ≤ 4 then
    Answer.mk' .ok ((List.finRange 64).map fun j =>
      stripField (routed s.output.routes ⟨k.toNat - 1, by omega⟩ j))
  else if k.toNat = 0 then Answer.mk' .ok (s.output.routes.data.flatMap routeBytes)
  else Answer.bare .badField

def execRouteQuery (d : Dest) (body : List Byte) (s : State) : Host.Outcome State Fault Refusal :=
  .next (s.request d 0x5A (parseByte body) (query routeAnswer))

/-- One gain line in an OUTPUT_QUERY reply; a frame that is not there has count 0 (R171, log
entry 7). -/
def lineReport (l : GainLine) : List Byte :=
  [flag l.shift.isSome] ++
    bytesOf 2 (match l.shift with
      | none => 0
      | some h => h.frame.count) ++
    [flag l.stage.isSome] ++
    bytesOf 2 (match l.stage with
      | none => 0
      | some f => f.count) ++
    bytesOf 2 l.late

/-- What OUTPUT_QUERY reports (R171). -/
def outputReport (s : State) : List Byte :=
  outputSettings s.output.stored ++ outputSettings s.output.inForce ++
    bytesOf 2 s.output.frameCount ++ s.output.lines.data.flatMap lineReport ++
    [flag s.output.surfaceShift.isSome]

def execOutputQuery (d : Dest) (body : List Byte) (s : State) : Host.Outcome State Fault Refusal :=
  .next (s.request d 0x5B (parseEmpty body) (query fun _ s => Answer.mk' .ok (outputReport s)))

end Sys2Proof.Machine
end

