-- ==== Sys2Proof/Machine/WallTime.lean ====
section
/-!
DEFINITION. CLOCK_ADVANCE: one wall millisecond of the part. Every counter and timer counts, P and the
moves advance, a crossing fires, and the input pins are sampled (log entries 2, 6 and 23).
-/

namespace Sys2Proof.Machine

/-! ### One wall millisecond (R114, R115) -/

/-- P advances: LOCKING, LOCKED and FREEWHEEL (R113, R114). -/
def Clock.runs (k : Clock) : Bool :=
  k.state == .locking || k.state == .locked || k.state == .freewheel

/-- The clock after one wall millisecond: P advances by ρ units of 1/65536 ms where it runs, the timers
count, and TMIN has been quiet for a millisecond more (R112 to R114, R120, R121). -/
def Clock.tick (k : Clock) : Clock :=
  { k with
    markTimer := countUp 65535 k.markTimer
    freewheelTimer :=
      if k.state = .freewheel then countUp 65535 k.freewheelTimer else k.freewheelTimer
    whole := if k.runs then wholePart (k.whole + (k.frac + k.rate) / 65536) else k.whole
    frac := if k.runs then (k.frac + k.rate) % 65536 else k.frac
    quiet := min (k.quiet + millisecond) markQuietMax }

/-- The sequencer's counters after one wall millisecond: the gate time (R68) and a scan's age. A crossing
of the millisecond before is over (R49). -/
def Sequencer.tick (q : Sequencer) : Sequencer :=
  { q with
    gateTime := countUp 65535 q.gateTime
    scan := q.scan.map fun k => { k with age := k.age + 1 }
    crossed := none }

/-- A send after one wall millisecond (R165). -/
def Shifting.tick (h : Shifting) : Shifting := { h with left := h.left - millisecond }

/-- The output unit after one wall millisecond (R158, R165). -/
def Output.tick (o : Output) : Output :=
  { o with
    lines := o.lines.map fun l => { l with shift := l.shift.map Shifting.tick }
    surfaceShift := o.surfaceShift.map Shifting.tick
    frameLeft := o.frameLeft - 1 }

/-- The link after one wall millisecond: silence timer, quiet times and send (R177, R180, R181,
R183). -/
def Link.tick (k : Link) : Link :=
  { k with
    timer := countUp 65535 k.timer
    rxQuiet := min (k.rxQuiet + millisecond) quietMax
    txQuiet := min (k.txQuiet + millisecond) quietMax
    sending := k.sending.map fun x => { x with left := x.left - millisecond } }

/-- The counters and timers of every block after one wall millisecond (R68, R113, R129, R158, R183,
R193). -/
def State.tickCounters (s : State) : State :=
  let s := s.setSeq s.seq.tick
  let s := s.setClock s.clock.tick
  let s := s.setSurface { s.surface with passLeft := s.surface.passLeft - 1 }
  let s := s.setOutput s.output.tick
  let s := s.setLink s.link.tick
  s.setEvents { s.events with
    window := if s.stepping then countUp 1000 s.events.window else s.events.window }

/-! ### Moves, waits and crossings (R26, R77, R98 to R104, R124) -/

/-- A glide after one more millisecond (R26). -/
def Hand.tick : Hand → Hand
  | .free => .free
  | .held h => .held h
  | .gliding start since time => .gliding start (if since < time then since + 1 else since) time

/-- Every glide goes on, in every show state (R26). -/
def State.glide (s : State) : State :=
  s.setChannels (s.channels.map fun r => { r with hand := r.hand.tick })

/-- A WAITING arm counts down in its timebase where it advances, to 0, where it waits for WAIT_EXPIRY
(R77, R79). -/
def State.armTick (s : State) : State :=
  match s.seq.arm with
  | .empty => s
  | .await _ => s
  | .clock _ _ => s
  | .waiting left base =>
    if s.showAdvances base then s.setArm (.waiting (left - s.advance base) base) else s

/-- The moves of every channel take the millisecond, in the order of the channels. -/
def State.allMoves (s : State) : State := allChans.foldl State.movesTick s

/-- The advance of one wall millisecond: counters, glides, the arm, P with the moves, and the crossing
that the advance of P makes (R98, R102, R103, R114, R115, R124; log entries 2 and 6). -/
def State.advanceAll (s : State) : State :=
  let t := s.tickCounters.glide
  let crossed := t.clock.crosses s.clock.whole
  let t := t.armTick
  let t := t.allMoves.settledFrom t
  if crossed then t.takeCrossing else t

/-! ### Samples (R132, R149) -/

/-- One sample of a touch line or key with qualification `q`, at this level (R132): a sample that differs
from the qualified state adds one to the count, and the count that reaches `q` changes the state. -/
def TouchLine.sample (q : Nat) (level : Bool) (l : TouchLine) : TouchLine :=
  if level = l.qualified then { level, qualified := l.qualified, count := 0 }
  else if q ≤ l.count + 1 then { level, qualified := level, count := 0 }
  else { level, qualified := l.qualified, count := l.count + 1 }

/-- One sample of a contact line of polarity `p` with qualification `q`, at this level (R149). -/
def Contact.sample (q : Nat) (p : Polarity) (high : Bool) (l : Contact) : Contact :=
  if p.active high = l.qualified then { high, qualified := l.qualified, count := 0 }
  else if q ≤ l.count + 1 then { high, qualified := p.active high, count := 0 }
  else { high, qualified := l.qualified, count := l.count + 1 }

/-- Every touch line, key and contact line is sampled at the levels of the pins (R132, R149). -/
def State.sampled (s : State) (x : Pins) : State :=
  let q := s.surface.cfg.qualify
  (s.setSurface { s.surface with
    touch := Tab.build 16 fun f => (s.surface.touch.get f).sample q (x.touch.get f)
    keys := Tab.build 16 fun f => (s.surface.keys.get f).sample q (x.keys.get f) }).setContacts
      { s.contacts with
        lines := Tab.build 4 fun i => (s.contacts.lines.get i).sample s.contacts.cfg.qualify
          (s.contacts.cfg.polarity.get i) (x.contacts.get i) }

/-- What a change of slot `f`'s touch line from the qualified state `old` does (R132). -/
def State.touchActs (s : State) (f : Slot) (old : Bool) : State :=
  match old, (s.surface.touch.get f).qualified with
  | false, true => s.handOn f
  | true, false => s.handOff f
  | false, false => s
  | true, true => s

/-- What a change of slot `f`'s key from the qualified state `old` does (R132, R143). -/
def State.keyActs (s : State) (f : Slot) (old : Bool) : State :=
  if !old && (s.surface.keys.get f).qualified then s.keyOn f else s

/-- The request of a contact line (R150). -/
def State.contactRequest (s : State) : ContactLine → State
  | .cgo => s.contactGo
  | .cback => s.contactBack
  | .chold => s.holdShow
  | .csafe => s.enterSafe

/-- The four contact lines, in order. -/
def allContacts : List ContactLine := [.cgo, .cback, .chold, .csafe]

/-- What a change of a contact line from the qualified state `old` does (R149, R150). -/
def State.contactActs (s : State) (l : ContactLine) (old : Bool) : State :=
  if !old && (s.contact l).qualified then s.contactRequest l else s

/-- The lines are sampled, and each qualified change has its effect at that sample: touch lines, keys,
contacts, each in order (R132, R149, R150; log entry 6). -/
def State.sampleAll (s : State) (x : Pins) : State :=
  let t := s.sampled x
  let t := allSlots.foldl (fun t f => t.touchActs f (s.surface.touch.get f).qualified) t
  let t := allSlots.foldl (fun t f => t.keyActs f (s.surface.keys.get f).qualified) t
  allContacts.foldl (fun t l => t.contactActs l (s.contact l).qualified) t

/-! ### The millisecond -/

/-- A character that waits has ended a millisecond longer ago (R181). -/
def LinkHeard.aged (h : LinkHeard) : LinkHeard := { h with ago := h.ago + millisecond }

/-- What the pins show of the straps and the lines: the straps' level (R174), the characters that LRX and
TMIN have brought, and the one under way on each (R111, R112, R173, R177, R180). -/
def State.takePins (s : State) (x : Pins) : State :=
  (s.setLink { s.link with
    straps := x.straps, line := s.link.line.map LinkHeard.aged ++ x.lrx, begun := x.lrxBegun }).setClock
      { s.clock with line := s.clock.line ++ x.tmin, begun := x.tminBegun }

/-- The levels at which the input pins stand, with no character on a line. -/
def State.pins (s : State) : Pins :=
  { touch := s.surface.touch.map TouchLine.level, keys := s.surface.keys.map TouchLine.level
    contacts := s.contacts.lines.map Contact.high, straps := s.link.straps, lrx := [], tmin := []
    lrxBegun := none, tminBegun := none }

/-- What the pins show in this millisecond: the front of the inputs, or the levels as they stand (log
entry 23). -/
def State.shown (s : State) : Pins := s.inputs.headD s.pins

/-- One wall millisecond of the part, with what the pins show in it (R98, R102, R103, R114, R115, R124,
R132, R149; log entries 2, 6 and 23). -/
def execClockAdvance (s : State) : Host.Outcome State Fault Refusal :=
  .next
    (if s.resetLow then s
    else (((s.advanceAll.sampleAll s.shown).takePins s.shown).setInputs s.inputs.tail))

end Sys2Proof.Machine
end

