-- ==== Sys2Proof/Machine/Dispatch.lean ====
section
/-!
DEFINITION. The meaning of every command: one arm for each constructor of `Instr`.
-/

namespace Sys2Proof.Machine

/-- The effect of a command on everything but the queue. -/
def exec (i : Instr) (s : State) : Host.Outcome State Fault Refusal :=
  match i with
  | .nop dest body => Sys2Proof.Machine.execNop dest body s
  | .linkSetup dest body => Sys2Proof.Machine.execLinkSetup dest body s
  | .linkQuery dest body => Sys2Proof.Machine.execLinkQuery dest body s
  | .eventsSetup dest body => Sys2Proof.Machine.execEventsSetup dest body s
  | .eventsRead dest body => Sys2Proof.Machine.execEventsRead dest body s
  | .restart dest body => Sys2Proof.Machine.execRestart dest body s
  | .restartQuery dest body => Sys2Proof.Machine.execRestartQuery dest body s
  | .channelSetup dest body => Sys2Proof.Machine.execChannelSetup dest body s
  | .trim dest body => Sys2Proof.Machine.execTrim dest body s
  | .muteRemote dest body => Sys2Proof.Machine.execMuteRemote dest body s
  | .channelQuery dest body => Sys2Proof.Machine.execChannelQuery dest body s
  | .level dest body => Sys2Proof.Machine.execLevel dest body s
  | .cuePut dest body => Sys2Proof.Machine.execCuePut dest body s
  | .movesAdd dest body => Sys2Proof.Machine.execMovesAdd dest body s
  | .cueDelete dest body => Sys2Proof.Machine.execCueDelete dest body s
  | .listClear dest body => Sys2Proof.Machine.execListClear dest body s
  | .cueQuery dest body => Sys2Proof.Machine.execCueQuery dest body s
  | .movesQuery dest body => Sys2Proof.Machine.execMovesQuery dest body s
  | .listQuery dest body => Sys2Proof.Machine.execListQuery dest body s
  | .showStart dest body => Sys2Proof.Machine.execShowStart dest body s
  | .showEnd dest body => Sys2Proof.Machine.execShowEnd dest body s
  | .go dest body => Sys2Proof.Machine.execGo dest body s
  | .back dest body => Sys2Proof.Machine.execBack dest body s
  | .hold dest body => Sys2Proof.Machine.execHold dest body s
  | .resume dest body => Sys2Proof.Machine.execResume dest body s
  | .stop dest body => Sys2Proof.Machine.execStop dest body s
  | .safe dest body => Sys2Proof.Machine.execSafe dest body s
  | .safeRelease dest body => Sys2Proof.Machine.execSafeRelease dest body s
  | .gotoCue dest body => Sys2Proof.Machine.execGotoCue dest body s
  | .noticesRead dest body => Sys2Proof.Machine.execNoticesRead dest body s
  | .showQuery dest body => Sys2Proof.Machine.execShowQuery dest body s
  | .clockSetup dest body => Sys2Proof.Machine.execClockSetup dest body s
  | .clockQuery dest body => Sys2Proof.Machine.execClockQuery dest body s
  | .surfaceSetup dest body => Sys2Proof.Machine.execSurfaceSetup dest body s
  | .bankPut dest body => Sys2Proof.Machine.execBankPut dest body s
  | .bankSelect dest body => Sys2Proof.Machine.execBankSelect dest body s
  | .surfaceQuery dest body => Sys2Proof.Machine.execSurfaceQuery dest body s
  | .contactSetup dest body => Sys2Proof.Machine.execContactSetup dest body s
  | .contactQuery dest body => Sys2Proof.Machine.execContactQuery dest body s
  | .outputSetup dest body => Sys2Proof.Machine.execOutputSetup dest body s
  | .routePut dest body => Sys2Proof.Machine.execRoutePut dest body s
  | .routeQuery dest body => Sys2Proof.Machine.execRouteQuery dest body s
  | .outputQuery dest body => Sys2Proof.Machine.execOutputQuery dest body s
  | .unknownType dest code body => Sys2Proof.Machine.execUnknownType dest code body s
  | .requestOverrun => Sys2Proof.Machine.execRequestOverrun s
  | .linkFramingFault => Sys2Proof.Machine.execLinkFramingFault s
  | .linkGapFault => Sys2Proof.Machine.execLinkGapFault s
  | .linkFormFault how => Sys2Proof.Machine.execLinkFormFault how s
  | .linkCheckFault => Sys2Proof.Machine.execLinkCheckFault s
  | .replySend => Sys2Proof.Machine.execReplySend s
  | .replyEnd => Sys2Proof.Machine.execReplyEnd s
  | .linkSilence => Sys2Proof.Machine.execLinkSilence s
  | .restartWindowLapse => Sys2Proof.Machine.execRestartWindowLapse s
  | .powerOn straps => Sys2Proof.Machine.execPowerOn straps s
  | .resetPin straps => Sys2Proof.Machine.execResetPin straps s
  | .resetPinRelease => Sys2Proof.Machine.execResetPinRelease s
  | .timeMark song position flags check => Sys2Proof.Machine.execTimeMark song position flags check s
  | .markFramingFault => Sys2Proof.Machine.execMarkFramingFault s
  | .markGapFault => Sys2Proof.Machine.execMarkGapFault s
  | .markTimeout => Sys2Proof.Machine.execMarkTimeout s
  | .freewheelLimit => Sys2Proof.Machine.execFreewheelLimit s
  | .clockAdvance => Sys2Proof.Machine.execClockAdvance s
  | .waitExpiry => Sys2Proof.Machine.execWaitExpiry s
  | .gotoComplete => Sys2Proof.Machine.execGotoComplete s
  | .moveStart channel => Sys2Proof.Machine.execMoveStart channel s
  | .moveComplete channel => Sys2Proof.Machine.execMoveComplete channel s
  | .passEnd readings => Sys2Proof.Machine.execPassEnd readings s
  | .qualifiedTouch slot => Sys2Proof.Machine.execQualifiedTouch slot s
  | .qualifiedRelease slot => Sys2Proof.Machine.execQualifiedRelease slot s
  | .keyPress slot => Sys2Proof.Machine.execKeyPress slot s
  | .keyRelease slot => Sys2Proof.Machine.execKeyRelease slot s
  | .contactGoPress => Sys2Proof.Machine.execContactGoPress s
  | .contactBackPress => Sys2Proof.Machine.execContactBackPress s
  | .contactHoldPress => Sys2Proof.Machine.execContactHoldPress s
  | .contactSafePress => Sys2Proof.Machine.execContactSafePress s
  | .contactRelease line => Sys2Proof.Machine.execContactRelease line s
  | .frameEvent => Sys2Proof.Machine.execFrameEvent s
  | .sendEnd line => Sys2Proof.Machine.execSendEnd line s
  | .trafficForOtherParts => Sys2Proof.Machine.execTrafficForOtherParts s

end Sys2Proof.Machine
end

