-- ==== Sys2Proof/Machine/Schedule.lean ====
section
/-!
DEFINITION. The part's own next event: what happens when no command waits (log entries 1 and 17).

Characters that have come over LRX and TMIN are judged first, one by one. Then each block's timers and
sends call for their own rows of the table when they have run out. With none due, one wall millisecond
passes. Where several are due at once the order below is the model's.
-/

namespace Sys2Proof.Machine

/-- The quiet that has followed the last character of a line: so far, or up to the start of the character
now under way, which is no gap's (R112, R177). -/
def quietSoFar (begun : Option Begun) (quiet : Nat) : Nat :=
  match begun with
  | none => quiet
  | some b => b.quiet

/-- More than four character times have passed in a collection between the end of its last character and
the start of the next, or up to now where none has started (R177). -/
def Link.gapped (k : Link) : Bool :=
  k.receiver.collecting && decide (gapQuiet k.divider ≤ quietSoFar k.begun k.rxQuiet)

/-- More than 160 µs have passed in a mark between the end of its last character and the start of the
next, or up to now where none has started (R112). -/
def Clock.gapped (k : Clock) : Bool :=
  match k.receiver with
  | .hunt => false
  | .collect _ => decide (markGap < quietSoFar k.begun k.quiet)

/-- LRX has been quiet for two character times, and the part has sent nothing for as long (R180). A
character under way on LRX restarts the wait if it began before both had passed, and so before a reply that
waits could be sent; one that began later does not (log entry 29). -/
def Link.turned (k : Link) : Bool :=
  match k.begun with
  | none => decide (2 * charTime k.divider ≤ k.rxQuiet ∧ 2 * charTime k.divider ≤ k.txQuiet)
  | some b =>
    decide (2 * charTime k.divider ≤ b.quiet ∧ 2 * charTime k.divider + b.since ≤ k.txQuiet)

/-- A timer that has reached its limit: the wait of an arm, the mark timer, the freewheel timer, the
silence timer, the restart window, a scan's 40 ms, a gap on LRX, a gap on TMIN (R77, R120, R121, R183,
R193, R82, R177, R112). -/
def State.dueTimer (s : State) : Option Instr :=
  if s.waitDue then some .waitExpiry
  else if s.clock.overdue then some .markTimeout
  else if s.clock.spent then some .freewheelLimit
  else if s.link.silent then some .linkSilence
  else if s.stepping && decide (1000 ≤ s.events.window) then some .restartWindowLapse
  else if s.seq.scan.any fun k => decide (40 ≤ k.age) then some .gotoComplete
  else if s.hears && s.link.gapped then some .linkGapFault
  else if s.clock.gapped then some .markGapFault
  else none

/-- A send that has ended (R165, R166). -/
def Shifting.ended (h : Option Shifting) : Bool := h.any fun x => decide (x.left ≤ 0)

/-- A line whose send has ended, the end of a scan pass, or a frame event (R129, R158, R166). -/
def State.dueOutput (s : State) : Option Instr :=
  match (List.finRange 4).find? fun n => Shifting.ended (s.output.lines.get n).shift with
  | some n => some (.sendEnd (.gain n))
  | none =>
    if Shifting.ended s.output.surfaceShift then some (.sendEnd .surface)
    else if s.surface.passLeft = 0 then some (.passEnd s.surface.wipers)
    else if s.output.frameLeft = 0 then some .frameEvent
    else none

/-- The end of a reply, or the start of a ready one after its turnaround (R180, R181). -/
def State.dueReply (s : State) : Option Instr :=
  match s.link.sending with
  | some x => if x.left ≤ 0 then some .replyEnd else none
  | none =>
    if s.link.ready.isSome && s.link.turned then some .replySend else none

/-- The part's own next event; none while RESETn is low (R192). -/
def State.ownEvent (s : State) : Option Instr :=
  if s.resetLow then none
  else some (((s.dueTimer.or s.dueOutput).or s.dueReply).getD .clockAdvance)

/-! ### Characters on LRX and TMIN (R111, R112, R176, R177) -/

/-- The state with the receiver of the link in `r` and `rest` still to judge, a character having just
ended on LRX. DESIGN CHOICE: the quiet of LRX after it counts from the end of the millisecond in which it is
judged (log entry 16). -/
def State.linkHeard (s : State) (r : Receiver) (rest : List LinkHeard) : State :=
  s.setLink { s.link with receiver := r, line := rest, rxQuiet := 0 }

/-- The reply being sent has ended, and LDE has been released, before the end of this character (R181). -/
def Link.releasedBefore (k : Link) (h : LinkHeard) : Bool :=
  k.sending.any fun (x : Sending) => decide (x.left + (h.ago : Int) < 0)

/-- The first character that LRX has brought is judged: the state it leaves, and the row of the table that
it brings about, if it does. Where a reply ended before the character did, that reply's end comes first, and
the character finds LDE released; one that ended while the part drove LDE is lost (R176, R181). A gap before
it is judged first, and the character after that (R177). A row that ends a collection finds the receiver as
the character found it.

DESIGN CHOICE: a character that began while LDE was driven and ends after its release, of which R181 does
not say whether it is received, goes by its end, the instant at which R176 judges it: it is judged whole
(log entry 19). -/
def State.judgeLink (s : State) (h : LinkHeard) (rest : List LinkHeard) : State × Option Instr :=
  if s.link.releasedBefore h then (s, some .replyEnd)
  else if !s.hears then (s.setLink { s.link with line := rest }, none)
  else if s.link.receiver.collecting && decide (gapQuiet s.link.divider ≤ h.quiet) then
    (s, some .linkGapFault)
  else
    match s.link.receiver.judge s.link.address h.char h.stop with
    | (r, none) => (s.linkHeard r rest, none)
    | (_, some i) => (s.setLink { s.link with line := rest }, some i)

/-- The first character that TMIN has brought is judged in the same way (R111, R112). DESIGN CHOICE: the
quiet of TMIN after it counts from the end of the millisecond in which it is judged, and not from its own
stop bit (log entry 16). -/
def State.judgeMark (s : State) (h : MarkHeard) (rest : List MarkHeard) : State × Option Instr :=
  match s.clock.receiver with
  | .hunt =>
    (s.setClock { s.clock with
      receiver := (MarkReceiver.hunt.judge h.data h.stop).1, line := rest, quiet := 0 }, none)
  | .collect taken =>
    if markGap < h.quiet then (s, some .markGapFault)
    else
      match (MarkReceiver.collect taken).judge h.data h.stop with
      | (r, i) => (s.setClock { s.clock with receiver := r, line := rest, quiet := 0 }, i)

/-- A character that waits to be judged: of LRX before TMIN (log entry 23). None is judged while RESETn
is low (R192). -/
def State.nextCharacter (s : State) : Option (State × Option Instr) :=
  if s.resetLow then none
  else
    match s.link.line, s.clock.line with
    | h :: rest, _ => some (s.judgeLink h rest)
    | [], h :: rest => some (s.judgeMark h rest)
    | [], [] => none

end Sys2Proof.Machine
end

