-- ==== Sys2Proof/Machine/Step.lean ====
section
/-!
DEFINITION. One step of the part: the command at the front of the queue is taken. On an empty queue the
part judges the next character that LRX or TMIN has brought, or takes its own next event (log entry 1),
and while RESETn is low it idles.
-/

namespace Sys2Proof.Machine

/-- One step. -/
def step (s : State) : Host.Outcome State Fault Refusal :=
  match s.pending with
  | c :: rest => exec c (s.setPending rest)
  | [] =>
    match s.nextCharacter with
    | some (t, some c) => exec c t
    | some (t, none) => .next t
    | none =>
      match s.ownEvent with
      | some c => exec c s
      | none => .next s

/-- The state with the command that a word spells put at the front of the queue; the state unchanged
where it spells none. -/
def State.withFetchWord (s : State) (nbits w : Nat) : State :=
  match decodeTableWord nbits w with
  | none => s
  | some c => s.setPending (c :: s.pending)

end Sys2Proof.Machine
end

