-- ==== Sys2Proof/Safety.lean ====
section
/-!
DEFINITION. The terms in which statements speak: when a request is served at once and what its reply
leaves, which body lengths a type allows, what a reset, a firing and a wall millisecond leave, and what
every reachable state of the part keeps true.
-/

namespace Sys2Proof

/-! ### Requests on the link -/

/-- The body lengths a known type allows (R197): one length, or 12 to 242 in steps of 10 for
MOVES_ADD. -/
def lengthAllowed (code : Byte) (n : Nat) : Bool :=
  if code = 0x21 then decide (12 ≤ n ∧ n ≤ 242 ∧ n % 10 = 2)
  else if [0x02, 0x11, 0x26, 0x59].contains code then n == 3
  else if [0x08, 0x14, 0x50].contains code then n == 7
  else if [0x09, 0x0A, 0x13, 0x3A, 0x4A, 0x4B, 0x5A].contains code then n == 1
  else if [0x12, 0x22, 0x24, 0x32].contains code then n == 2
  else if [0x25, 0x39].contains code then n == 4
  else if [0x48, 0x58].contains code then n == 5
  else if code = 0x10 then n == 11
  else if code = 0x20 then n == 12
  else if code = 0x40 then n == 10
  else if code = 0x49 then n == 17
  else n == 0

/-- The request reads something and changes nothing: the thirteen queries and NOP (R185, R194, R17,
R57 to R59, R88, R128, R147, R156, R164, R171). -/
def Instr.isQuery (i : Instr) : Bool :=
  match i.request with
  | none => false
  | some (_, code, _) =>
    [0x01, 0x03, 0x0B, 0x13, 0x24, 0x25, 0x26, 0x3B, 0x41, 0x4B, 0x51, 0x5A, 0x5B].contains code

namespace Machine

/-- The part hears the link: it is not held in reset and drives no reply (R176, R181, R192). -/
def State.Hears (s : State) : Prop := s.resetLow = false ∧ s.link.sending = none

/-- A request to the part's own address is served at once: it is heard, there is room in the buffer
(R179), and the part has an address of its own (R174). -/
def State.Serves (s : State) : Prop :=
  s.Hears ∧ s.link.buffer.length < 2 ∧ s.link.address ≠ 31

/-- The bytes of one field: the number `v` in `n` bytes, most significant first, a signed one in two's
complement (R196). -/
def fieldBytes (n : Nat) (v : Int) : List Byte :=
  (List.range n).map fun i => BitVec.ofInt 8 (v / 256 ^ (n - 1 - i))

/-- Fields in the order they are carried, each its width in bytes and its number (R196). -/
abbrev Layout := List (Nat × Int)

/-- The bytes of the fields of a layout, in its order (R196). -/
def fields (l : Layout) : List Byte := l.flatMap fun f => fieldBytes f.1 f.2

/-- The restart sequence is not under way, so that a request reaches its block (R193). -/
def State.Open (s : State) : Prop :=
  s.Serves ∧ s.events.sequence ≠ .step1 ∧ s.events.sequence ≠ .step2

/-- What every good request leaves of the link: the receiver UNADDRESSED, the link just heard, and the
silence watchdog restarted (R176, R180, R183). -/
def State.heard (s : State) : State :=
  { s with
    link := { s.link with
      receiver := .unaddressed, rxQuiet := 0, timer := 0
      watchdog := if s.link.limit = 0 then .off else .running } }

/-- The state with one more reply waiting (R179, R180). -/
def State.replying (s : State) (code : Byte) (r : Result) (payload : List Byte)
    (after : AfterReply := .nothing) : State :=
  { s with
    link := { s.link with buffer := s.link.buffer ++ [⟨some ⟨code, r.code, payload⟩, after⟩] } }

/-- A request to the part's own address has been heard and answered with a result alone, and nothing
else has changed. -/
def State.answeredBare (s : State) (code : Byte) (r : Result) : State := s.heard.replying code r []

/-- A request sent in this way is a broadcast here: it was sent to 31, or this part is strapped to 31
(R174). -/
def State.Broadcast (s : State) (d : Dest) : Prop := d = .broadcast ∨ s.link.address = 31

/-- The payload that a reply of this type carries with every result code, one given before its block
judges the request among them: GO and BACK alone have such a payload (R69, R80; log entry 9). -/
def State.carried (s : State) (code : Byte) : List Byte :=
  if code = 0x32 then bytesOf 2 0 ++ bytesOf 2 0 ++ cueField s.seq.next
  else if code = 0x33 then cueField s.seq.next
  else []

/-- The flag of an event after some raises: it is set. -/
def State.Raised (s : State) (e : Event) : Prop := s.flagged e = true

/-- What so many steps leave, while each answers a next state. -/
def State.stepped : Nat → State → Option State
  | 0, s => some s
  | n + 1, s =>
    match step s with
    | .next t => t.stepped n
    | .fault _ => none
    | .refused _ => none

/-- Characters that come over LRX without a gap and with good stop bits (R173, R177). -/
def onLine (cs : List LinkChar) : List LinkHeard :=
  cs.map fun c => { quiet := 0, char := c, stop := true, ago := 0 }

/-! ### What replies carry, field by field -/

/-- A channel's configuration (R2, R13): group, base level, trim, mute ramp time, release mode, return
time. -/
def ChannelConfig.fields (k : ChannelConfig) : Layout :=
  [(1, k.group.elim 0 fun g => g.val + 1), (2, k.base), (2, k.trim), (2, k.muteRamp),
    (1, k.release.code.toNat), (2, k.returnTime)]

/-- The clock settings (R126). -/
def ClockConfig.fields (k : ClockConfig) : Layout :=
  [(1, k.markDelay), (1, k.lockWindow), (2, k.relocate), (2, k.markTimeout), (2, k.freewheel),
    (1, k.phaseDepth), (1, k.rateDepth)]

/-- The surface configuration (R146). -/
def SurfaceConfig.fields (k : SurfaceConfig) : Layout :=
  [(1, k.mode.code.toNat), (1, k.period), (1, k.hysteresis), (1, k.tolerance), (1, k.qualify)]

/-- The contact configuration in the layout of CONTACT_SETUP: Qc, the polarities of CGO, CBACK, CHOLD and
CSAFE, GO guard (R155). -/
def ContactConfig.fields (k : ContactConfig) : Layout :=
  [(1, k.qualify), (1, (k.polarity.get 0).code.toNat), (1, (k.polarity.get 1).code.toNat),
    (1, (k.polarity.get 2).code.toNat), (1, (k.polarity.get 3).code.toNat), (2, k.guard)]

/-- A configuration of the output unit: frame period and the dividers of lines 1 to 4 (R170). -/
def OutputConfig.fields (k : OutputConfig) : Layout :=
  [(1, k.period), (1, k.dividers.get 0), (1, k.dividers.get 1), (1, k.dividers.get 2),
    (1, k.dividers.get 3)]

/-- The event settings in the layout of EVENTS_SETUP: 32 enable bits, bit 21 notice reporting, and the acts
of CLOCK_LOST, LINK_SILENCE and LINE_LATE (R190, R197). -/
def Events.fields (v : Events) : Layout :=
  [(4, v.enables.toNat + 2 ^ 21 * v.noticeEnable.toNat), (1, v.actLost.code.toNat),
    (1, v.actSilence.code.toNat), (1, v.actLate.code.toNat)]

/-- A cue header (R197): number, trigger, timebase, wait, song, position, flags. -/
def Cue.fields (q : Cue) : Layout :=
  [(2, q.number), (1, q.trigger.code.toNat), (1, q.base.code.toNat), (3, q.wait), (1, q.song),
    (3, q.position), (1, 0)]

/-- A stored move of a cue with this timebase (R58, R197): channel; action, curve and timebase in one byte;
target, delay, duration. -/
def StoredMove.fields (base : Timebase) (m : StoredMove) : Layout :=
  [(1, m.channel.val + 1),
    (1, m.action.code.toNat + 4 * m.curve.code.toNat + 32 * base.code.toNat), (2, m.target),
    (3, m.delay), (3, m.duration)]

/-- A notice (R86, R87): kind, cue number, firing id, cause, which is 0 but for FIRED. -/
def Notice.fields (n : Notice) : Layout :=
  [(1, n.kind.code.toNat), (2, n.cue), (2, n.firing), (1, n.cause.elim 0 fun c => c.code.toNat)]

/-- A move owner (R196, R198): its code, and the firing id, which is 0 but for a firing. -/
def ownerFields : Option Owner → Layout
  | none => [(1, 0), (2, 0)]
  | some (.firing id _) => [(1, 1), (2, id)]
  | some .remote => [(1, 2), (2, 0)]
  | some .load => [(1, 3), (2, 0)]

/-- A channel, 0 for none (R1). -/
def channelField (c : Option Chan) : Nat × Int := (1, c.elim 0 fun k => k.val + 1)

/-- The H field of a channel (R17): H, or H0 of a glide, or −800. -/
def Hand.level : Hand → Int
  | .free => -800
  | .held h => h
  | .gliding start _ _ => start

/-- The active move summary (R18): owner, target, remaining whole milliseconds, frozen flag; without a
move, no owner, −800, 0 and 0. -/
def State.moveFields (s : State) : Option ActiveMove → Layout
  | none => ownerFields none ++ [(2, -800), (3, 0), (1, 0)]
  | some m => ownerFields (some m.owner) ++
      [(2, m.target), (3, ((m.duration * 65536 - m.elapsed) / 65536 : Nat)),
        (1, (!s.moveAdvances m).toNat)]

/-- What CHANNEL_QUERY carries (R17): the configuration, A, V, E, hand state, H, mute sources, m, LIMITED,
the active move summary, and the pending count. -/
def State.channelFields (s : State) (c : Chan) : Layout :=
  (s.chan c).cfg.fields ++
    ([(2, (s.chan c).level), (2, (s.chan c).used), (2, (s.chan c).effective),
      (1, (s.chan c).hand.code.toNat), (2, (s.chan c).hand.level), (1, s.muteSources c),
      (2, (s.chan c).mute), (1, (s.chan c).limited.toNat)] : Layout) ++
    s.moveFields (s.chan c).active ++
    ([(1, (s.chan c).waiting.length)] : Layout)

/-- What RESTART_QUERY carries (R194): cause, live flag, standing, next, restart count. -/
def RestartRecord.fields (r : RestartRecord) : Layout :=
  [(1, r.cause.code.toNat), (1, r.live.toNat), (2, r.standing.getD 0), (2, r.next.getD 0), (1, r.count)]

/-- A flight table entry (R88): firing id, cue number, cause, outstanding count. -/
def Firing.fields (f : Firing) : Layout :=
  [(2, f.id), (2, f.cue), (1, f.cause.code.toNat), (1, f.outstanding)]

/-- The arm record (R88): form, firing id, remaining whole milliseconds, song, position; that a field its
form lacks reads 0 is log entry 7 (DESIGN CHOICE). -/
def Arm.fields : Arm → Layout
  | .empty => [(1, 0), (2, 0), (3, 0), (1, 0), (3, 0)]
  | .await id => [(1, 1), (2, id), (3, 0), (1, 0), (3, 0)]
  | .waiting left _ => [(1, 2), (2, 0), (3, (left / 65536 : Nat)), (1, 0), (3, 0)]
  | .clock song position => [(1, 3), (2, 0), (3, 0), (1, song), (3, position)]

/-- What SHOW_QUERY carries (R88): show state, return state, next, standing, the flight table with its
count, the arm record, the scan flag and its cue, gate time, notice count, overflow count, next firing
id. -/
def Sequencer.fields (q : Sequencer) : Layout :=
  ([(1, q.state.code.toNat), (1, q.ret.code.toNat), (2, q.next.getD 0), (2, q.standing.getD 0),
    (1, q.flight.length)] : Layout) ++ q.flight.flatMap Firing.fields ++ q.arm.fields ++
    ([(1, q.scan.isSome.toNat), (2, q.scan.elim 0 fun k => k.cue), (2, q.gateTime),
      (1, q.notices.length), (1, q.overflow), (2, q.nextId)] : Layout)

/-- The clock point, song and position, with its none flag (R128; log entry 7: DESIGN CHOICE). -/
def pointFields : Option (Nat × Nat) → Layout
  | none => [(1, 0), (3, 0), (1, 1)]
  | some (song, x) => [(1, song), (3, x), (1, 0)]

/-- What CLOCK_QUERY carries (R128): state, whole part of P, ρ, song, good count, error count, the clock
point, and the settings. -/
def Clock.fields (k : Clock) : Layout :=
  ([(1, k.state.code.toNat), (4, k.whole), (3, k.rate), (1, k.song), (1, k.good),
    (1, k.errors)] : Layout) ++
    pointFields k.point ++ k.cfg.fields

/-- A pending mapping, with its none flag (R147; log entry 7: DESIGN CHOICE). -/
def pendingFields : Option (Option Chan) → Layout
  | none => [(1, 0), (1, 1)]
  | some m => [channelField m, (1, 0)]

/-- One of the 16 slots in SURFACE_QUERY (R147): accepted position, fader state, effective mapping, pending
mapping, qualified touch and key, disagreement flag. -/
def State.slotFields (s : State) (f : Slot) : Layout :=
  ([(2, (s.fader f).position), (1, (s.fader f).state.code.toNat),
    channelField (s.fader f).mapping] : Layout) ++
    pendingFields (s.fader f).pending ++
    ([(1, (s.surface.touch.get f).qualified.toNat), (1, (s.surface.keys.get f).qualified.toNat),
      (1, (s.fader f).disagree.toNat)] : Layout)

/-- What SURFACE_QUERY carries before a bank's slots (R147): configuration, active bank, slots 1 to 16. -/
def State.surfaceFields (s : State) : Layout :=
  s.surface.cfg.fields ++ ([(1, s.surface.activeBank.val + 1)] : Layout) ++
    (List.finRange 16).flatMap s.slotFields

/-- The 16 slots of a bank (R134, R147). -/
def bankFields (b : Bank) : Layout := (List.finRange 16).map fun f => channelField (b.get f)

/-- What CONTACT_QUERY carries (R156): qualified state and polarity of CGO, CBACK, CHOLD and CSAFE, Qc, GO
guard, ignored count. -/
def Contacts.fields (k : Contacts) : Layout :=
  (List.finRange 4).flatMap (fun i => ([(1, (k.lines.get i).qualified.toNat),
      (1, (k.cfg.polarity.get i).code.toNat)] : Layout)) ++
    ([(1, k.cfg.qualify), (2, k.cfg.guard), (1, k.ignored)] : Layout)

/-- A strip's routing entry: line and slot, 0 and 0 where unrouted (R164; log entry 7). -/
def routeFields : Option (GainNo × Fin 64) → Layout
  | none => [(1, 0), (1, 0)]
  | some (n, k) => [(1, n.val + 1), (1, k.val + 1)]

/-- One gain line in OUTPUT_QUERY (R171): sending, with the frame count in the shift; stage FULL, with the
frame count in the stage; late counter. That a frame not there has count 0 is log entry 7. -/
def GainLine.fields (l : GainLine) : Layout :=
  [(1, l.shift.isSome.toNat), (2, l.shift.elim 0 fun h => h.frame.count), (1, l.stage.isSome.toNat),
    (2, l.stage.elim 0 fun f => f.count), (2, l.late)]

/-- What OUTPUT_QUERY carries (R171): stored configuration, configuration in force, frame count, the four
gain lines, and whether the surface line is sending. -/
def Output.fields (o : Output) : Layout :=
  o.stored.fields ++ o.inForce.fields ++ ([(2, o.frameCount)] : Layout) ++
    (List.finRange 4).flatMap (fun n => (o.lines.get n).fields) ++
    ([(1, o.surfaceShift.isSome.toNat)] : Layout)

/-- What LINK_QUERY carries of a link that a good request has just reached (R183, R185): the framing, gap,
form, check and overrun counters, divider, silence limit, watchdog state, timer, and the address, whose
width is log entry 7. -/
def Link.fields (k : Link) : Layout :=
  [(1, k.framing), (1, k.gap), (1, k.form), (1, k.check), (1, k.overrun), (1, k.divider), (2, k.limit),
    (1, if k.limit = 0 then 0 else 1), (2, 0), (1, k.address.toNat)]

/-! ### Roundings -/

/-- `n` is `x / d` rounded to nearest, halves away from zero (R21, R24). -/
def RoundedAway (x : Int) (d : Nat) (n : Int) : Prop :=
  2 * |x - n * d| ≤ d ∧ (2 * |x - n * d| = d → |x| < |n * d|)

/-- `n` is `x / d` rounded half up (R21, R36, R37). -/
def RoundedUp (x d n : Nat) : Prop := 2 * n * d ≤ 2 * x + d ∧ 2 * x + d < 2 * (n + 1) * d

/-! ### Edits of the cue list -/

/-- The body of a CUE_PUT (R50, R197). -/
def cuePutBody (n : Nat) (g : Trigger) (b : Timebase) (wait song position : Nat) (flags : Byte) :
    List Byte :=
  bytesOf 2 n ++ [g.code, b.code] ++ bytesOf 3 wait ++ [byte song] ++ bytesOf 3 position ++ [flags]

/-- The fields of a CUE_PUT fit their bytes and pass its checks: a cue number in 1..9999, and a song in
0..99 where the trigger uses it (R50, R52). -/
def CuePutGood (n : Nat) (g : Trigger) (wait song position : Nat) : Prop :=
  1 ≤ n ∧ n ≤ 9999 ∧ wait < 16777216 ∧ song < 256 ∧ (g = .clock → song ≤ 99) ∧ position < 16777216

/-- A move's fields fit their bytes in a MOVES_ADD (R53). -/
def StoredMove.Fits (m : StoredMove) : Prop :=
  -32768 ≤ m.target ∧ m.target < 32768 ∧ m.delay < 16777216 ∧ m.duration < 16777216

/-- A move as a MOVES_ADD stores it: its fields brought into their ranges, and the fields that a MUTE or
UNMUTE move does not use at −800, 0 and LINEAR (R41, R53). -/
def StoredMove.kept (m : StoredMove) : StoredMove :=
  if m.action = .level then
    { m with target := max (-800) (min 100 m.target), delay := min m.delay 600000
             duration := min m.duration 600000 }
  else { m with target := -800, delay := min m.delay 600000, duration := 0, curve := .linear }

/-- A field of a move that its action uses lies outside its range (R53). -/
def StoredMove.beyond (m : StoredMove) : Bool :=
  decide (600000 < m.delay) || (m.action == .level &&
    (decide (m.target < -800) || decide (100 < m.target) || decide (600000 < m.duration)))

/-- An edit of cue `n` is refused ARMED: the cue is next and the arm is not empty (R46), or a crossing
has fired it in this millisecond (R49; log entry 26: DESIGN CHOICE). -/
def State.Armed (s : State) (n : Nat) : Prop :=
  s.seq.next = some n ∧ s.seq.arm ≠ .empty ∨ s.seq.crossed = some n

/-- The moves held in cue `n`. -/
def State.movesHeld (s : State) (n : Nat) : Nat := ((findCue s.cues n).map fun q => q.moves.length).getD 0

/-! ### What a reset leaves -/

/-- Every block's running state right after a reset, over the retained memory `t` has (R4, R10, R89, R113,
R148, R157, R172, R186, R187, R193). -/
structure State.Afresh (t : State) : Prop where
  chan : ∀ c, (t.chan c).level = (t.chan c).cfg.base ∧ (t.chan c).hand = .free ∧
    (t.chan c).cue = false ∧ (t.chan c).operator = false ∧ (t.chan c).remote = false ∧
    (t.chan c).active = none ∧ (t.chan c).waiting = [] ∧ (t.chan c).limited = false ∧
    (t.chan c).effective = -800 ∧
    (t.chan c).mute = (if t.seq.state = .safe ∧ isStrip c then 0 else 1024)
  seq : t.seq.flight = [] ∧ t.seq.arm = .empty ∧ t.seq.scan = none ∧ t.seq.gateTime = 65535 ∧
    t.seq.nextId = 1 ∧ t.seq.notices = [] ∧ t.seq.overflow = 0
  clock : t.clock.state = .none ∧ t.clock.whole = 0 ∧ t.clock.frac = 0 ∧ t.clock.rate = 65536 ∧
    t.clock.song = 0 ∧ t.clock.good = 0 ∧ t.clock.markTimer = 0 ∧ t.clock.freewheelTimer = 0 ∧
    t.clock.errors = 0 ∧ t.clock.point = none ∧ t.clock.receiver = .hunt
  fader : ∀ f, t.fader f =
    { position := 0, state := .free, mapping := if t.slotUsed f then t.bankSlot f else none
      pending := none, disagree := false }
  lines : ∀ f, (t.surface.touch.get f).qualified = false ∧ (t.surface.touch.get f).count = 0 ∧
    (t.surface.keys.get f).qualified = false ∧ (t.surface.keys.get f).count = 0
  pass : t.surface.passLeft = t.surface.cfg.period
  contacts : t.contacts.ignored = 0 ∧
    ∀ l, (t.contact l).qualified = false ∧ (t.contact l).count = 0
  output : t.output.inForce = t.output.stored ∧ t.output.frameLeft = t.output.stored.period ∧
    t.output.frameCount = 0 ∧ t.output.surfaceShift = none ∧ t.output.surfaceStage = none ∧
    ∀ n, t.output.lines.get n = { shift := none, stage := none, late := 0 }
  pins : t.surfacePins = (false, false) ∧ ∀ n, t.gainPins n = (false, false)
  link : t.link.address = t.link.straps ∧ t.link.divider = 9 ∧ t.link.receiver = .unaddressed ∧
    t.link.buffer = [] ∧ t.link.sending = none ∧ t.link.framing = 0 ∧ t.link.gap = 0 ∧
    t.link.form = 0 ∧ t.link.check = 0 ∧ t.link.overrun = 0 ∧ t.link.timer = 0 ∧
    t.link.watchdog = (if t.link.limit = 0 then .off else .running)
  events : t.events.sequence = .idle ∧ ∀ e, t.flagged e = decide (e = .restarted)

/-- What the reset pin or a link restart leaves the show: SAFE at the playhead it found when a show was
live, otherwise EDIT at the first cue (R89); and the restart record it writes (R194). -/
def State.RestartedBy (s t : State) (cause : ResetCause) : Prop :=
  t.restart = { cause, live := s.live, standing := s.seq.standing, next := s.seq.next,
                count := countUp 255 s.restart.count } ∧
    t.seq.state = (if s.live then .safe else .edit) ∧
      t.seq.ret = (if s.live then .hold else .edit) ∧
        t.seq.next = (if s.live then s.seq.next else firstCue s.cues) ∧
          t.seq.standing = (if s.live then s.seq.standing else none)

/-! ### What a firing leaves -/

/-- The next cue is `cue`, and no pending move bears the firing id that comes next (R67, R71). -/
def State.NextIs (s : State) (cue : Cue) : Prop :=
  s.seq.next = some cue.number ∧ findCue s.cues cue.number = some cue ∧
    ∀ c, ∀ p ∈ (s.chan c).waiting, p.firing ≠ s.seq.nextId

/-- The cue after `cue`, if there is one. -/
def State.successor (s : State) (cue : Cue) : Option Cue :=
  (cueAfter s.cues cue.number).bind (findCue s.cues)

/-- The next cue is `cue`, and the cue after it, if there is one, is MANUAL, CLOCK, or WITH after a wait:
whatever moves start at the firing, its arm awaits no end and no chain follows (R75, R77). -/
def State.NextAlone (s : State) (cue : Cue) : Prop :=
  s.NextIs cue ∧ ∀ d, s.successor cue = some d →
    d.trigger ≠ .follow ∧ (d.trigger = .withCue → 0 < d.wait)

/-- No move of the cue starts at the instant of its firing, and no wait of 0 follows it: what a firing
leaves can then be told without a chain (R75, R77, R94). -/
def State.NextSlow (s : State) (cue : Cue) : Prop :=
  s.NextIs cue ∧ (∀ m ∈ cue.moves, 0 < m.delay) ∧
    ∀ d, s.successor cue = some d →
      d.trigger = .withCue ∨ d.trigger = .follow ∧ cue.moves = [] → 0 < d.wait

/-- The arm that a firing of `cue` sets for its successor (R75), a firing without moves being complete at
once (R74). -/
def State.armAfter (s : State) (cue : Cue) : Arm :=
  match s.successor cue with
  | none => .empty
  | some d =>
    match d.trigger with
    | .manual => .empty
    | .follow => if cue.moves = [] then .waiting (d.wait * 65536) d.base else .await s.seq.nextId
    | .withCue => .waiting (d.wait * 65536) d.base
    | .clock => .clock d.song d.position

/-- The firings that a new firing finds in flight, the oldest of eight being retired (R73). -/
def State.flightKept (s : State) : List Firing :=
  if s.seq.flight.length < 8 then s.seq.flight else s.seq.flight.tail

/-- A channel as a new firing finds it: of a retired firing, its pending moves are gone and its active
move has ended, A standing where it was (R73, R109). -/
def State.channelKept (s : State) (c : Chan) : Channel :=
  match s.seq.flight with
  | [] => s.chan c
  | f :: rest =>
    if rest.length < 7 then s.chan c
    else
      { s.chan c with
        waiting := (s.chan c).waiting.filter fun p => decide (p.firing ≠ f.id)
        active := (s.chan c).active.filter fun m =>
          match m.owner with
          | .firing k _ => decide (k ≠ f.id)
          | .remote | .load => true }

/-- A channel when a move starts on it: a LEVEL move takes it from A, or with duration 0 sets A; a MUTE or
UNMUTE move sets or clears CUE (R95, R96). -/
def Channel.starting (r : Channel) (p : PendingMove) : Channel :=
  match p.action with
  | .mute => { r with cue := true }
  | .unmute => { r with cue := false }
  | .level =>
    if p.duration = 0 then { r with level := p.target, active := none }
    else
      { r with
        level := if p.curve = .snapStart then p.target else r.level
        active := some
          { target := p.target, duration := p.duration, curve := p.curve, base := p.base
            owner := .firing p.firing p.cue, start := r.level, elapsed := 0 } }

/-- A channel whose pending list is `l`: its moves whose delay is 0 start in list order (R94, R97). -/
def Channel.started (r : Channel) (l : List PendingMove) : Channel :=
  (l.takeWhile fun p => p.delay == 0).foldl Channel.starting
    { r with waiting := l.dropWhile fun p => p.delay == 0 }

/-- What the firing of `cue` leaves of the playhead and the event flags (R67, R71, R72), and of the
channels: one that the cue does not name is left alone, and on one that it names its moves take the
pending list, those without a delay starting at once (R92 to R97, R109). -/
def State.Fired (s t : State) (cue : Cue) : Prop :=
  t.seq.standing = some cue.number ∧ t.seq.next = cueAfter s.cues cue.number ∧
    t.seq.nextId = (if s.seq.nextId < 65535 then s.seq.nextId + 1 else 1) ∧ t.Raised .cueFired ∧
      (8 ≤ s.seq.flight.length → t.Raised .flightRetired) ∧
        ∀ c, t.chan c =
          if ∃ m ∈ cue.moves, m.channel = c then
            (s.channelKept c).started (pendingFor cue s.seq.nextId c)
          else s.channelKept c

/-- No move ends as the firing of `cue` is placed and its moves of delay 0 start, its notices find room, and
its id is in no entry: nothing is pending on its channels, and a move of delay 0 is a fade, the only one of
its channel, where no move is active (R71, R86, R92 to R96, R100). -/
def State.EndsNone (s : State) (cue : Cue) : Prop :=
  (∀ m ∈ cue.moves, (s.chan m.channel).waiting = [] ∧
    (m.delay = 0 → m.action = .level ∧ 0 < m.duration ∧ (s.chan m.channel).active = none ∧
      (cue.moves.filter fun k => k.channel == m.channel && k.delay == 0).length = 1)) ∧
    (∀ f ∈ s.seq.flight, f.id ≠ s.seq.nextId) ∧ s.seq.notices.length + 3 ≤ 16

/-- What the firing of `cue` leaves of the flight table and the notices where no move ends at it: its entry
with all its moves outstanding, behind the firings kept, the oldest of eight told as retired; or, without
moves, no entry and a COMPLETE notice (R71 to R74, R86). -/
def State.FiredTable (s t : State) (cue : Cue) (cause : Cause) : Prop :=
  s.EndsNone cue →
    t.seq.flight = s.flightKept ++ (if cue.moves = [] then []
      else [{ id := s.seq.nextId, cue := cue.number, cause, outstanding := cue.moves.length }]) ∧
    t.seq.notices = s.seq.notices ++
      ((s.seq.flight.take (s.seq.flight.length - 7)).take 1).map (fun f =>
        { kind := .retired, cue := f.cue, firing := f.id, cause := none }) ++
      { kind := .fired, cue := cue.number, firing := s.seq.nextId, cause := some cause } ::
        (if cue.moves = [] then
          [{ kind := .complete, cue := cue.number, firing := s.seq.nextId, cause := none }]
        else [])

/-- What the firing of `cue` leaves of the Event Unit where no move ends at it: CUE_FIRED is raised, with
FLIGHT_RETIRED where eight were in flight and CUE_COMPLETE where the cue has no moves, and nothing else
changes (R72 to R74, R187). -/
def State.FiredEvents (s t : State) (cue : Cue) : Prop :=
  s.EndsNone cue → t.events = { s.events with flags := t.events.flags } ∧
    ∀ e : Event, t.Raised e ↔ s.Raised e ∨ e = .cueFired ∨
      e = .flightRetired ∧ 8 ≤ s.seq.flight.length ∨ e = .cueComplete ∧ cue.moves = []

/-- What the firing of `cue` leaves when no chain follows and its arm awaits no end: the flight table and
the notices, the arm set for its successor, and the notice first in an empty queue (R71 to R75, R86). -/
def State.FiredAlone (s t : State) (cue : Cue) (cause : Cause) : Prop :=
  s.Fired t cue ∧ t.seq.arm = s.armAfter cue ∧ t.clock.point = (s.armAfter cue).point ∧
    s.FiredTable t cue cause ∧
    (s.seq.flight = [] ∧ s.seq.notices = [] → t.seq.notices.head? =
      some { kind := .fired, cue := cue.number, firing := s.seq.nextId, cause := some cause })

/-- What the firing of `cue` leaves when none of its moves starts at its instant: the flight table, the
notices, and the arm set for its successor (R71 to R75, R86). -/
def State.FiredSlow (s t : State) (cue : Cue) (cause : Cause) : Prop :=
  s.Fired t cue ∧ t.seq.arm = s.armAfter cue ∧ t.clock.point = (s.armAfter cue).point ∧
    s.FiredTable t cue cause

/-- A firing of `cue` can be told: its arm awaits no end, or nothing of it starts at its instant, and no
chain follows. -/
def State.NextTold (s : State) (cue : Cue) : Prop := s.NextAlone cue ∨ s.NextSlow cue

/-- What a firing that can be told leaves. -/
def State.FiringTold (s t : State) (cue : Cue) (cause : Cause) : Prop :=
  (s.NextAlone cue → s.FiredAlone t cue cause) ∧ (s.NextSlow cue → s.FiredSlow t cue cause)

/-- One link of a chain: the firing of `cue` leaves a wait of 0 for the cue `d` after it, of trigger WITH,
or of trigger FOLLOW where `cue` has no moves; `d` fires at the same instant, and no chain follows it. No
pending move bears the ids of the two firings (R71, R75, R77). -/
def State.NextChained (s : State) (cue d : Cue) : Prop :=
  s.NextIs cue ∧ s.successor cue = some d ∧ d.wait = 0 ∧
    (d.trigger = .withCue ∨ d.trigger = .follow ∧ cue.moves = []) ∧
    (∀ c, ∀ p ∈ (s.chan c).waiting, p.firing ≠ idAfter s.seq.nextId) ∧
    ∀ e, s.successor d = some e → e.trigger ≠ .follow ∧ (e.trigger = .withCue → 0 < e.wait)

/-- What one link of a chain leaves: `cue` has fired and left the wait of 0, and from there `d`, which was
next, has fired with cause FOLLOW or WITH. Each firing leaves its flight table, its notices and the event
flags as told where no move ends at it, so that the second retires the oldest of the eight that the first has
left; and where the notices find room, both firings are told, in this order (R71 to R75, R77, R86). -/
def State.FiredChained (s t : State) (cue d : Cue) (cause : Cause) : Prop :=
  let waited : Cause := if d.trigger = .follow then .follow else .withCue
  (∃ u : State, s.Fired u cue ∧ s.FiredTable u cue cause ∧ s.FiredEvents u cue ∧
    u.seq.arm = .waiting 0 d.base ∧ u.cues = s.cues ∧ u.NextAlone d ∧ u.FiredAlone t d waited ∧
    u.FiredEvents t d) ∧
  (s.seq.notices.length + s.seq.flight.length ≤ 11 → List.Sublist
    [{ kind := .fired, cue := cue.number, firing := s.seq.nextId, cause := some cause },
      { kind := .fired, cue := d.number, firing := idAfter s.seq.nextId, cause := some waited }]
    t.seq.notices)

/-! ### The hand and the banks -/

/-- What a takeover of channel `c` by fader `f` at accepted position `p` leaves: over a channel that is
HELD the fader is BLOCKED and TOUCH_BLOCKED raised, and otherwise it is HOLDING and H is the law's level at
`p` (R136, R138). -/
def State.Taken (s t : State) (f : Slot) (c : Chan) (p : Nat) : Prop :=
  (∀ h, (s.chan c).hand = .held h →
    (t.fader f).state = .blocked ∧ t.Raised .touchBlocked ∧ (t.chan c).hand = .held h) ∧
    ((∀ h, (s.chan c).hand ≠ .held h) →
      (t.fader f).state = .holding ∧ (t.chan c).hand = .held (faderLaw p))

/-- What applying bank `b` to the faders leaves (R135, R136): a slot out of use as it is; a held or
blocked fader its mapping, with the bank's slot pending where it differs; a FREE one the bank's slot at
once, taken over where that changes to a channel under an active touch line, and otherwise still FREE. Of
the channels only hands change, and only under such a takeover. -/
def State.BankApplied (s t : State) (b : Bank) : Prop :=
  (∀ c, t.chan c = { s.chan c with hand := (t.chan c).hand }) ∧
    (∀ c, (∀ f, s.slotUsed f = true → (s.surface.touch.get f).qualified = true → b.get f ≠ some c) →
      t.chan c = s.chan c) ∧
    ∀ f, (t.fader f).position = (s.fader f).position ∧ (t.fader f).disagree = (s.fader f).disagree ∧
      (s.slotUsed f = false → t.fader f = s.fader f) ∧
      (s.slotUsed f = true → (s.fader f).state ≠ .free →
        (t.fader f).state = (s.fader f).state ∧ (t.fader f).mapping = (s.fader f).mapping ∧
          (t.fader f).pending =
            if b.get f = (s.fader f).mapping then none else some (b.get f)) ∧
      (s.slotUsed f = true → (s.fader f).state = .free →
        (t.fader f).mapping = b.get f ∧ (t.fader f).pending = none ∧
          (b.get f = none ∨ b.get f = (s.fader f).mapping ∨
              (s.surface.touch.get f).qualified = false →
            (t.fader f).state = .free) ∧
          ∀ c, b.get f = some c → b.get f ≠ (s.fader f).mapping →
            (s.surface.touch.get f).qualified = true → s.Taken t f c (s.fader f).position)

/-- A channel handed back at hand level `h`, by its release mode: RETURN glides, or is FREE at once with
return time 0; KEEP ends the active move and sets A to H (R101, R139, R140). -/
def Channel.handed (r : Channel) (h : Int) : Channel :=
  if r.cfg.release = .keep then { r with level := h, hand := .free, active := none }
  else { r with hand := if r.cfg.returnTime = 0 then .free else .gliding h 0 r.cfg.returnTime }

/-! ### What a wall millisecond leaves of a channel -/

/-- The active move of a channel takes a wall millisecond: where it advances, its elapsed time rises, A is
its level at that time, and at its duration it ends at its target (R98, R99, R102 to R104). -/
def State.activeAfter (s : State) (r : Channel) : Channel :=
  match r.active with
  | none => r
  | some m =>
    if s.moveAdvances m then
      if m.elapsed + s.advance m.counts < m.duration * 65536 then
        { r with
          level := moveLevel m.start m.target m.duration m.curve
            ((m.elapsed + s.advance m.counts) / 65536)
          active := some { m with elapsed := m.elapsed + s.advance m.counts } }
      else { r with level := m.target, active := none }
    else r

/-- The pending list of a channel takes a wall millisecond: where it advances, its delays fall, and the
moves whose delay reaches 0 start (R93, R94, R97, R102 to R104). -/
def State.pendingAfter (s : State) (r : Channel) : Channel :=
  match r.waiting with
  | [] => r
  | p :: rest =>
    if s.showAdvances p.base then
      r.started ((p :: rest).map fun q =>
        { q with delay := q.delay - s.advance p.base, counted := true })
    else r

/-- A glide takes a wall millisecond: the time since the release rises to the return time (R26). -/
def Hand.after : Hand → Hand
  | .free => .free
  | .held h => .held h
  | .gliding start since time => .gliding start (if since < time then since + 1 else since) time

/-- Slot `f`'s touch line changes its qualified state at the next sample (R132). -/
def State.touchTurns (s : State) (f : Slot) : Bool :=
  (s.shown.touch.get f != (s.surface.touch.get f).qualified) &&
    decide (s.surface.cfg.qualify ≤ (s.surface.touch.get f).count + 1)

/-- Slot `f`'s mute key changes its qualified state at the next sample (R132). -/
def State.keyTurns (s : State) (f : Slot) : Bool :=
  (s.shown.keys.get f != (s.surface.keys.get f).qualified) &&
    decide (s.surface.cfg.qualify ≤ (s.surface.keys.get f).count + 1)

/-- A contact line changes its qualified state at the next sample (R149). -/
def State.contactTurns (s : State) (l : ContactLine) : Bool :=
  ((s.polarity l).active (s.shown.contacts.get l.index) != (s.contact l).qualified) &&
    decide (s.contacts.cfg.qualify ≤ (s.contact l).count + 1)

/-- No line changes its qualified state at the next sample. -/
def State.LinesRest (s : State) : Prop :=
  (∀ f, s.touchTurns f = false) ∧ (∀ f, s.keyTurns f = false) ∧ ∀ l, s.contactTurns l = false

/-- Contact line `l` turns active at the next sample, and no other line changes its qualified state there
(R149). -/
def State.PressedAlone (s : State) (l : ContactLine) : Prop :=
  s.contactTurns l = true ∧ (s.contact l).qualified = false ∧ (∀ f, s.touchTurns f = false) ∧
    (∀ f, s.keyTurns f = false) ∧ ∀ k, k ≠ l → s.contactTurns k = false

/-- What a millisecond leaves in which a GO or BACK press is refused: the press counted, GO_IGNORED
raised, the show state and the playhead as they were (R150, R153). -/
def State.PressIgnored (s t : State) : Prop :=
  t.contacts.ignored = countUp 255 s.contacts.ignored ∧ t.Raised .goIgnored ∧
    t.seq.state = s.seq.state ∧ t.seq.next = s.seq.next ∧ t.seq.standing = s.seq.standing ∧
      t.seq.nextId = s.seq.nextId

/-- What a millisecond leaves in which CGO alone turns active (R68, R150, R151, R153): in a scan, in EDIT
and SAFE and behind a closed gate the press is ignored; in HOLD the show goes on; in SHOW the next cue
fires with cause GO_CONTACT, told where `NextTold` tells it, or the list has ended. A GO taken sets the
gate time to 0, and otherwise it has counted the millisecond. -/
structure State.GoSampled (s t : State) : Prop where
  refused : s.seq.scan ≠ none ∨ s.seq.state = .edit ∨ s.seq.state = .safe ∨
      countUp 65535 s.seq.gateTime < s.contacts.cfg.guard →
    s.PressIgnored t ∧ t.seq.gateTime = countUp 65535 s.seq.gateTime
  held : s.seq.scan = none → s.contacts.cfg.guard ≤ countUp 65535 s.seq.gateTime →
    s.seq.state = .hold →
      t.seq.state = .running ∧ t.Raised .stateChange ∧ t.seq.gateTime = 0 ∧
        t.contacts.ignored = s.contacts.ignored ∧
          ((∀ b, s.seq.arm ≠ .waiting 0 b) →
            t.seq.next = s.seq.next ∧ t.seq.standing = s.seq.standing)
  ended : s.seq.scan = none → s.contacts.cfg.guard ≤ countUp 65535 s.seq.gateTime →
    s.seq.state = .running → s.seq.next = none →
      s.PressIgnored t ∧ t.Raised .endOfList ∧ t.seq.gateTime = countUp 65535 s.seq.gateTime
  fired : s.seq.scan = none → s.contacts.cfg.guard ≤ countUp 65535 s.seq.gateTime →
    s.seq.state = .running → ∀ cue, s.NextTold cue →
      t.seq.state = .running ∧ t.seq.gateTime = 0 ∧ t.contacts.ignored = s.contacts.ignored ∧
        t.seq.standing = some cue.number ∧ t.seq.next = cueAfter s.cues cue.number ∧
          t.seq.nextId = idAfter s.seq.nextId ∧ t.Raised .cueFired ∧ t.seq.arm = s.armAfter cue ∧
            t.clock.point = (s.armAfter cue).point ∧
              (s.seq.flight = [] → s.seq.notices = [] → t.seq.notices.head? =
                some { kind := .fired, cue := cue.number, firing := s.seq.nextId
                       cause := some .goContact })

/-- What a millisecond leaves in which CBACK alone turns active (R80, R150, R152, R153): in a scan, in EDIT
and SAFE and with no cue before next the press is ignored, and otherwise next moves back one cue, arming
only a CLOCK cue. The gate time counts the millisecond in either case. -/
structure State.BackSampled (s t : State) : Prop where
  gate : t.seq.gateTime = countUp 65535 s.seq.gateTime
  refused : s.seq.scan ≠ none ∨ s.seq.state = .edit ∨ s.seq.state = .safe → s.PressIgnored t
  ended : s.seq.scan = none → s.seq.state = .running ∨ s.seq.state = .hold →
    (s.seq.next = none ∧ s.cues = [] ∨ ∃ k, s.seq.next = some k ∧ cueBefore s.cues k = none) →
      s.PressIgnored t ∧ t.Raised .endOfList
  moved : s.seq.scan = none → s.seq.state = .running ∨ s.seq.state = .hold →
    ∀ (n : Nat) (q : Cue), findCue s.cues n = some q →
      (s.seq.next = none ∧ lastCue s.cues = some n ∨
        ∃ k, s.seq.next = some k ∧ cueBefore s.cues k = some n) →
      ∀ arm : Arm, arm = (if q.trigger = .clock then .clock q.song q.position else .empty) →
        t.seq.next = some n ∧ t.seq.arm = arm ∧ t.clock.point = arm.point ∧
          t.seq.standing = s.seq.standing ∧ t.seq.state = s.seq.state ∧
            t.contacts.ignored = s.contacts.ignored

/-! ### Frames and line pins -/

/-- A frame's bytes in the order sent: the sync 0x5A and `sync`, the frame count, SAFE-active in bit 0 and
HOLD-active in bit 1 of a byte whose other bits are 0, `n` fields of `width` bytes with these values, and
the CRC of every byte after the sync, each number most significant byte first (R160, R161, R169, R196,
R199, R200); and its bits, each byte's most significant first (R165). -/
structure Frame.LaidOut (f : Frame) (sync : Byte) (n width : Nat) (value : Nat → Nat) : Prop where
  size : f.bytes.length = 7 + width * n
  sync : f.bytes.take 2 = [0x5A, sync]
  count : natOf ((f.bytes.drop 2).take 2) = f.count
  flags : ∃ b, f.bytes[4]? = some b ∧ b.toNat.testBit 0 = f.safe ∧ b.toNat.testBit 1 = f.hold ∧
    b.toNat < 4
  field : ∀ k, k < n → natOf ((f.bytes.drop (5 + width * k)).take width) = value k
  crc : natOf (f.bytes.drop (5 + width * n)) =
    (crc16 ((f.bytes.drop 2).take (3 + width * n))).toNat
  bits : f.bits.length = 8 * f.bytes.length
  bit : ∀ i b, f.bytes[i]? = some b → ∀ j, j < 8 →
    f.bits[8 * i + j]? = some (b.toNat.testBit (7 - j))

/-- The clock pin and the data pin carry this send: `r` cycles into the period of bit `k`, counted from
its start, the data pin shows that bit, and the clock pin is low in the first half of the period and high in
the second (R165, R169; the halves are log entry 20: DESIGN CHOICE). Of a send that is over the clock pin is
low. -/
def Shifting.Carried (h : Shifting) (pins : Bool × Bool) : Prop :=
  (∀ k r : Nat, r < h.bitTime → 0 < h.left →
    h.left = (h.frame.sendTime h.bitTime : Nat) - (h.bitTime * k + r : Nat) →
      pins.1 = decide (h.bitTime ≤ 2 * r) ∧ (pins.2 = true ↔ h.frame.bits[k]? = some true)) ∧
    (h.left ≤ 0 → pins.1 = false)

/-! ### What the part always keeps true -/

/-- A level (R20). -/
def IsLevel (v : Int) : Prop := -800 ≤ v ∧ v ≤ 100

/-- A stored move whose fields stand in their ranges, the fields its action does not use as R41 stores
them (R41). -/
def StoredMove.InRange (m : StoredMove) : Prop :=
  m.delay ≤ 600000 ∧ (m.action = .level → IsLevel m.target ∧ m.duration ≤ 600000) ∧
    (m.action ≠ .level → m.target = -800 ∧ m.duration = 0 ∧ m.curve = .linear)

/-- The seven clock settings stand in their ranges (R126). -/
def ClockConfig.InRange (k : ClockConfig) : Prop :=
  k.markDelay ≤ 50 ∧ 1 ≤ k.lockWindow ∧ k.lockWindow ≤ 100 ∧ 20 ≤ k.relocate ∧ k.relocate ≤ 1000 ∧
    20 ≤ k.markTimeout ∧ k.markTimeout ≤ 1000 ∧ k.freewheel ≤ 10000 ∧ k.phaseDepth ≤ 7 ∧
      k.rateDepth ≤ 15

/-- The clock's figures stay in the ranges of R113 and R126. -/
def State.ClockInRange (s : State) : Prop :=
  64225 ≤ s.clock.rate ∧ s.clock.rate ≤ 66847 ∧ s.clock.frac ≤ 65535 ∧
    s.clock.whole ≤ 4294967295 ∧ s.clock.song ≤ 99 ∧ s.clock.good ≤ 4 ∧
      s.clock.markTimer ≤ 65535 ∧ s.clock.freewheelTimer ≤ 65535 ∧ s.clock.errors ≤ 255 ∧
        s.clock.cfg.InRange

/-- The clock holds exactly the point of a CLOCK arm (R76, R123). -/
def State.PointMatches (s : State) : Prop := s.clock.point = s.seq.arm.point

/-- The flight table, the notice queue and the request buffer stay within their sizes (R71, R86,
R179). -/
def State.QueuesFit (s : State) : Prop :=
  s.seq.flight.length ≤ 8 ∧ s.seq.notices.length ≤ 16 ∧ s.link.buffer.length ≤ 2

/-- In EDIT and SAFE no firing is in flight, the arm is empty and no crossing is kept against an edit, and
outside SAFE the return state reads EDIT (R46, R60, R71, R75). -/
def State.ShowConsistent (s : State) : Prop :=
  (s.seq.state = .edit ∨ s.seq.state = .safe →
      s.seq.flight = [] ∧ s.seq.arm = .empty ∧ s.seq.crossed = none) ∧
    (s.seq.state ≠ .safe → s.seq.ret = .edit) ∧ (s.seq.ret = .edit ∨ s.seq.ret = .hold)

/-- The cue list is in strictly ascending order of cue number, at most 512 cues and at most 2048 moves in
all, each number in 1..9999 and each cue with at most 64 moves and at most 4 for one channel (R40,
R42). -/
def State.ListInOrder (s : State) : Prop :=
  (s.cues.map Cue.number).Pairwise (· < ·) ∧ s.cues.length ≤ 512 ∧
    (s.cues.map fun q => q.moves.length).sum ≤ 2048 ∧
      ∀ q ∈ s.cues, 1 ≤ q.number ∧ q.number ≤ 9999 ∧ q.moves.length ≤ 64 ∧
        ∀ c, (q.moves.filter fun m => decide (m.channel = c)).length ≤ 4

/-- A cue number names a cue of the list, or is none (R67). -/
def State.Names (s : State) (n : Option Nat) : Prop := ∀ k, n = some k → ∃ c ∈ s.cues, c.number = k

/-- The playhead, and the cue of a scan in flight, name cues of the list (R67, R85). -/
def State.PlayheadInList (s : State) : Prop :=
  s.Names s.seq.next ∧ s.Names s.seq.standing ∧ s.Names (s.seq.scan.map Scan.cue)

/-- No line slot serves two strips (R162). -/
def State.RoutesDistinct (s : State) : Prop :=
  ∀ p q : Strip, p ≠ q → s.output.routes.get p ≠ none →
    s.output.routes.get p ≠ s.output.routes.get q

/-- No channel stands in two slots of one bank (R133). -/
def State.BanksDistinct (s : State) : Prop :=
  ∀ (k : Fin 8) (f g : Slot), f ≠ g → (s.surface.banks.get k).get f ≠ none →
    (s.surface.banks.get k).get f ≠ (s.surface.banks.get k).get g

/-- Fader `f` holds channel `c` (R137). -/
def State.Holds (s : State) (f : Slot) (c : Chan) : Prop :=
  (s.fader f).state = .holding ∧ (s.fader f).mapping = some c

/-- Hands and faders agree: a HOLDING fader's channel is HELD at the law's level of the fader's
accepted position, a HELD channel is held by a fader, no two faders hold one channel, and a fader out of
use is FREE (R129, R137, R138, R146). -/
def State.HandsAgree (s : State) : Prop :=
  (∀ f, (s.fader f).state = .holding → ∃ c, s.Holds f c) ∧
    (∀ f c, s.Holds f c → (s.chan c).hand = .held (faderLaw (s.fader f).position)) ∧
      (∀ c h, (s.chan c).hand = .held h → ∃ f, s.Holds f c) ∧
        (∀ f g c, s.Holds f c → s.Holds g c → f = g) ∧
          ∀ f, s.slotUsed f = false → (s.fader f).state = .free

/-- The levels of a hand. -/
def Hand.InRange : Hand → Prop
  | .free => True
  | .held h => IsLevel h
  | .gliding start _ _ => IsLevel start

/-- The levels of a channel record. -/
def Channel.InRange (r : Channel) : Prop :=
  IsLevel r.cfg.base ∧ IsLevel r.level ∧ IsLevel r.effective ∧ r.hand.InRange ∧
    (∀ m, r.active = some m → IsLevel m.start ∧ IsLevel m.target) ∧
      ∀ p ∈ r.waiting, IsLevel p.target

/-- Every level of the part lies in −800..+100: of the channels, their moves, the stored moves, and the
accepted positions behind hand levels stay readings of the converter (R20). -/
def State.LevelsInRange (s : State) : Prop :=
  (∀ c, (s.chan c).InRange) ∧ (∀ q ∈ s.cues, ∀ m ∈ q.moves, IsLevel m.target) ∧
    ∀ f, (s.fader f).position ≤ 1023

/-- A gain frame carries 64 gain words within 0..3,315,888 (R34, R160). -/
def Content.Bounded : Content → Prop
  | .gain words => words.length = 64 ∧ ∀ w ∈ words, w ≤ 3315888
  | .surface slots => slots.length = 16 ∧ ∀ e ∈ slots, e.target ≤ 1023

/-- Every frame in a shift or a stage is whole and bounded, and every mute factor is within 0..1024
(R10, R34, R160, R169). -/
def State.OutputBounded (s : State) : Prop :=
  (∀ c, (s.chan c).mute ≤ 1024) ∧
    (∀ n, (∀ h, (s.output.lines.get n).shift = some h → h.frame.content.Bounded) ∧
      ∀ f, (s.output.lines.get n).stage = some f → f.content.Bounded) ∧
      (∀ h, s.output.surfaceShift = some h → h.frame.content.Bounded) ∧
        ∀ f, s.output.surfaceStage = some f → f.content.Bounded

/-- Every reply that waits fits a message (R175, R180). -/
def State.RepliesFit (s : State) : Prop :=
  ∀ e ∈ s.link.buffer, ∀ r, e.reply = some r → r.payload.length ≤ 247

/-- The pending list of a channel holds at most 4 moves (R91), in ascending order of remaining delay, and
its moves belong to one firing and share its timebase (R93). -/
def Channel.ListKept (r : Channel) : Prop :=
  r.waiting.length ≤ 4 ∧
    r.waiting.Pairwise (fun p q => p.delay ≤ q.delay ∧ p.firing = q.firing ∧ p.base = q.base)

/-- Every pending list is kept as R91 and R93 lay down. -/
def State.PendingKept (s : State) : Prop := ∀ c, (s.chan c).ListKept

/-! ### Retained memory -/

/-- Everything the reset pin and a link restart keep, but for the restart record that they write
(R195). -/
structure Retained where
  cues : List Cue
  channels : Tab 56 ChannelConfig
  banks : Tab 8 Bank
  activeBank : Fin 8
  routes : Tab 48 (Option (GainNo × Fin 64))
  clock : ClockConfig
  surface : SurfaceConfig
  contacts : ContactConfig
  output : OutputConfig
  enables : BitVec 21
  noticeEnable : Bool
  actLost : Act
  actSilence : Act
  actLate : Act
  limit : Nat
deriving DecidableEq, Repr

/-- The retained memory of a state. -/
def State.retained (s : State) : Retained :=
  { cues := s.cues, channels := s.channels.map Channel.cfg, banks := s.surface.banks,
    activeBank := s.surface.activeBank, routes := s.output.routes, clock := s.clock.cfg,
    surface := s.surface.cfg, contacts := s.contacts.cfg, output := s.output.stored,
    enables := s.events.enables, noticeEnable := s.events.noticeEnable, actLost := s.events.actLost,
    actSilence := s.events.actSilence, actLate := s.events.actLate, limit := s.link.limit }

end Machine

/-- The requests that write retained memory (R195): LINK_SETUP, EVENTS_SETUP, CHANNEL_SETUP, TRIM,
CUE_PUT, MOVES_ADD, CUE_DELETE, LIST_CLEAR, CLOCK_SETUP, SURFACE_SETUP, BANK_PUT, BANK_SELECT,
CONTACT_SETUP, OUTPUT_SETUP and ROUTE_PUT. -/
def Instr.writesRetained (i : Instr) : Bool :=
  match i.request with
  | none => false
  | some (_, code, _) =>
    [0x02, 0x08, 0x10, 0x11, 0x20, 0x21, 0x22, 0x23, 0x40, 0x48, 0x49, 0x4A, 0x50, 0x58, 0x59].contains
      code

end Sys2Proof
end

