-- ==== Sys2Proof/Certificates/Slice0/Obligations.lean ====
section
/-!
DEFINITION. The statements for the provers.

`s.heard` is a state after any good request (R176, R180, R183), and `s.heard.replying code r payload`
the same with one reply more in the buffer: a statement whose conclusion is such an equation says all
that its command changes.
-/

open Sys2Proof Sys2Proof.Machine

/-! ### The queue, the reset level, messages -/

/-- A step takes the command at the front of the queue. On an empty queue the part idles while RESETn is
low, and otherwise judges the next character that LRX or TMIN has brought, and runs the command that it
brings about, or takes its own next event; a wait, a timer, the restart window, a scan's 40 ms or a gap
that has run out is taken before time passes (log entries 1, 17 and 23: the model's choice). -/
def Obligations.StepTakesNext : Prop :=
  (∀ (c : Instr) (rest : List Instr) (s : State),
    s.pending = c :: rest → step s = exec c (s.setPending rest)) ∧
    (∀ s : State, s.pending = [] → s.resetLow = true → step s = .next s) ∧
    ∀ s : State, s.pending = [] → s.resetLow = false →
      (∀ h rest, s.link.line = h :: rest →
        (∀ t, s.judgeLink h rest = (t, none) → step s = .next t) ∧
          ∀ t c, s.judgeLink h rest = (t, some c) → step s = exec c t) ∧
      (s.link.line = [] → ∀ h rest, s.clock.line = h :: rest →
        (∀ t, s.judgeMark h rest = (t, none) → step s = .next t) ∧
          ∀ t c, s.judgeMark h rest = (t, some c) → step s = exec c t) ∧
      (s.link.line = [] → s.clock.line = [] →
        ∃ c, s.ownEvent = some c ∧ step s = exec c s ∧
          (s.waitDue = true ∨ s.clock.overdue = true ∨ s.clock.spent = true ∨ s.link.silent = true ∨
            (s.events.sequence = .step1 ∨ s.events.sequence = .step2) ∧ 1000 ≤ s.events.window ∨
            (∃ k, s.seq.scan = some k ∧ 40 ≤ k.age) ∨
            s.link.sending = none ∧ s.link.gapped = true ∨ s.clock.gapped = true →
              c ≠ .clockAdvance))

/-- No command reads or writes the queue of waiting commands: it answers a next state whose queue is the
queue it found, and with another queue it answers the same state with that queue. -/
def Obligations.QueueUntouched : Prop :=
  ∀ (i : Instr) (s : State), ∃ t, exec i s = .next t ∧ t.pending = s.pending ∧
    ∀ q, exec i (s.setPending q) = .next (t.setPending q)

/-- While RESETn is low nothing but the supply and RESETn itself changes the part: that RESETn going low
again changes nothing is log entry 5 (DESIGN CHOICE), and that every other command is lost is read from
R192 (DEDUCED, log entry 5). -/
def Obligations.HeldInReset : Prop :=
  ∀ (i : Instr) (s : State), s.resetLow = true → (∀ x, i ≠ .powerOn x) → i ≠ .resetPinRelease →
    exec i s = .next s

/-- The characters of a well-formed request, and of a time mark, are read back as the command they
were written from (R175, R197, R199). Over LRX they are judged one by one, and the last of them runs that
command on the state they found, the characters behind them still waiting (R176; log entry 23). -/
def Obligations.MessagesReadBack : Prop :=
  (∀ (address : BitVec 5) (i : Instr) (d : Dest) (code : Byte) (body : List Byte),
    i.wellFormed = true → i.request = some (d, code, body) → (d = .own → address ≠ 31) →
      decodeMessage address (encodeRequest address d code body) = some i ∧
        ∀ (s : State) (rest : List LinkHeard), s.pending = [] → s.Hears →
          s.link.receiver = .unaddressed → s.link.address = address →
            s.link.line = onLine (encodeRequest address d code body) ++ rest →
              ∃ t, s.stepped (body.length + 3) = some t ∧
                step t = exec i (s.setLink { s.link with line := rest })) ∧
    ∀ (song : Byte) (position : BitVec 32) (flags : Byte),
      decodeMark (encodeMark song position flags) =
        some (.timeMark song position flags (markCheck song position flags))

/-- Messages, marks and frames written out from chapter 12: the NOP to address 4 and its reply, a
TRIM, a bad check, traffic for address 7, a collection abandoned by another address, a mark, the bits of
a character, the CRC of "123456789", the bytes of a gain frame up to its CRC (count 258, SAFE, words in
slots 1 and 64) with the bits of its sync, and all bytes of a surface frame (count 65535, HOLD, entries in
slots 1 and 2), whose CRC is worked out from R200; every number sent most significant byte first, a signed
one in two's complement (R196); and the codes of R198's table. -/
def Obligations.FormatExamples : Prop :=
  decodeMessage 4 (marked 0x04 [0x01, 0x01, 0xFE]) = some (.nop .own []) ∧
    Reply.message 4 { code := 0x01, result := Result.ok.code, payload := [] } =
      marked 0x84 [0x02, 0x01, 0x00, 0xFD] ∧
      decodeMessage 4 (marked 0x04 [0x04, 0x11, 0x01, 0xFF, 0xC4, 0x27]) =
        some (.trim .own [0x01, 0xFF, 0xC4]) ∧
        decodeMessage 4 (marked 0x04 [0x01, 0x01, 0xFD]) = some .linkCheckFault ∧
          decodeMessage 4 (marked 0x07 [0x01, 0x01, 0xFE]) = some .trafficForOtherParts ∧
            decodeMessage 4 (marked 0x04 [0x01] ++ [⟨0x1F, true⟩]) =
              some (.linkFormFault (.abandoned (some .broadcast))) ∧
            decodeMark [0xA5, 0x03, 0x00, 0x00, 0xEA, 0x60, 0x01, 0x4E] =
              some (.timeMark 0x03 60000#32 0x01 0x4E) ∧
              LinkChar.bits ⟨0x84, true⟩ =
                [false, false, false, true, false, false, false, false, true, true, true] ∧
              crc16 [0x31, 0x32, 0x33, 0x34, 0x35, 0x36, 0x37, 0x38, 0x39] = 0x29B1 ∧
              (∀ f : Frame, f = { count := 258, safe := true, hold := false
                                  content := .gain (1048576 :: List.replicate 62 0 ++ [3315888]) } →
                f.bytes.length = 199 ∧
                  f.bytes.take 8 = [0x5A, 0xC3, 0x01, 0x02, 0x01, 0x10, 0x00, 0x00] ∧
                  (f.bytes.drop 8).take 186 = List.replicate 186 0 ∧
                  (f.bytes.drop 194).take 3 = [0x32, 0x98, 0xB0] ∧
                  f.bits.take 16 = [false, true, false, true, true, false, true, false,
                    true, true, false, false, false, false, true, true]) ∧
              Frame.bytes { count := 65535, safe := false, hold := true
                            content := .surface
                              ({ target := 512, drive := true, tally := false } ::
                                { target := 1023, drive := false, tally := true } ::
                                  List.replicate 14 { target := 0, drive := false, tally := false }) } =
                [0x5A, 0x3C, 0xFF, 0xFF, 0x02, 0x82, 0x00, 0x43, 0xFF] ++ List.replicate 28 0 ++
                  [0xD4, 0x0F] ∧
    (∀ n v : Nat, bytesOf n v = fieldBytes n v) ∧ (∀ v : Int, int2 v = fieldBytes 2 v) ∧
    (∀ o : Option Owner, ownerField o = fields (ownerFields o)) ∧
    [Result.ok, .okClamped, .badLength, .badField, .unknownType, .noCue, .listFull, .poolFull, .cueFull,
        .channelCrowded, .duplicate, .wrongState, .inFlight, .armed, .emptyList, .endOfList, .guarded,
        .mismatch, .busy, .sequence].map Result.code =
      [0, 1, 2, 3, 4, 5, 6, 7, 8, 9, 10, 11, 12, 13, 14, 15, 16, 17, 18, 19] ∧
    [Trigger.manual, .follow, .withCue, .clock].map Trigger.code = [0, 1, 2, 3] ∧
    [Timebase.wall, .clock].map Timebase.code = [0, 1] ∧
    [Action.level, .mute, .unmute].map Action.code = [0, 1, 2] ∧
    [Curve.linear, .easeIn, .easeOut, .scurve, .snapEnd, .snapStart].map Curve.code =
      [0, 1, 2, 3, 4, 5] ∧
    [ReleaseMode.ret, .keep].map ReleaseMode.code = [0, 1] ∧
    setOfCode 0 = some false ∧ setOfCode 1 = some true ∧
    [Polarity.activeLow, .activeHigh].map Polarity.code = [0, 1] ∧
    [Act.none, .hold, .safe].map Act.code = [0, 1, 2] ∧
    [ScanMode.sequential, .paired].map ScanMode.code = [0, 1] ∧
    [ShowState.edit, .running, .hold, .safe].map ShowState.code = [0, 1, 2, 3] ∧
    [ClockState.none, .locking, .locked, .freewheel, .stopped, .lost].map ClockState.code =
      [0, 1, 2, 3, 4, 5] ∧
    [Cause.goContact, .goLink, .follow, .withCue, .clock].map Cause.code = [1, 2, 3, 4, 5] ∧
    [NoticeKind.fired, .complete, .retired, .cleared].map NoticeKind.code = [0, 1, 2, 3] ∧
    [ResetCause.powerOn, .resetPin, .linkRestart].map ResetCause.code = [0, 1, 2] ∧
    (∀ (h : Int) (n time : Nat),
      [Hand.free, .held h, .gliding h n time].map Hand.code = [0, 1, 2]) ∧
    [FaderState.free, .holding, .blocked].map FaderState.code = [0, 1, 2] ∧
    [Watchdog.off, .running, .expired].map Watchdog.code = [0, 1, 2]

/-! ### The link -/

/-- Each query, and NOP, is answered OK with what it reports, field by field in the order and widths of the
layouts of `fields`, and changes nothing; a query with a field outside its range is refused BAD_FIELD, and
one of a cue that is not in the list NO_CUE, and changes nothing either (R12, R17, R18, R57 to R59, R88, R128,
R147, R156, R164, R171, R185, R194). The settings, cue headers, moves, notices, banks and routes that other
replies carry are the same layouts. How an absent field reads in a report, where a none flag stands and how wide
the address in the reply to LINK_QUERY is, is the model's choice (log entry 7). -/
def Obligations.QueriesAnswer : Prop :=
  (∀ s : State, s.Open →
    exec (.nop .own []) s = .next (s.answeredBare 0x01 .ok) ∧
    exec (.linkQuery .own []) s = .next (s.heard.replying 0x03 .ok (fields s.link.fields)) ∧
    exec (.restartQuery .own []) s = .next (s.heard.replying 0x0B .ok (fields s.restart.fields)) ∧
    exec (.showQuery .own []) s = .next (s.heard.replying 0x3B .ok (fields s.seq.fields)) ∧
    exec (.clockQuery .own []) s = .next (s.heard.replying 0x41 .ok (fields s.clock.fields)) ∧
    exec (.contactQuery .own []) s = .next (s.heard.replying 0x51 .ok (fields s.contacts.fields)) ∧
    exec (.outputQuery .own []) s = .next (s.heard.replying 0x5B .ok (fields s.output.fields)) ∧
    (∀ c : Chan, exec (.channelQuery .own [byte (c.val + 1)]) s =
      .next (s.heard.replying 0x13 .ok (fields (s.channelFields c)))) ∧
    (∀ (before after : List Cue) (q : Cue), s.cues = before ++ q :: after →
      (∀ p ∈ before, p.number ≠ q.number) → 1 ≤ q.number → q.number ≤ 9999 →
      exec (.cueQuery .own (bytesOf 2 q.number)) s =
          .next (s.heard.replying 0x24 .ok (fields
            (q.fields ++ ([(1, q.moves.length), (2, before.length + 1)] : Layout)))) ∧
        ∀ first count : Nat, 1 ≤ first → first ≤ 64 → 1 ≤ count → count ≤ 24 →
          exec (.movesQuery .own (bytesOf 2 q.number ++ [byte first, byte count])) s =
            .next (s.heard.replying 0x25 .ok (fields
              ((1, q.moves.length) ::
                ((q.moves.drop (first - 1)).take count).flatMap (StoredMove.fields q.base))))) ∧
    (∀ start count : Nat, start ≤ 9999 → 1 ≤ count → count ≤ 100 →
      ∃ (shown : List Cue) (more : Bool), exec (.listQuery .own (bytesOf 2 start ++ [byte count])) s =
          .next (s.heard.replying 0x26 .ok (fields
            (shown.map (fun q => (2, (q.number : Int))) ++ ([(1, shown.length), (1, more.toNat),
              (2, s.cues.length), (2, (2048 - (s.cues.map fun q => q.moves.length).sum : Nat))] :
                Layout)))) ∧
        shown.length ≤ count ∧
          shown ++ (s.cues.filter fun q => decide (start ≤ q.number)).drop shown.length =
            (s.cues.filter fun q => decide (start ≤ q.number)) ∧
            (more = true ↔
              shown.length < (s.cues.filter fun q => decide (start ≤ q.number)).length) ∧
              (more = true → shown.length = count)) ∧
    (∀ k : Fin 8, exec (.surfaceQuery .own [byte (k.val + 1)]) s =
      .next (s.heard.replying 0x4B .ok
        (fields (s.surfaceFields ++ bankFields (s.surface.banks.get k))))) ∧
    exec (.surfaceQuery .own [0]) s = .next (s.heard.replying 0x4B .ok (fields s.surfaceFields)) ∧
    (∀ n : GainNo, ∃ strip : Fin 64 → Option Strip,
      exec (.routeQuery .own [byte (n.val + 1)]) s = .next (s.heard.replying 0x5A .ok (fields
        ((List.finRange 64).map fun j => (1, (strip j).elim (0 : Int) fun p => p.val + 1)))) ∧
      ∀ j, (strip j = none ↔ ∀ p, s.output.routes.get p ≠ some (n, j)) ∧
        ∀ p, strip j = some p → s.output.routes.get p = some (n, j)) ∧
    exec (.routeQuery .own [0]) s = .next (s.heard.replying 0x5A .ok (fields
      ((List.finRange 48).flatMap fun p => routeFields (s.output.routes.get p)))) ∧
    (∀ k : Byte, k.toNat = 0 ∨ 56 < k.toNat →
      exec (.channelQuery .own [k]) s = .next (s.answeredBare 0x13 .badField)) ∧
    (∀ k : Byte, 8 < k.toNat →
      exec (.surfaceQuery .own [k]) s = .next (s.answeredBare 0x4B .badField)) ∧
    (∀ k : Byte, 4 < k.toNat →
      exec (.routeQuery .own [k]) s = .next (s.answeredBare 0x5A .badField)) ∧
    (∀ (n : Nat) (r : Result), n < 65536 →
      r = .badField ∧ (n = 0 ∨ 9999 < n) ∨
          r = .noCue ∧ 1 ≤ n ∧ n ≤ 9999 ∧ (∀ q ∈ s.cues, q.number ≠ n) →
        exec (.cueQuery .own (bytesOf 2 n)) s = .next (s.answeredBare 0x24 r) ∧
          ∀ first count : Nat, 1 ≤ first → first ≤ 64 → 1 ≤ count → count ≤ 24 →
            exec (.movesQuery .own (bytesOf 2 n ++ [byte first, byte count])) s =
              .next (s.answeredBare 0x25 r)) ∧
    (∀ (n : Nat) (first count : Byte), n < 65536 →
      first.toNat = 0 ∨ 64 < first.toNat ∨ count.toNat = 0 ∨ 24 < count.toNat →
        exec (.movesQuery .own (bytesOf 2 n ++ [first, count])) s =
          .next (s.answeredBare 0x25 .badField)) ∧
    ∀ (start : Nat) (count : Byte), start < 65536 →
      9999 < start ∨ count.toNat = 0 ∨ 100 < count.toNat →
        exec (.listQuery .own (bytesOf 2 start ++ [count])) s =
          .next (s.answeredBare 0x26 .badField)) ∧
  (∀ k, configBytes k = fields k.fields) ∧ (∀ k, clockSettings k = fields k.fields) ∧
  (∀ k, surfaceSettings k = fields k.fields) ∧ (∀ k, contactSettings k = fields k.fields) ∧
  (∀ k, outputSettings k = fields k.fields) ∧ (∀ v, eventSettings v = fields v.fields) ∧
  (∀ q, headerBytes q = fields q.fields) ∧ (∀ b m, moveBytes b m = fields (m.fields b)) ∧
  (∀ n, noticeBytes n = fields n.fields) ∧ (∀ b, bankBytes b = fields (bankFields b)) ∧
  (∀ r, routeBytes r = fields (routeFields r)) ∧ ∀ n, cueField n = fields [(2, n.getD 0)]

/-- A request of a wrong length is answered BAD_LENGTH and one of an unknown type UNKNOWN_TYPE, neither is
applied, a restart sequence in STEP1 or STEP2 returns to IDLE, and a broadcast one is not answered (R178,
R193). GO and BACK carry with BAD_LENGTH the payload they carry with every result code (R69, R80; log
entry 9: DEDUCED), and MOVES_ADD carries none (log entry 8: DESIGN CHOICE). -/
def Obligations.RequestsJudged : Prop :=
  ∀ (s u : State), s.Hears → s.link.buffer.length < 2 →
    u = (if s.events.sequence = .step1 ∨ s.events.sequence = .step2 then
      s.setEvents { s.events with sequence := .idle } else s) →
    (∀ (i : Instr) (d : Dest) (code : Byte) (body : List Byte), i.codeFits = true →
      i.request = some (d, code, body) → typeCodes.contains code = true →
        lengthAllowed code body.length = false →
          (¬ s.Broadcast d → exec i s = .next (u.heard.replying code .badLength (s.carried code))) ∧
          (s.Broadcast d → exec i s = .next u.heard)) ∧
      ∀ (d : Dest) (code : Byte) (body : List Byte),
        (¬ s.Broadcast d → exec (.unknownType d code body) s = .next (u.answeredBare code .unknownType)) ∧
        (s.Broadcast d → exec (.unknownType d code body) s = .next u.heard)

/-- The steps of the restart sequence (R193): the table of RESTART against the four states, a step
outside 1..3, the same steps broadcast, where step 3 restarts the part at once, and the lapse of the
window, of which there is none before its 1000 ms (log entry 3). The reset of a broadcast step 3 is taken
and left at one instant, so that what LRX and TMIN have brought behind it still waits to be judged (R176,
R192; that TMIN's characters of that millisecond stand behind it is log entry 23, DESIGN CHOICE). The
milliseconds left are a three-byte field (log entry 15: DEDUCED). In DUE a RESTART changes nothing but is
answered with some result (log entry 10); that a broadcast step 3 served in DUE changes nothing either is
log entry 11 (DEDUCED). -/
def Obligations.RestartSteps : Prop :=
  (∀ s : State, s.Serves →
    (s.events.sequence = .idle →
      exec (.restart .own [1]) s =
          .next ((s.setEvents { s.events with sequence := .step1, window := 0 }).heard.replying 0x0A .ok
            (1 :: bytesOf 3 1000)) ∧
        exec (.restart .own [2]) s = .next (s.answeredBare 0x0A .sequence) ∧
          exec (.restart .own [3]) s = .next (s.answeredBare 0x0A .sequence)) ∧
    (s.events.sequence = .step1 →
      exec (.restart .own [2]) s =
          .next ((s.setEvents { s.events with sequence := .step2 }).heard.replying 0x0A .ok
            (2 :: bytesOf 3 (1000 - s.events.window))) ∧
        (∀ k : Byte, k = 1 ∨ k = 3 → exec (.restart .own [k]) s =
          .next ((s.setEvents { s.events with sequence := .idle }).answeredBare 0x0A .sequence))) ∧
    (s.events.sequence = .step2 →
      exec (.restart .own [3]) s =
          .next ((s.setEvents { s.events with sequence := .due }).heard.replying 0x0A .ok []
            .linkRestart) ∧
        (∀ k : Byte, k = 1 ∨ k = 2 → exec (.restart .own [k]) s =
          .next ((s.setEvents { s.events with sequence := .idle }).answeredBare 0x0A .sequence))) ∧
    (∀ k : Byte, k.toNat = 0 ∨ 3 < k.toNat →
      exec (.restart .own [k]) s =
        .next ((s.setEvents { s.events with
          sequence := if s.events.sequence = .due then .due else .idle }).answeredBare 0x0A
            .badField)) ∧
    (s.events.sequence = .due → ∀ k : Byte, 1 ≤ k.toNat → k.toNat ≤ 3 →
      ∃ t r, exec (.restart .own [k]) s = .next t ∧ t.retained = s.retained ∧
        t = ((s.heard.setFree t.free).setLink { s.heard.link with
          buffer := s.link.buffer ++ [⟨some ⟨0x0A, r, []⟩, .nothing⟩] }))) ∧
  (∀ s : State, s.Hears → s.link.buffer.length < 2 → ∀ d : Dest, s.Broadcast d →
    (s.events.sequence = .idle → exec (.restart d [1]) s =
      .next (s.setEvents { s.events with sequence := .step1, window := 0 }).heard) ∧
    (s.events.sequence = .step1 → exec (.restart d [2]) s =
      .next (s.setEvents { s.events with sequence := .step2 }).heard) ∧
    (s.events.sequence = .step2 → ∃ t, exec (.restart d [3]) s = .next t ∧
      t.Afresh ∧ s.RestartedBy t .linkRestart ∧ t.retained = s.retained ∧ t.resetLow = false ∧
      t.link.line = s.link.line ∧ t.link.begun = s.link.begun ∧ t.clock.line = s.clock.line ∧
      t.clock.begun = s.clock.begun) ∧
    (∀ k : Byte, (s.events.sequence = .idle ∧ k ≠ 1 ∨ s.events.sequence = .step1 ∧ k ≠ 2 ∨
        s.events.sequence = .step2 ∧ k ≠ 3) →
      exec (.restart d [k]) s = .next (s.setEvents { s.events with sequence := .idle }).heard) ∧
    (s.events.sequence = .due → ∀ k : Byte, ∃ t, exec (.restart d [k]) s = .next t ∧
      t = s.heard.setFree t.free)) ∧
  ∀ s : State, s.resetLow = false →
    (1000 ≤ s.events.window → exec .restartWindowLapse s =
      .next (s.setEvents { s.events with
        sequence := if s.events.sequence = .due then .due else .idle })) ∧
    (s.events.window < 1000 → exec .restartWindowLapse s = .next s)

/-- In STEP1 and STEP2 any other request of an allowed length is answered SEQUENCE, or as a broadcast not
answered, returns the sequence to IDLE and has no effect (R193). GO and BACK carry with SEQUENCE the
payload they carry with every result code (R69, R80; log entry 9: DEDUCED), and MOVES_ADD carries none
(log entry 8: DESIGN CHOICE). -/
def Obligations.RestartInterrupted : Prop :=
  ∀ (i : Instr) (s : State) (d : Dest) (code : Byte) (body : List Byte), s.Hears →
    s.link.buffer.length < 2 → s.events.sequence = .step1 ∨ s.events.sequence = .step2 →
      i.codeFits = true → i.request = some (d, code, body) → typeCodes.contains code = true →
        code ≠ 0x0A → lengthAllowed code body.length = true →
          (¬ s.Broadcast d → exec i s =
            .next ((s.setEvents { s.events with sequence := .idle }).heard.replying code .sequence
              (s.carried code))) ∧
          (s.Broadcast d → exec i s =
            .next (s.setEvents { s.events with sequence := .idle }).heard)

/-- A broadcast is answered by none: whatever it does, it leaves no reply in the buffer (R174, R180). But
for LINK_SETUP, EVENTS_READ, RESTART and NOTICES_READ it does what the same request to the part's own
address does; EVENTS_READ clears no flag and NOTICES_READ removes no notice (R87, R191). -/
def Obligations.BroadcastsUnanswered : Prop :=
  (∀ (i : Instr) (s t : State) (code : Byte) (body : List Byte),
    i.request = some (.broadcast, code, body) → exec i s = .next t →
      t.link.buffer = s.link.buffer ∨ (t.link.buffer = [] ∧ s.events.sequence = .step2)) ∧
    (∀ (i j : Instr) (s : State) (code : Byte) (body : List Byte), s.Open →
      i.request = some (.own, code, body) → j.request = some (.broadcast, code, body) →
        i.codeFits = true → j.codeFits = true → code ≠ 0x02 → code ≠ 0x09 → code ≠ 0x0A →
          code ≠ 0x3A →
            ∃ t, exec i s = .next t ∧
              exec j s = .next (t.setLink { t.link with buffer := s.link.buffer })) ∧
    ∀ (s : State) (k : Byte), s.Open →
      exec (.eventsRead .broadcast [k]) s = .next s.heard ∧
        exec (.noticesRead .broadcast [k]) s = .next s.heard

/-- A good request that arrives while two are held is dropped: it restarts the silence watchdog, is
counted as an overrun and raises LINK_ERROR, and has no other effect (R179). Each link fault discards the
collection, steps its own counter up to 255 and raises LINK_ERROR, and an abandoning address character
for this part opens its own collection (R176, R177). A gap is judged when it passes four character times,
so LRX has then been quiet for longer than they last (R173, R177, R180); the part takes none of its own
accord while a character that began within them is under way (log entry 29: DEDUCED). Traffic for other
parts restarts the two-character wait; where it breaks into a collection, its address character abandons it
(R176, R180; log entry 18). -/
def Obligations.LinkErrorsCounted : Prop :=
  ∀ s : State, s.Hears →
    (2 ≤ s.link.buffer.length →
      exec .requestOverrun s =
          .next ((s.heard.setLink { s.heard.link with
            overrun := countUp 255 s.link.overrun }).raise .linkError) ∧
        ∀ (i : Instr) (d : Dest) (code : Byte) (body : List Byte),
          i.request = some (d, code, body) → exec i s = exec .requestOverrun s) ∧
    exec .linkFramingFault s = .next ((s.setLink { s.link with
      receiver := .unaddressed, rxQuiet := 0,
      framing := countUp 255 s.link.framing }).raise .linkError) ∧
    exec .linkGapFault s = .next ((s.setLink { s.link with
      receiver := .unaddressed
      rxQuiet := max s.link.rxQuiet (4 * (176 * (s.link.divider + 1)) + 1)
      gap := countUp 255 s.link.gap }).raise .linkError) ∧
    exec .linkCheckFault s = .next ((s.setLink { s.link with
      receiver := .unaddressed, rxQuiet := 0,
      check := countUp 255 s.link.check }).raise .linkError) ∧
    exec (.linkFormFault .length) s = .next ((s.setLink { s.link with
      receiver := .unaddressed, rxQuiet := 0, form := countUp 255 s.link.form }).raise .linkError) ∧
    exec (.linkFormFault (.abandoned none)) s = .next ((s.setLink { s.link with
      receiver := .unaddressed, rxQuiet := 0, form := countUp 255 s.link.form }).raise .linkError) ∧
    (∀ d : Dest, exec (.linkFormFault (.abandoned (some d))) s = .next ((s.setLink { s.link with
      receiver := .length d, rxQuiet := 0,
      form := countUp 255 s.link.form }).raise .linkError)) ∧
    (s.link.receiver = .unaddressed →
      exec .trafficForOtherParts s = .next (s.setLink { s.link with rxQuiet := 0 })) ∧
    (s.link.receiver ≠ .unaddressed →
      exec .trafficForOtherParts s = .next ((s.setLink { s.link with
        receiver := .unaddressed, rxQuiet := 0, form := countUp 255 s.link.form }).raise .linkError)) ∧
    ∀ b : Begun, s.link.begun = some b → b.quiet ≤ 4 * (176 * (s.link.divider + 1)) →
      s.ownEvent ≠ some .linkGapFault

/-- A ready reply is sent whole for the time of its characters, 11 bits of 16 × (n + 1) crystal cycles
each (R173; counted in cycles: log entry 16, DESIGN CHOICE); REPLY_SEND is itself the evidence that the
waits of R180 have passed (log entry 3: DESIGN CHOICE), and a collection that LRX has begun is cut off
without a fault (log entry 19: DESIGN CHOICE). Of its own accord the part sends it only when LRX and LTX
have been quiet for two character times, and not while a character is under way on LRX that began before
they had (R180; that one which began later does not hold it is log entry 29, DESIGN CHOICE). At its end its
request leaves the buffer, and a new divider or the link restart comes about, which sets every block's
running state afresh (R180, R181, R184, R192, R193). While it is sent LTX shows its characters back to
back: of each the start bit, the data bits least significant first, the marker and the stop bit, 16 × (n + 1)
cycles a bit (R173, R181, R196); while none is sent the manual gives no level there, and the model tells none
(log entry 16). A character that has come over LRX is lost if LDE was driven at its end, and where the reply
had ended before, that end is taken first (R176, R181); that one begun under LDE goes by its end too is log
entry 19 (DESIGN CHOICE). -/
def Obligations.RepliesSent : Prop :=
  (∀ s : State, (s.link.sending = none → s.ltx = none) ∧
    ∀ (x : Sending) (i j r : Nat) (c : LinkChar), s.link.sending = some x →
      x.message[i]? = some c → j < 11 → r < 16 * (s.link.divider + 1) →
        x.left = (x.message.length * (176 * (s.link.divider + 1)) : Nat) -
          ((11 * i + j) * (16 * (s.link.divider + 1)) + r : Nat) →
            s.ltx = some (if j = 0 then false else if j = 9 then c.marker else if j = 10 then true
              else c.data.toNat.testBit (j - 1))) ∧
  (∀ (s : State) (x : Sending) (h : LinkHeard) (rest : List LinkHeard), s.pending = [] →
    s.resetLow = false → s.link.sending = some x → s.link.line = h :: rest →
      (0 ≤ x.left + h.ago → step s = .next (s.setLink { s.link with line := rest })) ∧
        (x.left + h.ago < 0 → step s = exec .replyEnd s)) ∧
  ∀ (s : State) (r : Reply) (after : AfterReply) (rest : List Entry), s.resetLow = false →
    s.link.buffer = ⟨some r, after⟩ :: rest →
      (s.link.sending = none → ∃ t, exec .replySend s = .next t ∧ t = s.setLink t.link ∧
        t.link.buffer = s.link.buffer ∧ t.link.divider = s.link.divider ∧
          t.link.receiver = .unaddressed ∧ t.driving = true ∧
          t.link.sending = some
            { message := r.message s.link.address
              left := ((r.payload.length + 5) * (176 * (s.link.divider + 1)) : Nat) }) ∧
      (s.link.sending ≠ none → ∃ t, exec .replyEnd s = .next t ∧ t.driving = false ∧
        match after with
        | .nothing => t = s.setLink t.link ∧ t.link.buffer = rest ∧ t.link.divider = s.link.divider
        | .setDivider n => t = s.setLink t.link ∧ t.link.buffer = rest ∧ t.link.divider = n
        | .linkRestart => t.Afresh ∧ s.RestartedBy t .linkRestart ∧ t.retained = s.retained ∧
            t.link.straps = s.link.straps ∧ t.resetLow = false ∧ t.link.line = s.link.line ∧
            t.clock.line = s.clock.line) ∧
      (s.ownEvent = some .replySend →
        (s.link.begun = none → 2 * (176 * (s.link.divider + 1)) ≤ s.link.rxQuiet ∧
          2 * (176 * (s.link.divider + 1)) ≤ s.link.txQuiet) ∧
        ∀ b : Begun, s.link.begun = some b → 2 * (176 * (s.link.divider + 1)) ≤ b.quiet ∧
          2 * (176 * (s.link.divider + 1)) + b.since ≤ s.link.txQuiet)

/-- LINK_SETUP stores the silence limit, rounded down to a multiple of 100 with 1..99 becoming 100,
and measures it from 0; the divider comes into force at the end of the reply, or at once for a
broadcast (R184). -/
def Obligations.LinkSetupStores : Prop :=
  ∀ (s : State) (n hi lo : Byte) (limit : Nat), s.Open →
    limit = (let v := min (hi ++ lo).toNat 25500
      if v = 0 then 0 else if v < 100 then 100 else v - v % 100) →
        exec (.linkSetup .own [n, hi, lo]) s =
            .next ((s.setLink { s.link with limit }).heard.replying 0x02
              (Result.applied (limit != (hi ++ lo).toNat)) (n :: bytesOf 2 limit)
              (.setDivider n.toNat)) ∧
          exec (.linkSetup .broadcast [n, hi, lo]) s =
            .next (s.setLink { s.link with limit, divider := n.toNat }).heard

/-! ### Events and resets -/

/-- EVENTS_SETUP replaces every setting and leaves the flags; an unknown act code stores nothing
(R190). EVENTS_READ reports the flags of the group it names as they stood, clears them and no other, and
then reports the summary, the notices held and the settings; group 0 clears none and reports no flags, and
a group above 5 is refused (R191). The 21 events have bits 0 to 20 in the order of R187's table, in five groups
of 8, 6, 3, 2 and 2, whose flags are reported from bit 0 for their first event; raising an event sets its flag
and nothing else (R187). The layout of the reply to EVENTS_READ: log entry 7. -/
def Obligations.EventRequests : Prop :=
  [Event.stateChange, .cueFired, .cueComplete, .endOfList, .goIgnored, .flightRetired, .noticeOverflow,
      .restarted, .clockLocked, .clockRelocated, .clockFreewheel, .clockLost, .clockStopped, .markError,
      .wiperDisagree, .touchBlocked, .remapDone, .linkError, .linkSilence, .lineLate, .levelClamp].map
        (fun e => e.index.val) = List.range 21 ∧
  [1, 2, 3, 4, 5].map groupSpan = [(0, 8), (8, 6), (14, 3), (17, 2), (19, 2)] ∧
  (∀ (flags : BitVec 21) (g k : Nat), (groupFlags flags g).testBit k =
    (decide (k < (groupSpan g).2) && flags.getLsbD ((groupSpan g).1 + k))) ∧
  (∀ (s : State) (e : Event),
    s.raise e = s.setEvents { s.events with flags := (s.raise e).events.flags } ∧
      ∀ f : Event, s.flagged f = s.events.flags.getLsbD f.index.val ∧
        (s.raise e).flagged f = (s.flagged f || decide (e = f))) ∧
  (∀ (s : State) (v : Events), s.Open → exec (.eventsSetup .own (eventSettings v)) s =
    .next ((s.setEvents { s.events with
      enables := v.enables, noticeEnable := v.noticeEnable, actLost := v.actLost,
      actSilence := v.actSilence, actLate := v.actLate }).heard.replying 0x08 .ok
        (eventSettings v))) ∧
    (∀ (s : State) (e3 e2 e1 e0 a b c : Byte), s.Open → 2 < a.toNat ∨ 2 < b.toNat ∨ 2 < c.toNat →
      exec (.eventsSetup .own [e3, e2, e1, e0, a, b, c]) s =
        .next (s.answeredBare 0x08 .badField)) ∧
      (∀ (s : State) (k : Byte), s.Open → 5 < k.toNat →
        exec (.eventsRead .own [k]) s = .next (s.answeredBare 0x09 .badField)) ∧
      ∀ (s : State) (g : Nat), s.Open → g ≤ 5 →
        ∃ t, exec (.eventsRead .own [byte g]) s = .next t ∧
          t = (s.setEvents t.events).heard.replying 0x09 .ok
            ((if g = 0 then [] else [byte (groupFlags s.events.flags g)]) ++
              [byte (groupSummary t.events.flags), byte s.seq.notices.length] ++
              eventSettings s.events) ∧
            t.events = { s.events with flags := t.events.flags } ∧
              (∀ e : Event, t.flagged e = (s.flagged e &&
                !(decide ((groupSpan g).1 ≤ e.index.val) &&
                  decide (e.index.val < (groupSpan g).1 + (groupSpan g).2)))) ∧
              (∀ h : Nat, 1 ≤ h → h ≤ 5 →
                ((groupSummary t.events.flags).testBit (h - 1) = true ↔ ∃ e : Event,
                  t.flagged e = true ∧ (groupSpan h).1 ≤ e.index.val ∧
                    e.index.val < (groupSpan h).1 + (groupSpan h).2))

/-- ATTN is driven low exactly while, with RESETn high, an enabled flag is pending or a notice waits
with notice reporting enabled (R189). -/
def Obligations.AttentionFollows : Prop :=
  ∀ s : State, s.attention = true ↔ s.resetLow = false ∧
    ((∃ e : Event, s.flagged e = true ∧ s.events.enables.getLsbD e.index.val = true) ∨
      (s.seq.notices ≠ [] ∧ s.events.noticeEnable = true))

/-- RESETn going low writes the restart record from the state it finds, or, where a link restart falls
together with it, two records in turn, keeps the retained memory, brings the part up in SAFE or EDIT by
the live flag, samples the straps, and sets every block's running state
afresh, the pins keeping their levels; RESETn returning high lets the part go (R4, R10, R89, R148, R157,
R172, R174, R186, R192, R194, R195). That the characters still to be judged are lost is log entry 5
(DEDUCED). -/
def Obligations.ResetPinTaken : Prop :=
  (∀ (s : State) (x : BitVec 5), s.resetLow = false →
    ∃ t, exec (.resetPin x) s = .next t ∧ t.resetLow = true ∧ t.retained = s.retained ∧
      t.Afresh ∧ (s.link.restartDue = false → s.RestartedBy t .resetPin) ∧
      (s.link.restartDue = true → t.restart.count = countUp 255 (countUp 255 s.restart.count) ∧
        ∃ u : State, s.RestartedBy u .resetPin ∧ u.cues = s.cues ∧ u.RestartedBy t .linkRestart) ∧
      t.link.address = x ∧ t.attention = false ∧
      t.driving = false ∧ t.link.line = [] ∧ t.clock.line = [] ∧ t.surface.wipers = s.surface.wipers ∧
      (∀ f, (t.surface.touch.get f).level = (s.surface.touch.get f).level ∧
        (t.surface.keys.get f).level = (s.surface.keys.get f).level) ∧
      (∀ l, (t.contact l).high = (s.contact l).high) ∧
      t.pending = s.pending ∧ t.inputs = s.inputs) ∧
    (∀ s : State, exec .resetPinRelease s = .next (s.setResetLow false)) ∧
    ∀ s : State, s.link.restartDue = true ↔
      (∃ x, s.link.sending = some x ∧ x.left ≤ 0) ∧
        ∃ e rest, s.link.buffer = e :: rest ∧ e.after = .linkRestart

/-- At power-on the retained memory takes its power-on values, spelled out below: the channel
configuration of R2, no cue and a free pool of 2048, the clock settings of R126, empty banks with bank 1
active, the scanner, contact and output configurations of R146, R155 and R170, every strip unrouted, no
silence limit, enables clear and acts NONE, and a restart record of cause POWER_ON. Every block's running
state is set afresh, and the part comes up in EDIT with RESTARTED alone pending (R44, R89, R133, R162, R174,
R183, R190, R192, R194, R195). What the pins show, and the queues of commands and inputs, stay (log entries
5 and 23). -/
def Obligations.PowerOnRestores : Prop :=
  ∀ (s : State) (x : BitVec 5), ∃ t, exec (.powerOn x) s = .next t ∧
    t.retained = State.reset.retained ∧ t.Afresh ∧ t.seq = State.reset.seq ∧
      t.clock = State.reset.clock ∧ t.channels = State.reset.channels ∧
        t.output = State.reset.output ∧
    (∀ c, (t.chan c).cfg = { group := none, base := -800, trim := 0, muteRamp := 10, release := .ret
                             returnTime := 500 }) ∧
    t.cues = [] ∧ poolFree t.cues = 2048 ∧
    t.clock.cfg = { markDelay := 0, lockWindow := 20, relocate := 100, markTimeout := 100
                    freewheel := 2000, phaseDepth := 2, rateDepth := 6 } ∧
    t.surface.cfg = { mode := .sequential, period := 2, hysteresis := 2, tolerance := 8
                      qualify := 3 } ∧
    (∀ k f, (t.surface.banks.get k).get f = none) ∧ t.surface.activeBank = 0 ∧
    (∀ f, t.fader f = { position := 0, state := .free, mapping := none, pending := none
                        disagree := false }) ∧
    t.contacts.cfg.qualify = 5 ∧ t.contacts.cfg.guard = 500 ∧ (∀ l, t.polarity l = .activeLow) ∧
    t.output.stored.period = 2 ∧ (∀ n, t.output.stored.dividers.get n = 7) ∧
    (∀ p, t.output.routes.get p = none) ∧
    t.link.limit = 0 ∧ t.link.watchdog = .off ∧ t.link.address = x ∧
    t.events.enables = 0 ∧ t.events.noticeEnable = false ∧ t.events.actLost = .none ∧
    t.events.actSilence = .none ∧ t.events.actLate = .none ∧
    (t.seq.state = .edit ∧ t.seq.ret = .edit ∧ t.seq.next = none ∧ t.seq.standing = none) ∧
    t.restart = { cause := .powerOn, live := false, standing := none, next := none, count := 0 } ∧
    t.pending = s.pending ∧ t.inputs = s.inputs ∧ t.resetLow = s.resetLow ∧
    t.surface.wipers = s.surface.wipers ∧
    (∀ f, (t.surface.touch.get f).level = (s.surface.touch.get f).level ∧
      (t.surface.keys.get f).level = (s.surface.keys.get f).level) ∧
    ∀ l, (t.contact l).high = (s.contact l).high

/-! ### Channels -/

/-- CHANNEL_SETUP writes a channel's whole configuration record, TRIM its trim and MUTE_REMOTE its REMOTE
source, each number brought into its range with OK_CLAMPED; the running state and everything else stay
(R12 to R16). A channel outside 1..56, a group above 8, a group other than 0 on a group master, or an
unknown release mode or action is refused BAD_FIELD. -/
def Obligations.ChannelRequests : Prop :=
  (∀ (s : State) (c : Chan), s.Open →
    (∀ (g : Option (Fin 8)) (b1 b0 t1 t0 m1 m0 x1 x0 : Byte) (r : ReleaseMode) (k : ChannelConfig),
      (g ≠ none → isStrip c = true) →
        k = { group := g, base := max (-800) (min 100 (b1 ++ b0).toInt)
              trim := max (-200) (min 100 (t1 ++ t0).toInt), muteRamp := min (m1 ++ m0).toNat 250
              release := r, returnTime := min (x1 ++ x0).toNat 5000 } →
          exec (.channelSetup .own [byte (c.val + 1), g.elim 0 fun i => byte (i.val + 1), b1, b0, t1, t0,
              m1, m0, r.code, x1, x0]) s =
            .next ((s.setChan c { s.chan c with cfg := k }).heard.replying 0x10
              (if k.base = (b1 ++ b0).toInt ∧ k.trim = (t1 ++ t0).toInt ∧
                  k.muteRamp = (m1 ++ m0).toNat ∧ k.returnTime = (x1 ++ x0).toNat
                then .ok else .okClamped) (configBytes k))) ∧
    (∀ (hi lo : Byte) (v : Int), v = max (-200) (min 100 (hi ++ lo).toInt) →
      exec (.trim .own [byte (c.val + 1), hi, lo]) s =
        .next ((s.setChan c { s.chan c with cfg := { (s.chan c).cfg with trim := v } }).heard.replying
          0x11 (if v = (hi ++ lo).toInt then .ok else .okClamped) (int2 v))) ∧
    ∀ set : Bool, ∃ t, exec (.muteRemote .own [byte (c.val + 1), flag set]) s = .next t ∧
      t = (s.setChan c { s.chan c with remote := set }).heard.replying 0x12 .ok
        [byte (t.muteSources c)]) ∧
  ∀ (s : State) (ch : Byte), s.Open →
    (∀ g r b1 b0 t1 t0 m1 m0 x1 x0 : Byte,
      ch.toNat = 0 ∨ 56 < ch.toNat ∨ 8 < g.toNat ∨ 48 < ch.toNat ∧ g.toNat ≠ 0 ∨ 1 < r.toNat →
        exec (.channelSetup .own [ch, g, b1, b0, t1, t0, m1, m0, r, x1, x0]) s =
          .next (s.answeredBare 0x10 .badField)) ∧
    (∀ hi lo : Byte, ch.toNat = 0 ∨ 56 < ch.toNat →
      exec (.trim .own [ch, hi, lo]) s = .next (s.answeredBare 0x11 .badField)) ∧
    ∀ a : Byte, ch.toNat = 0 ∨ 56 < ch.toNat ∨ 1 < a.toNat →
      exec (.muteRemote .own [ch, a]) s = .next (s.answeredBare 0x12 .badField)

/-- LEVEL: the active move, if any, is reported REPLACED to its owner, and a REMOTE WALL move from A
takes the channel, or with time 0 A becomes the target at once; the pending list and everything else stay,
and target and time are brought into their ranges with OK_CLAMPED (R105). A channel outside 1..56 or an
unknown curve is refused BAD_FIELD. The clauses on a move taken are stated while no wait of 0 is left to
expire. -/
def Obligations.LevelStartsMove : Prop :=
  (∀ (s : State) (c : Chan) (k : Curve) (b1 b0 d2 d1 d0 : Byte) (target : Int) (time : Nat), s.Open →
    target = max (-800) (min 100 (b1 ++ b0).toInt) → time = min (d2 ++ d1 ++ d0).toNat 600000 →
      (s.reportActive c).waitDue = false →
        exec (.level .own [byte (c.val + 1), b1, b0, d2, d1, d0, k.code]) s =
          .next (State.replying
            ((s.reportActive c).setChan c
              (if time = 0 then { s.chan c with level := target, active := none }
              else { s.chan c with
                level := if k = .snapStart then target else (s.chan c).level
                active := some { target, duration := time, curve := k, base := .wall,
                                 owner := .remote, start := (s.chan c).level, elapsed := 0 } })).heard
            0x14 (if target = (b1 ++ b0).toInt ∧ time = (d2 ++ d1 ++ d0).toNat then .ok else .okClamped)
            (int2 target ++ bytesOf 3 time ++ int2 (s.chan c).level ++
              ownerField ((s.chan c).active.map ActiveMove.owner)))) ∧
    ∀ (s : State) (ch b1 b0 d2 d1 d0 k : Byte), s.Open →
      ch.toNat = 0 ∨ 56 < ch.toNat ∨ 5 < k.toNat →
        exec (.level .own [ch, b1, b0, d2, d1, d0, k]) s = .next (s.answeredBare 0x14 .badField)

/-! ### The cue store -/

/-- CUE_PUT with good fields creates the cue, or replaces its header keeping its moves only under the
keep-moves flag; an unused field is stored as 0, wait and position are brought into their ranges with
OK_CLAMPED, no other cue changes, and nothing else does (R50 to R52). Stated of a cue that no crossing has
fired in this millisecond (log entry 26). -/
def Obligations.CuePutStores : Prop :=
  ∀ (s : State) (n wait song position : Nat) (g : Trigger) (b : Timebase) (flags : Byte), s.Open →
    s.ListInOrder → CuePutGood n g wait song position → s.seq.scan = none → ¬ s.Armed n →
      (findCue s.cues n = none → s.cues.length < 512) →
        ∃ t q, exec (.cuePut .own (cuePutBody n g b wait song position flags)) s = .next t ∧
          t = (s.setCues t.cues).heard.replying 0x20
            (if (g = .follow ∨ g = .withCue) ∧ 600000 < wait ∨ g = .clock ∧ 5999999 < position
              then .okClamped else .ok) (headerBytes q) ∧
          findCue t.cues n = some q ∧
          q = { number := n, trigger := g, base := b
                wait := if g = .follow ∨ g = .withCue then min wait 600000 else 0
                song := if g = .clock then song else 0
                position := if g = .clock then min position 5999999 else 0
                moves := if flags.getLsbD 0 then ((findCue s.cues n).map Cue.moves).getD [] else [] } ∧
          (∀ k, k ≠ n → findCue t.cues k = findCue s.cues k) ∧
          t.cues.length = s.cues.length + if findCue s.cues n = none then 1 else 0

/-- MOVES_ADD of 1 to 24 moves appends them, in order, to their cue's move list, each with its numbers
brought into their ranges, OK_CLAMPED telling so; the reply carries position 0, the move count and the free
count (log entry 8: DESIGN CHOICE), and nothing else changes (R53, R54). Stated of a cue that no crossing
has fired in this millisecond (log entry 26). -/
def Obligations.MovesAddAppends : Prop :=
  ∀ (s : State) (n : Nat) (q : Cue) (ms : List StoredMove), s.Open → 1 ≤ n → n ≤ 9999 →
    s.seq.scan = none → findCue s.cues n = some q → ¬ s.Armed n → s.ListInOrder → 1 ≤ ms.length →
      ms.length ≤ 24 → q.moves.length + ms.length ≤ 64 → ms.length ≤ poolFree s.cues →
        (∀ c, (namedMoves (q.moves ++ ms) c) ≤ 4) → (∀ m ∈ ms, m.Fits) →
          ∃ t, exec (.movesAdd .own (bytesOf 2 n ++ ms.flatMap (moveBytes q.base))) s = .next t ∧
            t = (s.setCues t.cues).heard.replying 0x21
              (if ms.any StoredMove.beyond then .okClamped else .ok)
              ([0, byte (q.moves.length + ms.length)] ++ bytesOf 2 (poolFree t.cues)) ∧
            findCue t.cues n = some { q with moves := q.moves ++ ms.map StoredMove.kept } ∧
            ∀ k, k ≠ n → findCue t.cues k = findCue s.cues k

/-- CUE_DELETE removes the cue and no other, moves next to its successor and clears standing where
they named it; for a new next cue in SHOW and HOLD the arm becomes CLOCK for a CLOCK cue and otherwise
empty; the reply carries the free count and the playhead. LIST_CLEAR in EDIT empties the store and the
playhead (R47, R55, R56). Stated of a cue that no crossing has fired in this millisecond (log entry 26). -/
def Obligations.CuesRemoved : Prop :=
  (∀ (s : State) (n : Nat) (q : Cue), s.Open → 1 ≤ n → n ≤ 9999 → s.seq.scan = none →
    findCue s.cues n = some q → ¬ s.Armed n →
      ∃ t, exec (.cueDelete .own (bytesOf 2 n)) s = .next t ∧
        t = (((s.setCues t.cues).setSeq t.seq).setClock t.clock).heard.replying 0x22 .ok
          (bytesOf 2 (poolFree t.cues) ++ cueField t.seq.next ++ cueField t.seq.standing) ∧
        findCue t.cues n = none ∧ (∀ k, k ≠ n → findCue t.cues k = findCue s.cues k) ∧
        t.seq = { s.seq with next := t.seq.next, standing := t.seq.standing, arm := t.seq.arm } ∧
        t.seq.next = (if s.seq.next = some n then cueAfter s.cues n else s.seq.next) ∧
        t.seq.standing = (if s.seq.standing = some n then none else s.seq.standing) ∧
        (s.seq.next ≠ some n ∨ s.seq.state = .edit ∨ s.seq.state = .safe →
          t.seq.arm = s.seq.arm ∧ t.clock = s.clock) ∧
        (s.seq.next = some n → s.seq.state = .running ∨ s.seq.state = .hold →
          t.clock = { s.clock with point := t.seq.arm.point } ∧
          (t.seq.next.bind (findCue t.cues) = none → t.seq.arm = .empty) ∧
          ∀ d, t.seq.next.bind (findCue t.cues) = some d →
            t.seq.arm = if d.trigger = .clock then .clock d.song d.position else .empty)) ∧
    ∀ s : State, s.Open → s.seq.scan = none → s.seq.state = .edit →
      exec (.listClear .own []) s =
        .next (((s.setCues []).setSeq { s.seq with next := none, standing := none }).heard.replying
          0x23 .ok [])

/-- The refusals of the edits in the order of their checks, each changing nothing: BAD_FIELD, BUSY,
NO_CUE, ARMED, WRONG_STATE, LIST_FULL, CUE_FULL, CHANNEL_CROWDED and POOL_FULL, with the position of the
first move that a MOVES_ADD stops at (R45, R46, R53, R54). A MOVES_ADD refusal carries its counts too, and
its cue number is judged before its moves (log entry 8: DESIGN CHOICE); an edit of a cue that a crossing
has fired in this millisecond is refused ARMED (log entry 26: DESIGN CHOICE). -/
def Obligations.EditsRefused : Prop :=
  ∀ s : State, s.Open →
    (∀ (n : Nat) (trigger base song : Byte) (rest positions : List Byte) (flags : Byte),
      n < 65536 → rest.length = 3 → positions.length = 3 →
        n = 0 ∨ 9999 < n ∨ 3 < trigger.toNat ∨ 1 < base.toNat ∨
          trigger.toNat = 3 ∧ 99 < song.toNat →
          exec (.cuePut .own
              (bytesOf 2 n ++ [trigger, base] ++ rest ++ [song] ++ positions ++ [flags])) s =
            .next (s.answeredBare 0x20 .badField)) ∧
    (∀ (n wait song position : Nat) (g : Trigger) (b : Timebase) (flags : Byte) (r : Result),
      CuePutGood n g wait song position →
        (r = .busy ∧ s.seq.scan ≠ none ∨ s.seq.scan = none ∧
          (r = .armed ∧ s.Armed n ∨
            r = .listFull ∧ ¬ s.Armed n ∧ findCue s.cues n = none ∧ 512 ≤ s.cues.length)) →
          exec (.cuePut .own (cuePutBody n g b wait song position flags)) s =
            .next (s.answeredBare 0x20 r)) ∧
    (∀ (n : Nat) (r : Result), n < 65536 →
      (r = .badField ∧ (n = 0 ∨ 9999 < n) ∨ 1 ≤ n ∧ n ≤ 9999 ∧
        (r = .busy ∧ s.seq.scan ≠ none ∨ s.seq.scan = none ∧
          (r = .noCue ∧ findCue s.cues n = none ∨
            r = .armed ∧ findCue s.cues n ≠ none ∧ s.Armed n))) →
        exec (.cueDelete .own (bytesOf 2 n)) s = .next (s.answeredBare 0x22 r)) ∧
    (s.seq.scan ≠ none → exec (.listClear .own []) s = .next (s.answeredBare 0x23 .busy)) ∧
    (s.seq.scan = none → s.seq.state ≠ .edit →
      exec (.listClear .own []) s = .next (s.answeredBare 0x23 .wrongState)) ∧
    (∀ (n j : Nat) (ms : List StoredMove) (base : Timebase) (c k : Byte) (tail rest : List Byte),
      n < 65536 → (∀ m ∈ ms, m.Fits) → tail.length = 8 → rest.length = 10 * j → ms.length + 1 + j ≤ 24 →
        c.toNat = 0 ∨ 56 < c.toNat ∨ k.toNat % 4 = 3 ∨ k.toNat % 4 = 0 ∧ 5 < k.toNat / 4 % 8 →
          exec (.movesAdd .own (bytesOf 2 n ++ ms.flatMap (moveBytes base) ++ (c :: k :: tail ++ rest))) s =
            .next (s.heard.replying 0x21 .badField
              ([byte (if n = 0 ∨ 9999 < n then 0 else ms.length + 1), byte (s.movesHeld n)] ++
                bytesOf 2 (poolFree s.cues)))) ∧
    ∀ (n : Nat) (ms : List StoredMove) (base : Timebase) (r : Result) (position : Nat), n < 65536 →
      1 ≤ ms.length → ms.length ≤ 24 → (∀ m ∈ ms, m.Fits) →
        (r = .badField ∧ position = 0 ∧ (n = 0 ∨ 9999 < n) ∨ 1 ≤ n ∧ n ≤ 9999 ∧
          (r = .busy ∧ position = 0 ∧ s.seq.scan ≠ none ∨ s.seq.scan = none ∧
            (r = .noCue ∧ position = 0 ∧ findCue s.cues n = none ∨
              ∃ q, findCue s.cues n = some q ∧
                (r = .armed ∧ position = 0 ∧ s.Armed n ∨ ¬ s.Armed n ∧
                  (r = .cueFull ∧ 64 < q.moves.length + ms.length ∧
                      position = 65 - q.moves.length ∨
                    q.moves.length + ms.length ≤ 64 ∧
                      ((r = .channelCrowded ∧ ∃ l m more, ms = l ++ m :: more ∧
                          position = l.length + 1 ∧ 4 ≤ namedMoves (q.moves ++ l) m.channel ∧
                            ∀ l' m' more', l = l' ++ m' :: more' →
                              namedMoves (q.moves ++ l') m'.channel < 4) ∨
                        r = .poolFull ∧ position = poolFree s.cues + 1 ∧
                          poolFree s.cues < ms.length ∧
                          ∀ l m more, ms = l ++ m :: more →
                            namedMoves (q.moves ++ l) m.channel < 4)))))) →
          exec (.movesAdd .own (bytesOf 2 n ++ ms.flatMap (moveBytes base))) s =
            .next (s.heard.replying 0x21 r
              ([byte position, byte (s.movesHeld n)] ++ bytesOf 2 (poolFree s.cues)))

/-! ### The show -/

/-- SHOW_START from EDIT begins the show at next, or at the first cue, and arms a CLOCK next cue;
SHOW_END from SHOW with no firing in flight empties the arm and returns to EDIT; HOLD holds a show in
SHOW; each change of state raises STATE_CHANGE. Their refusals, in the order of their checks, are BUSY,
WRONG_STATE, EMPTY_LIST and IN_FLIGHT, and change nothing (R60 to R63, R76). That SHOW_END clears the
model's note of a crossing of the same millisecond is log entry 26 (DESIGN CHOICE). -/
def Obligations.ShowStates : Prop :=
  (∀ (s : State) (n : Nat) (q : Cue), s.Open → s.seq.scan = none → s.seq.state = .edit →
    s.cues ≠ [] → s.seq.next.or (firstCue s.cues) = some n → findCue s.cues n = some q →
      ∃ arm, exec (.showStart .own []) s =
          .next ((((s.setSeq { s.seq with state := .running, next := some n, arm }).setClock
            { s.clock with point := arm.point }).raise .stateChange).heard.replying 0x30 .ok
              (bytesOf 2 n ++ cueField s.seq.standing)) ∧
        arm = if q.trigger = .clock then .clock q.song q.position else .empty) ∧
    (∀ s : State, s.Open → s.seq.scan = none → s.seq.state = .running → s.seq.flight = [] →
      exec (.showEnd .own []) s =
        .next ((((s.setSeq { s.seq with state := .edit, arm := .empty, crossed := none }).setClock
          { s.clock with point := none }).raise .stateChange).heard.replying 0x31 .ok [])) ∧
    (∀ s : State, s.Open → s.seq.state = .running →
      exec (.hold .own []) s =
        .next (((s.setSeq { s.seq with state := .hold }).raise .stateChange).heard.replying 0x34 .ok
          [])) ∧
    ∀ (s : State) (r : Result), s.Open →
      ((r = .busy ∧ s.seq.scan ≠ none ∨ s.seq.scan = none ∧
          (r = .wrongState ∧ s.seq.state ≠ .edit ∨
            r = .emptyList ∧ s.seq.state = .edit ∧ s.cues = [])) →
        exec (.showStart .own []) s = .next (s.answeredBare 0x30 r)) ∧
      ((r = .busy ∧ s.seq.scan ≠ none ∨ s.seq.scan = none ∧
          (r = .wrongState ∧ s.seq.state ≠ .running ∨
            r = .inFlight ∧ s.seq.state = .running ∧ s.seq.flight ≠ [])) →
        exec (.showEnd .own []) s = .next (s.answeredBare 0x31 r)) ∧
      (s.seq.state ≠ .running → exec (.hold .own []) s = .next (s.answeredBare 0x34 .wrongState))

/-- RESUME from HOLD, and a GO taken in HOLD from the link or the contact, return to SHOW: an arm that is
set is kept, an empty one becomes CLOCK for a CLOCK next cue, nothing fires while no wait stands at 0, and
the GO restarts the gate time. A wait that stands at 0 expires at that instant and fires the next cue with
cause FOLLOW or WITH, told as in WaitExpires; that the GO's reply then carries next as it stands after that
firing is log entry 9 (DEDUCED). RESUME in any other state is refused WRONG_STATE (R64, R70, R76, R77,
R151). -/
def Obligations.HoldResumes : Prop :=
  (∀ (s : State), s.resetLow = false → s.seq.state = .hold → (∀ b, s.seq.arm ≠ .waiting 0 b) →
    ∃ arm : Arm,
      (s.seq.arm ≠ .empty ∨ s.seq.scan ≠ none → arm = s.seq.arm) ∧
      (s.seq.arm = .empty → s.seq.scan = none →
        (s.seq.next.bind (findCue s.cues) = none → arm = .empty) ∧
        ∀ d, s.seq.next.bind (findCue s.cues) = some d →
          arm = if d.trigger = .clock then .clock d.song d.position else .empty) ∧
      (s.Open → exec (.resume .own []) s =
        .next ((((s.setSeq { s.seq with state := .running, arm }).setClock { s.clock with
          point := if s.seq.arm = .empty ∧ s.seq.scan = none then arm.point
                   else s.clock.point }).raise .stateChange).heard.replying 0x35 .ok [])) ∧
      (s.seq.scan = none → s.contacts.cfg.guard ≤ s.seq.gateTime → ∀ resumed : State,
        resumed = ((s.setSeq { s.seq with state := .running, arm, gateTime := 0 }).setClock
          { s.clock with
            point := if s.seq.arm = .empty then arm.point else s.clock.point }).raise .stateChange →
        (s.Open → ∀ x y : Byte, (x ++ y).toNat ≤ 9999 → exec (.go .own [x, y]) s =
          .next (resumed.heard.replying 0x32 .ok
            (bytesOf 2 0 ++ bytesOf 2 0 ++ cueField s.seq.next))) ∧
        ((s.contact .cgo).qualified = false → ∃ t, exec .contactGoPress s = .next t ∧
          t = resumed.setContacts t.contacts ∧ t.contacts.ignored = s.contacts.ignored ∧
          (t.contact .cgo).qualified = true))) ∧
    (∀ (s : State) (cue : Cue) (b : Timebase), s.resetLow = false → s.seq.state = .hold →
      s.seq.arm = .waiting 0 b → s.NextTold cue → cue.trigger = .follow ∨ cue.trigger = .withCue →
        (s.Open → ∃ t, exec (.resume .own []) s = .next t ∧
          s.FiringTold t cue (if cue.trigger = .follow then .follow else .withCue) ∧
          t.seq.state = .running ∧ t.Raised .stateChange ∧ t.seq.gateTime = s.seq.gateTime ∧
          t.link = (s.heard.replying 0x35 .ok []).link ∧ t.surface = s.surface ∧
          t.contacts = s.contacts ∧ t.output = s.output ∧ t.cues = s.cues) ∧
        (s.seq.scan = none → s.contacts.cfg.guard ≤ s.seq.gateTime →
          (s.Open → ∀ x y : Byte, (x ++ y).toNat ≤ 9999 → ∃ t, exec (.go .own [x, y]) s = .next t ∧
            s.FiringTold t cue (if cue.trigger = .follow then .follow else .withCue) ∧
            t.seq.state = .running ∧ t.Raised .stateChange ∧ t.seq.gateTime = 0 ∧
            t.link = (s.heard.replying 0x32 .ok (bytesOf 2 0 ++ bytesOf 2 0 ++
              cueField (cueAfter s.cues cue.number))).link) ∧
          ((s.contact .cgo).qualified = false → ∃ t, exec .contactGoPress s = .next t ∧
            s.FiringTold t cue (if cue.trigger = .follow then .follow else .withCue) ∧
            t.seq.state = .running ∧ t.Raised .stateChange ∧ t.seq.gateTime = 0 ∧
            t.contacts.ignored = s.contacts.ignored ∧ t.link = s.link))) ∧
    ∀ s : State, s.Open → s.seq.state ≠ .hold →
      exec (.resume .own []) s = .next (s.answeredBare 0x35 .wrongState)

/-- STOP in SHOW and HOLD, and SAFE from EDIT, SHOW and HOLD, clear every move and firing and empty
the arm, with one CLEARED notice for each firing, oldest first; STOP keeps the show state, SAFE sets the
return state; in SAFE a SAFE request changes nothing, and STOP in EDIT and SAFE is refused WRONG_STATE
(R65, R81, R108). A notice that finds 16 held is discarded, each one counted up to 255, with
NOTICE_OVERFLOW raised (R86). That a crossing of this millisecond is over with them is log entry 26 (DESIGN
CHOICE). -/
def Obligations.StopAndSafeClear : Prop :=
  (∀ (s : State) (room lost : Nat), s.Open → room = 16 - s.seq.notices.length →
    lost = s.seq.flight.length - room → ∀ kept cleared : State,
      kept = ((s.setChannels (s.channels.map fun r =>
        { r with active := none, waiting := [] })).setSeq { s.seq with
          flight := [], arm := .empty, crossed := none
          overflow := max s.seq.overflow (min 255 (s.seq.overflow + lost))
          notices := s.seq.notices ++ (s.seq.flight.take room).map fun f =>
            { kind := .cleared, cue := f.cue, firing := f.id, cause := none } }).setClock
              { s.clock with point := none } →
      cleared = (if lost = 0 then kept else kept.raise .noticeOverflow) →
      (s.seq.state = .running ∨ s.seq.state = .hold →
        exec (.stop .own []) s =
          .next (cleared.heard.replying 0x36 .ok [byte s.seq.flight.length])) ∧
      (s.seq.state ≠ .safe → exec (.safe .own []) s =
        .next (((cleared.setSeq { cleared.seq with
          state := .safe, ret := if s.seq.state = .edit then .edit else .hold }).raise
            .stateChange).heard.replying 0x37 .ok []))) ∧
    ∀ s : State, s.Open →
      (s.seq.state = .safe → exec (.safe .own []) s = .next (s.answeredBare 0x37 .ok)) ∧
      (s.seq.state = .edit ∨ s.seq.state = .safe →
        exec (.stop .own []) s = .next (s.answeredBare 0x36 .wrongState))

/-- SAFE_RELEASE leaves SAFE for the return state, which then reads EDIT; into HOLD with no scan in
flight the arm is set for the next cue, a FOLLOW cue's wait running at once, and is empty without one.
In any other state it is refused WRONG_STATE (R66, R76, R85). -/
def Obligations.SafeReleased : Prop :=
  (∀ s : State, s.Open → s.seq.state = .safe →
    (s.seq.ret = .edit → exec (.safeRelease .own []) s =
      .next (((s.setSeq { s.seq with state := .edit }).raise .stateChange).heard.replying 0x38 .ok
        [0])) ∧
    (s.seq.ret = .hold → s.seq.scan ≠ none → exec (.safeRelease .own []) s =
      .next (((s.setSeq { s.seq with state := .hold, ret := .edit }).raise
        .stateChange).heard.replying 0x38 .ok [2])) ∧
    (s.seq.ret = .hold → s.seq.scan = none → ∃ arm : Arm,
      exec (.safeRelease .own []) s =
        .next ((((s.setSeq { s.seq with state := .hold, ret := .edit, arm }).setClock
          { s.clock with point := arm.point }).raise .stateChange).heard.replying 0x38 .ok [2]) ∧
      (s.seq.next = none → arm = .empty) ∧
      ∀ (n : Nat) (q : Cue), s.seq.next = some n → findCue s.cues n = some q →
        arm = match q.trigger with
          | .manual => .empty
          | .follow | .withCue => .waiting (q.wait * 65536) q.base
          | .clock => .clock q.song q.position)) ∧
    ∀ s : State, s.Open → s.seq.state ≠ .safe →
      exec (.safeRelease .own []) s = .next (s.answeredBare 0x38 .wrongState)

/-- A GO taken in SHOW fires the next cue, whatever its trigger: from the link with the reply of
R69 and cause GO_LINK, from the GO contact with cause GO_CONTACT; the gate time becomes 0. Playhead, firing
id, flight table with the retirement of the oldest of eight, notices, arm and channels follow R67 to R75,
R92 to R97, R100, R109 and R151. Stated for a cue whose successor is absent, MANUAL, CLOCK or WITH after a
wait, or whose moves all have a delay and whose successor does not follow at once; and for one whose
successor follows at once, with the same GO, and is the last of its chain (R77): the first firing of the two
leaves its flight table, notices and event flags as a firing at which no move ends does, and the second finds
them so, retiring the oldest of the eight that the first may have left (R73). Firing ids run from 1 to 65535
and begin again at 1 (R71). That the moves of delay 0 of the first firing of a chain start before the cue of
wait 0 fires is log entry 6 (DESIGN CHOICE), and that the GO's reply carries next after the whole chain, log
entry 9 (DEDUCED). -/
def Obligations.GoFires : Prop :=
  (∀ id : Nat, idAfter id = if id < 65535 then id + 1 else 1) ∧
  (∀ (s : State) (cue : Cue), s.seq.state = .running → s.seq.scan = none →
    s.contacts.cfg.guard ≤ s.seq.gateTime → s.NextTold cue → cue.number ≤ 9999 →
      (∀ expected : Nat, expected = 0 ∨ expected = cue.number → s.Open →
        ∃ t, exec (.go .own (bytesOf 2 expected)) s = .next t ∧ s.FiringTold t cue .goLink ∧
          t.seq.gateTime = 0 ∧ t.seq.state = .running ∧ t.seq.ret = s.seq.ret ∧
          t.surface = s.surface ∧ t.contacts = s.contacts ∧ t.output = s.output ∧
          t.cues = s.cues ∧ t.restart = s.restart ∧
          t.link = (s.heard.replying 0x32 .ok (bytesOf 2 cue.number ++ bytesOf 2 s.seq.nextId ++
            cueField (cueAfter s.cues cue.number))).link) ∧
      (s.resetLow = false → (s.contact .cgo).qualified = false →
        ∃ t, exec .contactGoPress s = .next t ∧ s.FiringTold t cue .goContact ∧
          t.seq.gateTime = 0 ∧ t.seq.state = .running ∧ t.seq.ret = s.seq.ret ∧
          t.surface = s.surface ∧ t.contacts.ignored = s.contacts.ignored ∧
          (t.contact .cgo).qualified = true ∧ t.output = s.output ∧ t.cues = s.cues ∧
          t.link = s.link)) ∧
  ∀ (s : State) (cue d : Cue), s.seq.state = .running → s.seq.scan = none →
    s.contacts.cfg.guard ≤ s.seq.gateTime → s.NextChained cue d → cue.number ≤ 9999 →
      (∀ expected : Nat, expected = 0 ∨ expected = cue.number → s.Open →
        ∃ t, exec (.go .own (bytesOf 2 expected)) s = .next t ∧ s.FiredChained t cue d .goLink ∧
          t.seq.gateTime = 0 ∧ t.seq.state = .running ∧
          t.link = (s.heard.replying 0x32 .ok (bytesOf 2 cue.number ++ bytesOf 2 s.seq.nextId ++
            cueField (cueAfter s.cues d.number))).link) ∧
      (s.resetLow = false → (s.contact .cgo).qualified = false →
        ∃ t, exec .contactGoPress s = .next t ∧ s.FiredChained t cue d .goContact ∧
          t.seq.gateTime = 0 ∧ t.seq.state = .running ∧
          t.contacts.ignored = s.contacts.ignored ∧ t.link = s.link)

/-- The refusals of GO in the order of R69, each leaving the gate time and the show as they are,
with firing and cue 0 in the reply; END_OF_LIST is raised with its refusal. -/
def Obligations.GoRefused : Prop :=
  ∀ (s : State) (x y : Byte), s.Open →
    (∀ r : Result,
      (r = .badField ∧ 9999 < (x ++ y).toNat) ∨
      ((x ++ y).toNat ≤ 9999 ∧
        ((r = .busy ∧ s.seq.scan ≠ none) ∨
        (r = .wrongState ∧ s.seq.scan = none ∧ (s.seq.state = .edit ∨ s.seq.state = .safe)) ∨
        (r = .guarded ∧ s.seq.scan = none ∧ (s.seq.state = .running ∨ s.seq.state = .hold) ∧
          s.seq.gateTime < s.contacts.cfg.guard) ∨
        (r = .mismatch ∧ s.seq.scan = none ∧ s.seq.state = .running ∧
          s.contacts.cfg.guard ≤ s.seq.gateTime ∧ s.seq.next ≠ none ∧ (x ++ y).toNat ≠ 0 ∧
          s.seq.next ≠ some (x ++ y).toNat))) →
      exec (.go .own [x, y]) s =
        .next (s.heard.replying 0x32 r (bytesOf 2 0 ++ bytesOf 2 0 ++ cueField s.seq.next))) ∧
    ((x ++ y).toNat ≤ 9999 → s.seq.scan = none → s.seq.state = .running →
      s.contacts.cfg.guard ≤ s.seq.gateTime → s.seq.next = none →
        exec (.go .own [x, y]) s =
          .next ((s.raise .endOfList).heard.replying 0x32 .endOfList
            (bytesOf 2 0 ++ bytesOf 2 0 ++ cueField none)))

/-- BACK in SHOW and HOLD moves next to the cue before it, or from none to the last cue, arming only
a CLOCK cue; with no cue before next it is refused END_OF_LIST, in a scan BUSY, and in EDIT and SAFE
WRONG_STATE, the reply carrying next after it; the contact does the same and its refusal is counted (R80,
R85, R152, R153). That a BACK taken ends a crossing of this millisecond is log entry 26 (DESIGN CHOICE). In a
list that is in order the cue before a number is the one of the greatest number smaller, the cue after it the
one of the least number greater, the first and the last cue those of the least and the greatest number, each
none where there is no such cue, and a number finds the one cue that bears it (R42, R67). -/
def Obligations.BackMoves : Prop :=
  (∀ (s : State) (n : Nat), s.ListInOrder →
    (∀ k, cueBefore s.cues n = some k ↔ (∃ q ∈ s.cues, q.number = k) ∧ k < n ∧
      ∀ q ∈ s.cues, q.number < n → q.number ≤ k) ∧
    (cueBefore s.cues n = none ↔ ∀ q ∈ s.cues, n ≤ q.number) ∧
    (∀ k, cueAfter s.cues n = some k ↔ (∃ q ∈ s.cues, q.number = k) ∧ n < k ∧
      ∀ q ∈ s.cues, n < q.number → k ≤ q.number) ∧
    (cueAfter s.cues n = none ↔ ∀ q ∈ s.cues, q.number ≤ n) ∧
    (∀ k, firstCue s.cues = some k ↔ (∃ q ∈ s.cues, q.number = k) ∧ ∀ q ∈ s.cues, k ≤ q.number) ∧
    (firstCue s.cues = none ↔ s.cues = []) ∧
    (∀ k, lastCue s.cues = some k ↔ (∃ q ∈ s.cues, q.number = k) ∧ ∀ q ∈ s.cues, q.number ≤ k) ∧
    (lastCue s.cues = none ↔ s.cues = []) ∧
    ∀ q, findCue s.cues n = some q ↔ q ∈ s.cues ∧ q.number = n) ∧
  (∀ (s : State), s.seq.scan = none → s.seq.state = .running ∨ s.seq.state = .hold →
    (∀ (n : Nat) (q : Cue), findCue s.cues n = some q →
      (s.seq.next = none ∧ lastCue s.cues = some n ∨
        ∃ k, s.seq.next = some k ∧ cueBefore s.cues k = some n) →
      ∀ arm : Arm, arm = (if q.trigger = .clock then .clock q.song q.position else .empty) →
      ∀ t : State, t = (s.setSeq { s.seq with next := some n, arm, crossed := none }).setClock
          { s.clock with point := arm.point } →
        (s.Open → exec (.back .own []) s = .next (t.heard.replying 0x33 .ok (bytesOf 2 n))) ∧
        (s.resetLow = false → (s.contact .cback).qualified = false →
          ∃ u, exec .contactBackPress s = .next u ∧ u = t.setContacts u.contacts ∧
            u.contacts.ignored = s.contacts.ignored ∧ (u.contact .cback).qualified = true)) ∧
    ((s.seq.next = none ∧ s.cues = [] ∨ ∃ k, s.seq.next = some k ∧ cueBefore s.cues k = none) →
      (s.Open → exec (.back .own []) s =
        .next ((s.raise .endOfList).heard.replying 0x33 .endOfList (cueField s.seq.next))) ∧
      (s.resetLow = false → (s.contact .cback).qualified = false →
        ∃ u, exec .contactBackPress s = .next u ∧ u = (s.setContacts u.contacts).setEvents u.events ∧
          u.contacts.ignored = countUp 255 s.contacts.ignored ∧ u.Raised .endOfList ∧
            u.Raised .goIgnored))) ∧
    ∀ (s : State) (r : Result), (r = .busy ∧ s.seq.scan ≠ none ∨
        r = .wrongState ∧ s.seq.scan = none ∧ (s.seq.state = .edit ∨ s.seq.state = .safe)) →
      (s.Open → exec (.back .own []) s =
        .next (s.heard.replying 0x33 r (cueField s.seq.next))) ∧
      (s.resetLow = false → (s.contact .cback).qualified = false →
        ∃ u, exec .contactBackPress s = .next u ∧ u = (s.setContacts u.contacts).raise .goIgnored ∧
          u.contacts.ignored = countUp 255 s.contacts.ignored ∧ (u.contact .cback).qualified = true)

/-- A GOTO taken starts a scan, empties the arm and holds its reply, and is refused BAD_FIELD, BUSY or
NO_CUE; the completion clears moves and firings with a CLEARED notice each, makes LOAD moves to the tracked
levels or sets A at load time 0, sets CUE by the tracked cue-mutes, places the playhead, sets the arm in
SHOW and HOLD, ends the scan and makes the reply ready (R76, R82 to R84, R107). That GOTO_COMPLETE ends a
scan of any age is log entry 17, and that it does nothing without one, log entry 4 (both DESIGN
CHOICE). -/
def Obligations.GotoLoads : Prop :=
  (∀ (s : State) (n time : Nat), s.Open → time ≤ 65535 →
    (1 ≤ n → n ≤ 9999 → s.seq.scan = none → findCue s.cues n ≠ none →
      exec (.gotoCue .own (bytesOf 2 n ++ bytesOf 2 time)) s =
        .next (((s.setSeq { s.seq with
          arm := .empty
          scan := some { cue := n, loadTime := min time 10000, clamped := decide (10000 < time),
                         age := 0 } }).setClock { s.clock with point := none }).heard.setLink
            { s.heard.link with buffer := s.link.buffer ++ [⟨none, .nothing⟩] })) ∧
    ∀ r : Result, n < 65536 → (r = .badField ∧ (n = 0 ∨ 9999 < n) ∨ 1 ≤ n ∧ n ≤ 9999 ∧
        (r = .busy ∧ s.seq.scan ≠ none ∨
          r = .noCue ∧ s.seq.scan = none ∧ findCue s.cues n = none)) →
      exec (.gotoCue .own (bytesOf 2 n ++ bytesOf 2 time)) s = .next (s.answeredBare 0x39 r)) ∧
    (∀ s : State, s.seq.scan = none → exec .gotoComplete s = .next s) ∧
    ∀ (s : State) (k : Scan), s.resetLow = false → s.seq.scan = some k →
      ∃ t, exec .gotoComplete s = .next t ∧ t.seq.scan = none ∧ t.seq.standing = some k.cue ∧
        t.seq.next = cueAfter s.cues k.cue ∧ t.seq.flight = [] ∧ t.seq.state = s.seq.state ∧
        (s.seq.notices.length + s.seq.flight.length ≤ 16 → t.seq.notices = s.seq.notices ++
          s.seq.flight.map fun f =>
            { kind := .cleared, cue := f.cue, firing := f.id, cause := none }) ∧
        t.surface = s.surface ∧ t.output = s.output ∧ t.cues = s.cues ∧ t.contacts = s.contacts ∧
        t.link = { s.link with buffer := s.link.buffer.map fun e => if e.reply = none then
          { e with reply := some ⟨0x39, (if k.clamped then Result.okClamped else .ok).code,
              cueField t.seq.next ++ cueField t.seq.standing⟩ } else e } ∧
        t.clock = { s.clock with point := t.seq.arm.point } ∧
        (s.seq.state = .edit ∨ s.seq.state = .safe → t.seq.arm = .empty) ∧
        (s.seq.state = .running ∨ s.seq.state = .hold →
          (t.seq.next.bind (findCue t.cues) = none → t.seq.arm = .empty) ∧
          ∀ d, t.seq.next.bind (findCue t.cues) = some d →
            t.seq.arm = if d.trigger = .clock then .clock d.song d.position else .empty) ∧
        ∀ (c : Chan) (v : Int), v = trackedLevel s.cues k.cue c (s.chan c).cfg.base →
          (t.chan c).waiting = [] ∧ (t.chan c).cue = trackedMute s.cues k.cue c ∧
          (t.chan c).level = (if k.loadTime = 0 then v else (s.chan c).level) ∧
          (t.chan c).active = (if k.loadTime = 0 ∨ (s.chan c).level = v then none
            else some { target := v, duration := k.loadTime, curve := .linear, base := .wall,
                        owner := .load, start := (s.chan c).level, elapsed := 0 }) ∧
          (t.chan c).hand = (s.chan c).hand

/-- The tracked level and cue-mute. The last cue at or below the chosen one that has a LEVEL move for
the channel gives the level, by its move of greatest delay and, among equals, the last in its list; the
base level when no cue has one. The cue-mute is given in the same way by MUTE and UNMUTE moves, unmuted
when no cue has one (R83). -/
def Obligations.TrackedValues : Prop :=
  ∀ (cues : List Cue) (k : Nat) (c : Chan) (base : Int),
    ((∀ q ∈ cues, q.number ≤ k → ∀ m ∈ q.moves, m.channel = c → m.action ≠ .level) ∧
        trackedLevel cues k c base = base ∨
      ∃ before q after l m r, cues = before ++ q :: after ∧ q.number ≤ k ∧ q.moves = l ++ m :: r ∧
        m.channel = c ∧ m.action = .level ∧ trackedLevel cues k c base = m.target ∧
        (∀ x ∈ l, x.channel = c → x.action = .level → x.delay ≤ m.delay) ∧
        (∀ x ∈ r, x.channel = c → x.action = .level → x.delay < m.delay) ∧
        ∀ p ∈ after, p.number ≤ k → ∀ x ∈ p.moves, x.channel = c → x.action ≠ .level) ∧
    ((∀ q ∈ cues, q.number ≤ k → ∀ m ∈ q.moves, m.channel = c → m.action = .level) ∧
        trackedMute cues k c = false ∨
      ∃ before q after l m r, cues = before ++ q :: after ∧ q.number ≤ k ∧ q.moves = l ++ m :: r ∧
        m.channel = c ∧ m.action ≠ .level ∧ trackedMute cues k c = decide (m.action = .mute) ∧
        (∀ x ∈ l, x.channel = c → x.action ≠ .level → x.delay ≤ m.delay) ∧
        (∀ x ∈ r, x.channel = c → x.action ≠ .level → x.delay < m.delay) ∧
        ∀ p ∈ after, p.number ≤ k → ∀ x ∈ p.moves, x.channel = c → x.action = .level)

/-- A wait that stands at 0 in SHOW, or that counts and has no more than the next millisecond left, some
of it having been counted, expires and fires the next cue with cause FOLLOW or WITH, handing over its
successor's clock point; the gate time is left as it was (R68, R71 to R75, R77, R123). An arm that has more
time left, is just set or is none, as a GO taken first leaves it, or a show not in SHOW, has no expiry
(R79). Which expiry is due, and that it may come before the advance of P in its millisecond (R125), is log
entry 3 (DESIGN CHOICE). Stated for a cue
whose successor is absent, MANUAL, CLOCK or WITH after a wait, or whose moves all have a delay and whose
successor does not follow at once. -/
def Obligations.WaitExpires : Prop :=
  (∀ (s : State) (cue : Cue) (left : Nat) (b : Timebase), s.resetLow = false →
    s.seq.state = .running → s.seq.arm = .waiting left b →
    left = 0 ∨ s.showAdvances b = true ∧ left ≤ s.advance b ∧ left < cue.wait * 65536 →
    s.NextTold cue → cue.trigger = .follow ∨ cue.trigger = .withCue →
      ∃ t, exec .waitExpiry s = .next t ∧
        s.FiringTold t cue (if cue.trigger = .follow then .follow else .withCue) ∧
        t.seq.gateTime = s.seq.gateTime ∧ t.seq.state = .running ∧ t.link = s.link ∧
        t.clock = { s.clock with point := t.seq.arm.point } ∧
        t.surface = s.surface ∧ t.contacts = s.contacts ∧ t.output = s.output ∧ t.cues = s.cues) ∧
    ∀ s : State, (s.seq.state ≠ .running ∨ ∀ left b, s.seq.arm = .waiting left b → left ≠ 0 ∧
        (s.showAdvances b = false ∨ s.advance b < left ∨
          ∀ q, s.nextCue = some q → q.wait * 65536 ≤ left)) →
      exec .waitExpiry s = .next s

/-- NOTICES_READ hands out the oldest notices up to its count, removes exactly those, and reports how
many are left and the overflow count; a count outside 1..16 is refused BAD_FIELD (R87). -/
def Obligations.NoticesHandedOut : Prop :=
  (∀ (s : State) (n : Nat), s.Open → 1 ≤ n → n ≤ 16 → ∃ given left,
    s.seq.notices = given ++ left ∧ given.length = min n s.seq.notices.length ∧
      exec (.noticesRead .own [byte n]) s =
        .next ((s.setSeq { s.seq with notices := left }).heard.replying 0x3A .ok
          (given.flatMap noticeBytes ++ [byte left.length, byte s.seq.overflow]))) ∧
    ∀ (s : State) (k : Byte), s.Open → k.toNat = 0 ∨ 16 < k.toNat →
      exec (.noticesRead .own [k]) s = .next (s.answeredBare 0x3A .badField)

/-- An end of a move of a firing in flight lowers its outstanding count, and the last one completes
it with a COMPLETE notice and CUE_COMPLETE, an arm that awaits it starting to wait (R74, R100). A pending
move alone in its list starts: a LEVEL move reports the active move REPLACED and takes the channel from
A, or with duration 0 sets A at once; a MUTE or UNMUTE move sets or clears CUE and is counted (R94 to
R96). An active move that ends leaves A at the target exactly and is counted (R99). A firing placed on a
channel drops the moves that are pending there, each counted to its firing, and its own moves take the
list in ascending order of delay, equal ones in the order of the cue (R92, R93, R100). An end is reported to
the firing that owns the move, and of a REMOTE or LOAD move to nobody (R100). The moves of
a longer list whose delay falls to 0 with its head's start with it, in list order (R97). A list or a move
that stands still neither starts nor ends (R104), and neither does one whose start or end is not due, as
one that a firing or a request has just placed there in place of the due one (R110). That a start or an end
is due in the last millisecond of a delay or a move of which at least one has been counted is log entry 30
(DESIGN CHOICE). Stated while no wait of 0 is left to expire. -/
def Obligations.MovesStartAndEnd : Prop :=
  (∀ (s : State) (id : Nat),
    (s.seq.flight.find? (fun g => g.id == id) = none → s.countEnd id = s) ∧
    ∀ f, s.seq.flight.find? (fun g => g.id == id) = some f →
      (1 < f.outstanding → s.countEnd id = s.setSeq { s.seq with
        flight := s.seq.flight.map fun g =>
          if g.id = id then { g with outstanding := g.outstanding - 1 } else g }) ∧
      (f.outstanding ≤ 1 → s.seq.notices.length < 16 → ∃ t, s.countEnd id = t ∧
        t.seq.flight = s.seq.flight.filter (fun g => decide (g.id ≠ id)) ∧
        t.seq.notices = s.seq.notices ++
          [{ kind := .complete, cue := f.cue, firing := id, cause := none }] ∧
        t.Raised .cueComplete ∧ t.channels = s.channels ∧ t.seq.state = s.seq.state ∧
        t.seq.next = s.seq.next ∧ t.seq.standing = s.seq.standing ∧
        (s.seq.arm ≠ .await id → t.seq.arm = s.seq.arm) ∧
        (s.seq.arm = .await id → ∀ q, s.nextCue = some q →
          t.seq.arm = .waiting (q.wait * 65536) q.base))) ∧
  (∀ s : State, (∀ id cue, s.reportEnd (.firing id cue) = s.countEnd id) ∧
    s.reportEnd .remote = s ∧ s.reportEnd .load = s ∧
    ∀ c : Chan, ((s.chan c).active = none → s.reportActive c = s) ∧
      ∀ m, (s.chan c).active = some m → s.reportActive c = s.reportEnd m.owner) ∧
  (∀ (s : State) (c : Chan), s.resetLow = false →
    (∀ p : PendingMove, (s.chan c).waiting = [p] → s.showAdvances p.base = true →
      p.counted = true → p.delay ≤ s.advance p.base →
      (p.action = .level → ∀ t : State, t = ((s.reportActive c).setChan c { s.chan c with
          waiting := []
          level := if p.duration = 0 ∨ p.curve = .snapStart then p.target else (s.chan c).level
          active := if p.duration = 0 then none else some
            { target := p.target, duration := p.duration, curve := p.curve, base := p.base,
              owner := .firing p.firing p.cue, start := (s.chan c).level, elapsed := 0 } }) →
        ∀ u, u = (if p.duration = 0 then t.countEnd p.firing else t) → u.waitDue = false →
          exec (.moveStart c) s = .next u) ∧
      (p.action ≠ .level → ∀ u, u = (s.setChan c { s.chan c with
          waiting := [], cue := decide (p.action = .mute) }).countEnd p.firing →
        u.waitDue = false → exec (.moveStart c) s = .next u)) ∧
    (∀ p rest, (s.chan c).waiting = p :: rest → s.showAdvances p.base = true →
      p.counted = true → p.delay ≤ s.advance p.base →
      (∀ id, s.seq.arm ≠ .await id) → ∃ t, exec (.moveStart c) s = .next t ∧
        t.chan c = (s.chan c).started ((p :: rest).map fun q =>
          { q with delay := if q.delay ≤ s.advance p.base then 0 else q.delay }) ∧
        (∀ d, d ≠ c → t.chan d = s.chan d) ∧ t.seq.arm = s.seq.arm ∧ t.seq.state = s.seq.state) ∧
    (∀ m : ActiveMove, (s.chan c).active = some m → s.moveAdvances m = true → 0 < m.elapsed →
      m.duration * 65536 ≤ m.elapsed + s.advance m.counts → ∀ u,
        u = (s.setChan c { s.chan c with level := m.target, active := none }).reportEnd m.owner →
          u.waitDue = false → exec (.moveComplete c) s = .next u)) ∧
  (∀ (s : State) (c : Chan),
    ((∀ p ∈ (s.chan c).waiting, s.showAdvances p.base = false ∨ p.counted = false ∨
        s.advance p.base < p.delay) → exec (.moveStart c) s = .next s) ∧
    ((∀ m, (s.chan c).active = some m → s.moveAdvances m = false ∨ m.elapsed = 0 ∨
        m.elapsed + s.advance m.counts < m.duration * 65536) →
      exec (.moveComplete c) s = .next s)) ∧
  (∀ (cue : Cue) (id : Nat) (c : Chan), (pendingFor cue id c).Pairwise (fun p q => p.delay ≤ q.delay) ∧
    ∀ d : Nat, (pendingFor cue id c).filter (fun p => p.delay == d * 65536) =
      (cue.moves.filter fun m => m.channel == c && m.delay == d).map fun m =>
        { action := m.action, target := m.target, duration := m.duration, curve := m.curve,
          delay := d * 65536, base := cue.base, firing := id, cue := cue.number
          counted := false }) ∧
  ∀ (s : State) (cue : Cue) (id : Nat) (c : Chan),
    ((∀ m ∈ cue.moves, m.channel ≠ c) → s.placeOn cue id c = s) ∧
    ((∃ m ∈ cue.moves, m.channel = c) →
      (s.placeOn cue id c).chan c = { s.chan c with waiting := pendingFor cue id c } ∧
      (∀ d, d ≠ c → (s.placeOn cue id c).chan d = s.chan d) ∧
      ∀ i f, (∀ p ∈ (s.chan c).waiting, p.firing = i) → s.seq.flight.find? (fun g => g.id == i) = some f →
        (s.chan c).waiting.length < f.outstanding →
          (s.placeOn cue id c).seq = { s.seq with
            flight := s.seq.flight.map fun g => if g.id = i then
              { g with outstanding := g.outstanding - (s.chan c).waiting.length } else g })


/-! ### The show clock -/

/-- A good running mark in NONE, LOST or STOPPED, of another song, or beyond the relocate threshold
relocates the clock; a good stopped mark stops it; neither fires anything (R116, R119, R124). -/
def Obligations.MarksPlaceClock : Prop :=
  ∀ (s : State) (song flags : Byte) (position : BitVec 32), s.resetLow = false →
    song.toNat ≤ 99 → position.toNat ≤ 5999999 →
      (flags.getLsbD 0 = true →
        (s.clock.state = .none ∨ s.clock.state = .lost ∨ s.clock.state = .stopped ∨
          s.clock.song ≠ song.toNat ∨
          (s.clock.cfg.relocate : Int) <
            |((position.toNat + s.clock.cfg.markDelay : Nat) : Int) - s.clock.whole|) →
        exec (.timeMark song position flags (markCheck song position flags)) s =
          .next ((s.setClock { s.clock with
            whole := position.toNat + s.clock.cfg.markDelay, frac := 0, song := song.toNat,
            good := 0, state := .locking, markTimer := 0, receiver := .hunt }).raise
              .clockRelocated)) ∧
      (flags.getLsbD 0 = false → ∃ t,
        exec (.timeMark song position flags (markCheck song position flags)) s = .next t ∧
          t = (s.setClock { s.clock with
            whole := position.toNat, frac := 0, song := song.toNat, good := 0, state := .stopped,
            markTimer := 0, receiver := .hunt }).setEvents t.events ∧
          (s.clock.state = .stopped → t.events = s.events) ∧
          (s.clock.state ≠ .stopped → t.events = (s.raise .clockStopped).events))

/-- A correcting mark steps P by e / 2^f_o and the rate by e × 64 / 2^f_r, both truncated toward
zero, the rate clamped to 64,225..66,847, and counts toward lock; the fourth within the window locks the
clock (R117, R118). A phase step that carries P of a clock then LOCKED from below the clock point to it or
past it is a crossing: in SHOW it fires the next cue with cause CLOCK, in any other state nothing (R78,
R124), and the cue fired is noted against edits of the same millisecond (log entry 26: DESIGN CHOICE). With
no such step nothing else changes. -/
def Obligations.MarksCorrectClock : Prop :=
  ∀ (s : State) (song flags : Byte) (position : BitVec 32) (e : Int), s.resetLow = false →
    song.toNat ≤ 99 → position.toNat ≤ 5999999 → flags.getLsbD 0 = true → s.ClockInRange →
      s.clock.state = .locking ∨ s.clock.state = .locked ∨ s.clock.state = .freewheel →
        s.clock.song = song.toNat →
          e = ((position.toNat + s.clock.cfg.markDelay : Nat) : Int) - s.clock.whole →
            |e| ≤ s.clock.cfg.relocate →
        ∃ t, exec (.timeMark song position flags (markCheck song position flags)) s = .next t ∧
          (t.clock.state = .locking ∨ (∀ x, s.clock.point = some (song.toNat, x) →
              x ≤ s.clock.whole ∨ t.clock.whole < x) →
            t = (s.setClock t.clock).setEvents t.events ∧ t.clock.point = s.clock.point) ∧
          (∀ x, s.clock.point = some (song.toNat, x) → s.clock.whole < x → x ≤ t.clock.whole →
            t.clock.state = .locked →
              (s.seq.state ≠ .running →
                t = (s.setClock t.clock).setEvents t.events ∧ t.clock.point = s.clock.point) ∧
              ∀ cue, s.seq.state = .running → s.NextTold cue →
                s.FiringTold t cue .clock ∧ t.seq.crossed = some cue.number ∧
                  t.seq.state = .running ∧ t.seq.gateTime = s.seq.gateTime ∧ t.link = s.link ∧
                    t.surface = s.surface ∧ t.output = s.output ∧ t.cues = s.cues) ∧
          (t.clock.whole : Int) = s.clock.whole + e.tdiv (2 ^ s.clock.cfg.phaseDepth) ∧
          t.clock.frac = s.clock.frac ∧ t.clock.song = s.clock.song ∧ t.clock.markTimer = 0 ∧
          (t.clock.rate : Int) =
            max 64225 (min 66847 (s.clock.rate + (e * 64).tdiv (2 ^ s.clock.cfg.rateDepth))) ∧
          (s.clock.state ≠ .locking → t.clock.state = .locked ∧ t.clock.good = s.clock.good) ∧
          (s.clock.state = .locking → |e| ≤ s.clock.cfg.lockWindow → s.clock.good < 3 →
            t.clock.state = .locking ∧ t.clock.good = s.clock.good + 1) ∧
          (s.clock.state = .locking → |e| ≤ s.clock.cfg.lockWindow → s.clock.good = 3 →
            t.clock.state = .locked ∧ t.clock.good = 4 ∧ t.Raised .clockLocked) ∧
          (s.clock.state = .locking → (s.clock.cfg.lockWindow : Int) < |e| →
            t.clock.state = .locking ∧ t.clock.good = 0) ∧
          (s.clock.state = .freewheel → t.Raised .clockLocked)

/-- A mark with a bad stop bit, a gap, a bad check or bad content is counted up to 255, raises
MARK_ERROR and has no other effect (R112). -/
def Obligations.BadMarksCounted : Prop :=
  ∀ (s t : State), s.resetLow = false →
    t = (s.setClock { s.clock with errors := countUp 255 s.clock.errors, receiver := .hunt }).raise
      .markError →
    exec .markFramingFault s = .next t ∧ exec .markGapFault s = .next t ∧
      ∀ (song flags check : Byte) (position : BitVec 32),
        check ≠ markCheck song position flags ∨ 99 < song.toNat ∨ 5999999 < position.toNat →
          exec (.timeMark song position flags check) s = .next t

/-- The mark timeout, the freewheel limit and the silence limit: the clock's states and events, the
watchdog's expiry, and the act of CLOCK_LOST and LINK_SILENCE applied at the raise (R120, R121, R183,
R188). With act NONE nothing else changes; with act HOLD a show in SHOW is held. A timer further from its
limit, as one that a mark or a request taken first has restarted, and one that is not judged, change nothing
(R122). That each may be taken before the millisecond that brings its timer to the limit, and so before the
advance of P in it (R125), is log entry 3 (DESIGN CHOICE): a CLOCK_ADVANCE behind a loss taken first leaves
P and the clock point as they stand and fires nothing, whatever P would have crossed; that is stated for act
NONE and lines that do not change. -/
def Obligations.TimersRunOut : Prop :=
  (∀ s : State, s.resetLow = false →
    (s.clock.state = .locking → s.clock.cfg.markTimeout ≤ s.clock.markTimer + 1 →
      ∃ t, exec .markTimeout s = .next t ∧ t = s.setClock t.clock ∧
        t.clock.state = .none ∧ t.clock.good = 0 ∧ t.clock.whole = s.clock.whole ∧
          t.clock.rate = s.clock.rate) ∧
    (s.clock.state = .locked → s.clock.cfg.markTimeout ≤ s.clock.markTimer + 1 →
      s.clock.cfg.freewheel ≠ 0 → ∃ t, exec .markTimeout s = .next t ∧
        t = (s.setClock t.clock).raise .clockFreewheel ∧ t.clock.state = .freewheel ∧
          t.clock.freewheelTimer = 0 ∧ t.clock.whole = s.clock.whole ∧
            t.clock.rate = s.clock.rate) ∧
    (∀ i, (i = .markTimeout ∧ s.clock.state = .locked ∧
          s.clock.cfg.markTimeout ≤ s.clock.markTimer + 1 ∧ s.clock.cfg.freewheel = 0 ∨
        i = .freewheelLimit ∧ s.clock.state = .freewheel ∧
          s.clock.cfg.freewheel ≤ s.clock.freewheelTimer + 1) →
      ∃ t, exec i s = .next t ∧ t.clock.state = .lost ∧ t.Raised .clockLost ∧
        t.clock.whole = s.clock.whole ∧ t.clock.rate = s.clock.rate ∧
        (s.events.actLost = .none → t = (s.setClock t.clock).raise .clockLost) ∧
        (s.events.actLost = .none → s.LinesRest → s.PointMatches → s.clock.point ≠ none → ∃ u,
          exec .clockAdvance t = .next u ∧ u.clock.state = .lost ∧
            u.clock.whole = s.clock.whole ∧ u.clock.frac = s.clock.frac ∧
            u.clock.point = s.clock.point ∧ u.seq.arm = s.seq.arm ∧ u.seq.next = s.seq.next ∧
            u.seq.standing = s.seq.standing) ∧
        (s.events.actLost = .hold → s.seq.state = .running →
          t.seq = { s.seq with state := .hold } ∧ t.Raised .stateChange) ∧
        (s.events.actLost = .safe → t.seq.state = .safe)) ∧
    (s.link.watchdog = .running → s.link.limit ≤ s.link.timer + 1 → ∃ t, exec .linkSilence s = .next t ∧
      t.link.watchdog = .expired ∧ t.Raised .linkSilence ∧ t.link.limit = s.link.limit ∧
      (s.events.actSilence = .none → t = (s.setLink t.link).raise .linkSilence) ∧
      (s.events.actSilence = .hold → s.seq.state = .running →
        t.seq = { s.seq with state := .hold } ∧ t.Raised .stateChange) ∧
      (s.events.actSilence = .safe → t.seq.state = .safe))) ∧
    ∀ s : State,
      (s.clock.state ≠ .locking ∧ s.clock.state ≠ .locked ∨
        s.clock.markTimer + 1 < s.clock.cfg.markTimeout → exec .markTimeout s = .next s) ∧
      (s.clock.state ≠ .freewheel ∨ s.clock.freewheelTimer + 1 < s.clock.cfg.freewheel →
        exec .freewheelLimit s = .next s) ∧
      (s.link.watchdog ≠ .running ∨ s.link.timer + 1 < s.link.limit → exec .linkSilence s = .next s)

/-- A wall millisecond. P advances by ρ units of 1/65536 ms where the clock runs; the mark, freewheel and
silence timers, the gate time, the restart window, a scan's age, the quiet of LRX, LTX and TMIN, the frame
and pass timers, the cycles left of every send and those since the end of a character that waits count; the
pins are sampled, each line by its count; and,
while no line changes its qualified state, glides, the WAITING arm, the active moves and the pending delays
advance as their timebase lets them, a move due starting or ending (R26, R68, R77, R93, R98, R102, R103,
R113 to R115, R129, R132, R149, R158, R165, R183, R193). At that sample a touch line or key that changes
alone among its kind takes over, is released or toggles its mute, CSAFE and CHOLD are a SAFE and a HOLD, and
CGO or CBACK that turns active with no other line is a GO or BACK, taken or refused (R150 to R153), stated
while no clock point and no AWAIT arm stands. That the row is one millisecond of every counter and timer,
and takes its pins from the inputs, are log entries 2 and 23, that sends and quiet are counted in cycles and
where the quiet stops, log entry 16 (all DESIGN CHOICE); the order inside the row is log entry 6. That the
silence timer counts in every state of the watchdog (R183, R185) is log entry 13, and that the freewheel
timer stands outside FREEWHEEL (R121), log entry 22 (both DEDUCED). -/
def Obligations.ClockAdvances : Prop :=
  (∀ (s : State) (m : ActiveMove),
    s.showAdvances .wall = decide (s.seq.state = .running) ∧
    s.showAdvances .clock = decide (s.seq.state = .running ∧
      (s.clock.state = .locked ∨ s.clock.state = .freewheel)) ∧
    s.advance .wall = 65536 ∧ s.advance .clock = s.clock.rate ∧
    s.moveAdvances m = match m.owner with
      | .firing _ _ => s.showAdvances m.base
      | .remote | .load => true) ∧
  ∀ s : State, s.resetLow = false → ∃ t, exec .clockAdvance s = .next t ∧
    (t.clock.rate = s.clock.rate ∧ t.clock.state = s.clock.state ∧ t.clock.song = s.clock.song ∧
      t.clock.good = s.clock.good ∧ t.clock.markTimer = countUp 65535 s.clock.markTimer ∧
      t.clock.freewheelTimer = (if s.clock.state = .freewheel
        then countUp 65535 s.clock.freewheelTimer else s.clock.freewheelTimer) ∧
      t.clock.line = s.clock.line ++ s.shown.tmin ∧ t.clock.begun = s.shown.tminBegun ∧
      t.clock.receiver = s.clock.receiver ∧ t.clock.errors = s.clock.errors ∧
      t.clock.quiet = min (s.clock.quiet + 18432) markQuietMax ∧
      (s.clock.state = .locking ∨ s.clock.state = .locked ∨ s.clock.state = .freewheel →
        s.clock.whole + (s.clock.frac + s.clock.rate) / 65536 ≤ 4294967295 →
          t.clock.whole * 65536 + t.clock.frac =
            s.clock.whole * 65536 + s.clock.frac + s.clock.rate) ∧
      (s.clock.state = .none ∨ s.clock.state = .stopped ∨ s.clock.state = .lost →
        t.clock.whole = s.clock.whole ∧ t.clock.frac = s.clock.frac)) ∧
    (t.inputs = s.inputs.tail ∧ t.retained = s.retained ∧
      t.link = { s.link with
        straps := s.shown.straps, begun := s.shown.lrxBegun
        line := s.link.line.map (fun h => { h with ago := h.ago + 18432 }) ++ s.shown.lrx
        timer := countUp 65535 s.link.timer
        rxQuiet := min (s.link.rxQuiet + 18432) quietMax
        txQuiet := min (s.link.txQuiet + 18432) quietMax
        sending := s.link.sending.map fun x => { x with left := x.left - 18432 } } ∧
      t.events.sequence = s.events.sequence ∧
      t.events.window = (if s.events.sequence = .step1 ∨ s.events.sequence = .step2
        then countUp 1000 s.events.window else s.events.window) ∧
      t.seq.scan = s.seq.scan.map (fun k => { k with age := k.age + 1 }) ∧
      t.surface.passLeft = s.surface.passLeft - 1 ∧ t.surface.wipers = s.surface.wipers ∧
      t.output.frameLeft = s.output.frameLeft - 1 ∧
      t.output.frameCount = s.output.frameCount ∧
      t.output.surfaceShift = s.output.surfaceShift.map (fun h => { h with left := h.left - 18432 }) ∧
      t.output.surfaceStage = s.output.surfaceStage ∧
      ∀ n, t.output.lines.get n = { s.output.lines.get n with
        shift := (s.output.lines.get n).shift.map fun h => { h with left := h.left - 18432 } }) ∧
    (∀ f, t.surface.touch.get f =
        (if s.shown.touch.get f = (s.surface.touch.get f).qualified then
          { level := s.shown.touch.get f, qualified := (s.surface.touch.get f).qualified, count := 0 }
        else if s.surface.cfg.qualify ≤ (s.surface.touch.get f).count + 1 then
          { level := s.shown.touch.get f, qualified := s.shown.touch.get f, count := 0 }
        else
          { level := s.shown.touch.get f, qualified := (s.surface.touch.get f).qualified,
            count := (s.surface.touch.get f).count + 1 }) ∧
      t.surface.keys.get f =
        (if s.shown.keys.get f = (s.surface.keys.get f).qualified then
          { level := s.shown.keys.get f, qualified := (s.surface.keys.get f).qualified, count := 0 }
        else if s.surface.cfg.qualify ≤ (s.surface.keys.get f).count + 1 then
          { level := s.shown.keys.get f, qualified := s.shown.keys.get f, count := 0 }
        else
          { level := s.shown.keys.get f, qualified := (s.surface.keys.get f).qualified,
            count := (s.surface.keys.get f).count + 1 })) ∧
    (∀ (l : ContactLine) (v : Bool),
      v = (if s.polarity l = .activeHigh then s.shown.contacts.get l.index
        else !s.shown.contacts.get l.index) →
      t.contact l =
        if v = (s.contact l).qualified then
          { high := s.shown.contacts.get l.index, qualified := v, count := 0 }
        else if s.contacts.cfg.qualify ≤ (s.contact l).count + 1 then
          { high := s.shown.contacts.get l.index, qualified := v, count := 0 }
        else
          { high := s.shown.contacts.get l.index, qualified := (s.contact l).qualified,
            count := (s.contact l).count + 1 }) ∧
    (s.LinesRest → s.clock.point = none → (∀ id, s.seq.arm ≠ .await id) →
      t.seq.state = s.seq.state ∧ t.seq.next = s.seq.next ∧
      t.seq.gateTime = countUp 65535 s.seq.gateTime ∧
      t.seq.arm = (match s.seq.arm with
        | .waiting left b => .waiting (if s.showAdvances b then left - s.advance b else left) b
        | a => a) ∧
      (∀ f, t.fader f = s.fader f) ∧
      ∀ c, t.chan c = s.pendingAfter
        (s.activeAfter { s.chan c with hand := (s.chan c).hand.after })) ∧
    (∀ f c, s.touchTurns f = true → (∀ g, g ≠ f → s.touchTurns g = false) → s.slotUsed f = true →
      (s.fader f).mapping = some c →
        ((s.surface.touch.get f).qualified = false → (s.fader f).state = .free →
          s.Taken t f c (s.fader f).position) ∧
        ((s.surface.touch.get f).qualified = true → (s.fader f).state = .holding →
          ∀ h, (s.chan c).hand = .held h →
            (t.fader f).state = .free ∧ (t.chan c).hand = ((s.chan c).handed h).hand)) ∧
    (∀ f c, s.keyTurns f = true → (∀ g, g ≠ f → s.keyTurns g = false) → s.touchTurns f = false →
      s.slotUsed f = true → (s.fader f).mapping = some c →
        (t.chan c).operator =
          if (s.surface.keys.get f).qualified then (s.chan c).operator else !(s.chan c).operator) ∧
    (s.contactTurns .csafe = true → (s.contact .csafe).qualified = false → t.seq.state = .safe) ∧
    (s.contactTurns .chold = true → (s.contact .chold).qualified = false →
      s.contactTurns .csafe = false → s.seq.state = .running → t.seq.state = .hold) ∧
    (s.clock.point = none → (∀ id, s.seq.arm ≠ .await id) →
      (s.PressedAlone .cgo → s.GoSampled t) ∧ (s.PressedAlone .cback → s.BackSampled t))

/-- In SHOW, a running advance that carries the whole part of P from below an armed clock point to it
or past it, in LOCKED or FREEWHEEL and the point's song, fires the next cue with cause CLOCK, its moves
taking their places on the channels as the millisecond has left them; in HOLD it fires nothing (R71, R72,
R78, R92 to R97, R124). That the channels' moves take the millisecond before the firing is placed is log
entry 6, and that the cue fired is noted against edits of the same millisecond, log entry 26 (both DESIGN
CHOICE). Stated while no line changes its qualified state, for a cue whose successor is absent, MANUAL,
CLOCK or WITH after a wait, or whose moves all have a delay and whose successor does not follow at once. -/
def Obligations.CrossingFires : Prop :=
  ∀ (s : State) (cue : Cue) (x : Nat), s.resetLow = false →
    s.clock.state = .locked ∨ s.clock.state = .freewheel → s.seq.arm = .clock s.clock.song x →
      s.PointMatches → s.LinesRest → s.clock.whole < x →
        x ≤ s.clock.whole + (s.clock.frac + s.clock.rate) / 65536 → x ≤ 5999999 →
          (s.seq.state = .running → s.NextTold cue →
            ∃ t, exec .clockAdvance s = .next t ∧ t.seq.standing = some cue.number ∧
              t.seq.next = cueAfter s.cues cue.number ∧ t.seq.crossed = some cue.number ∧
              t.seq.nextId = idAfter s.seq.nextId ∧ t.Raised .cueFired ∧
              t.seq.arm = s.armAfter cue ∧ t.clock.point = (s.armAfter cue).point ∧
              (s.seq.flight = [] → s.seq.notices = [] → t.seq.notices.head? =
                some { kind := .fired, cue := cue.number, firing := s.seq.nextId
                       cause := some .clock }) ∧
              (s.seq.flight = [] → cue.moves ≠ [] → (∀ m ∈ cue.moves, 0 < m.delay) →
                t.seq.flight = [{ id := s.seq.nextId, cue := cue.number, cause := .clock
                                  outstanding := cue.moves.length }]) ∧
              (s.seq.flight.length < 8 → ∀ c r,
                r = s.pendingAfter
                  (s.activeAfter { s.chan c with hand := (s.chan c).hand.after }) →
                t.chan c = if ∃ m ∈ cue.moves, m.channel = c then
                    r.started (pendingFor cue s.seq.nextId c)
                  else r)) ∧
          (s.seq.state = .hold → ∃ t, exec .clockAdvance s = .next t ∧ t.seq.next = s.seq.next ∧
            t.seq.standing = s.seq.standing ∧ t.seq.arm = s.seq.arm ∧
            t.clock.point = s.clock.point ∧ t.seq.flight = s.seq.flight)

/-- CLOCK_SETUP stores its seven settings, each brought into its range with OK_CLAMPED, and judges a
timer that stands at or above its new limit at once (R126, R127); CONTACT_SETUP stores its configuration,
its numbers brought into their ranges, re-deriving a line only where its polarity changes, and refuses an
unknown polarity BAD_FIELD (R155). -/
def Obligations.SetupsStored : Prop :=
  (∀ (s : State) (k c : ClockConfig), s.Open →
    k.markDelay < 256 → k.lockWindow < 256 → k.relocate < 65536 → k.markTimeout < 65536 →
    k.freewheel < 65536 → k.phaseDepth < 256 → k.rateDepth < 256 →
    c = { markDelay := min k.markDelay 50, lockWindow := max 1 (min 100 k.lockWindow)
          relocate := max 20 (min 1000 k.relocate), markTimeout := max 20 (min 1000 k.markTimeout)
          freewheel := min k.freewheel 10000, phaseDepth := min k.phaseDepth 7
          rateDepth := min k.rateDepth 15 } →
    ∃ u, exec (.clockSetup .own (clockSettings k)) s =
        .next (u.heard.replying 0x40 (if k = c then .ok else .okClamped) (clockSettings c)) ∧
      u.clock.cfg = c ∧ u.clock.whole = s.clock.whole ∧ u.clock.rate = s.clock.rate ∧
      ((s.clock.state = .locking ∨ s.clock.state = .locked → s.clock.markTimer < c.markTimeout) →
        (s.clock.state = .freewheel → s.clock.freewheelTimer < c.freewheel) →
          u = s.setClock { s.clock with cfg := c }) ∧
      (s.clock.state = .locking → c.markTimeout ≤ s.clock.markTimer →
        u = s.setClock { s.clock with cfg := c, state := .none, good := 0 }) ∧
      (s.clock.state = .locked → c.markTimeout ≤ s.clock.markTimer → c.freewheel ≠ 0 →
        u = (s.setClock { s.clock with
          cfg := c, state := .freewheel, freewheelTimer := 0 }).raise .clockFreewheel) ∧
      (s.clock.state = .locked ∧ c.markTimeout ≤ s.clock.markTimer ∧ c.freewheel = 0 ∨
          s.clock.state = .freewheel ∧ c.freewheel ≤ s.clock.freewheelTimer →
        u.clock.state = .lost ∧ u.Raised .clockLost ∧
        (s.events.actLost = .none →
          u = (s.setClock { s.clock with cfg := c, state := .lost }).raise .clockLost) ∧
        (s.events.actLost = .hold → s.seq.state = .running → u.seq.state = .hold) ∧
        (s.events.actLost = .safe → u.seq.state = .safe))) ∧
    (∀ (s : State) (k c : ContactConfig), s.Open → k.qualify < 256 → k.guard < 65536 →
      c = { qualify := max 1 (min 31 k.qualify), polarity := k.polarity
            guard := min k.guard 2000 } →
      ∃ t, exec (.contactSetup .own (contactSettings k)) s = .next t ∧
        t = (s.setContacts t.contacts).heard.replying 0x50 (if k = c then .ok else .okClamped)
          (contactSettings c) ∧
        t.contacts.cfg = c ∧ t.contacts.ignored = s.contacts.ignored ∧
        ∀ l : ContactLine,
          (k.polarity.get l.index = s.polarity l → t.contact l = s.contact l) ∧
          (k.polarity.get l.index ≠ s.polarity l → (t.contact l).high = (s.contact l).high ∧
            (t.contact l).count = 0 ∧
            (t.contact l).qualified =
              ((s.contact l).high == decide (k.polarity.get l.index = .activeHigh)))) ∧
    ∀ (s : State) (q p0 p1 p2 p3 g1 g0 : Byte), s.Open →
      1 < p0.toNat ∨ 1 < p1.toNat ∨ 1 < p2.toNat ∨ 1 < p3.toNat →
        exec (.contactSetup .own [q, p0, p1, p2, p3, g1, g0]) s =
          .next (s.answeredBare 0x50 .badField)

/-! ### The fader surface -/

/-- At the end of a pass each fader in use takes its reading as accepted position when it differs by
more than the hysteresis or stands at 0 or 1023; in PAIRED mode wipers that disagree hold the position
and set the flag, agreeing ones clear it; a HOLDING fader's new position sets H (R130, R131). -/
def Obligations.PassJudged : Prop :=
  ∀ (s : State) (readings : Tab 16 (BitVec 10)), s.resetLow = false →
    ∃ t, exec (.passEnd readings) s = .next t ∧
      t = ((s.setSurface t.surface).setChannels t.channels).setEvents t.events ∧
      t.surface.wipers = readings ∧ t.surface.passLeft = s.surface.cfg.period ∧
      (∀ f, (t.fader f).state = (s.fader f).state ∧ (t.fader f).mapping = (s.fader f).mapping ∧
        (t.fader f).pending = (s.fader f).pending) ∧
      (∀ c, t.chan c = { s.chan c with hand := (t.chan c).hand } ∧
        ((∀ f, ¬ s.Holds f c) → t.chan c = s.chan c)) ∧
      (s.HandsAgree → ∀ f c, s.Holds f c →
        (t.chan c).hand = .held (faderLaw (t.fader f).position)) ∧
      (s.surface.cfg.mode = .sequential → ∀ f r, r = (readings.get f).toNat →
        (t.fader f).position =
          if r = 0 ∨ r = 1023 ∨ s.surface.cfg.hysteresis < (s.fader f).position - r ∨
            s.surface.cfg.hysteresis < r - (s.fader f).position then r
          else (s.fader f).position) ∧
      (s.surface.cfg.mode = .paired → ∀ (f x y : Slot) (a b : Nat), x.val = 2 * f.val →
        y.val = 2 * f.val + 1 → a = (readings.get x).toNat → b = (readings.get y).toNat →
        ((a - b ≤ s.surface.cfg.tolerance ∧ b - a ≤ s.surface.cfg.tolerance) →
          (t.fader f).disagree = false ∧ (t.fader f).position =
            (let r := (a + b) / 2
            if r = 0 ∨ r = 1023 ∨ s.surface.cfg.hysteresis < (s.fader f).position - r ∨
              s.surface.cfg.hysteresis < r - (s.fader f).position then r
            else (s.fader f).position)) ∧
        (¬ (a - b ≤ s.surface.cfg.tolerance ∧ b - a ≤ s.surface.cfg.tolerance) →
          (t.fader f).disagree = true ∧ (t.fader f).position = (s.fader f).position ∧
            ((s.fader f).disagree = false → t.Raised .wiperDisagree)))

/-- A qualified touch of a FREE fader in use: unmapped, it is ignored; on a HELD channel it blocks
and raises TOUCH_BLOCKED; otherwise the fader holds and H is the law's level at its accepted position
(R138). A fader that is not FREE, or out of use, keeps its state. A qualified press of a mute key toggles
OPERATOR of its slot's effective mapping, and is ignored on an unmapped slot and one out of use; its
release updates the line alone (R132, R143). All 16 slots are in use in SEQUENTIAL mode and the first 8 in
PAIRED (R129). The line's record, with the pin at the state reported and a
count of 0, and a row that finds its line in that state already changing nothing, are log entries 23 and 4
(DESIGN CHOICE). -/
def Obligations.TouchesAndKeys : Prop :=
  (∀ (s : State) (f : Slot),
    s.slotUsed f = true ↔ (s.surface.cfg.mode = .paired → f.val < 8)) ∧
  (∀ (s : State) (f : Slot), s.resetLow = false → (s.surface.touch.get f).qualified = false →
    ∀ touched : State, touched = s.setSurface { s.surface with
        touch := s.surface.touch.set f { level := true, qualified := true, count := 0 } } →
      (s.slotUsed f = false ∨ (s.fader f).state ≠ .free ∨ (s.fader f).mapping = none →
        exec (.qualifiedTouch f) s = .next touched) ∧
      (s.slotUsed f = true → (s.fader f).state = .free → ∀ c, (s.fader f).mapping = some c →
        (∀ h, (s.chan c).hand = .held h → exec (.qualifiedTouch f) s =
          .next ((touched.setFader f { s.fader f with state := .blocked }).raise
            .touchBlocked)) ∧
        ((∀ h, (s.chan c).hand ≠ .held h) → exec (.qualifiedTouch f) s =
          .next ((touched.setFader f { s.fader f with state := .holding }).setChan c
            { s.chan c with hand := .held (faderLaw (s.fader f).position) })))) ∧
    (∀ (s : State) (f : Slot), s.resetLow = false → ∀ line : Bool → State,
        (∀ b, line b = s.setSurface { s.surface with
          keys := s.surface.keys.set f { level := b, qualified := b, count := 0 } }) →
        ((s.surface.keys.get f).qualified = false →
          (s.slotUsed f = false ∨ (s.fader f).mapping = none →
            exec (.keyPress f) s = .next (line true)) ∧
          (s.slotUsed f = true → ∀ c, (s.fader f).mapping = some c → exec (.keyPress f) s =
            .next ((line true).setChan c { s.chan c with operator := !(s.chan c).operator }))) ∧
        ((s.surface.keys.get f).qualified = true → exec (.keyRelease f) s = .next (line false))) ∧
    ∀ (s : State) (f : Slot),
      ((s.surface.touch.get f).qualified = true → exec (.qualifiedTouch f) s = .next s) ∧
      ((s.surface.touch.get f).qualified = false → exec (.qualifiedRelease f) s = .next s) ∧
      ((s.surface.keys.get f).qualified = true → exec (.keyPress f) s = .next s) ∧
      ((s.surface.keys.get f).qualified = false → exec (.keyRelease f) s = .next s)

/-- A qualified release of a HOLDING fader makes it FREE: in RETURN mode the channel glides from H
over its return time, or with return time 0 is FREE at once; in KEEP mode the active move is reported
TAKEN, A becomes H and the hand is FREE. A release of a BLOCKED fader makes it FREE and changes no channel.
A pending mapping is then taken with REMAP_DONE. A release of a FREE fader, unmapped or not, or of a slot
out of use changes its line alone (R101, R132, R139 to R141). Where the move that a KEEP release ends was the
last of the firing that the arm awaits and the next cue's wait is 0, that cue then fires with cause FOLLOW or
WITH (R74, R77), told as in WaitExpires. The line's record is log entry 23 (DESIGN CHOICE). -/
def Obligations.ReleaseHandsBack : Prop :=
  ∀ (s : State) (f : Slot), s.resetLow = false → (s.surface.touch.get f).qualified = true →
    ∀ line : State → State,
      (∀ u, line u = u.setSurface { u.surface with
        touch := s.surface.touch.set f { level := false, qualified := false, count := 0 } }) →
      (s.slotUsed f = false ∨ (s.fader f).state = .free →
        exec (.qualifiedRelease f) s = .next (line s)) ∧
      (s.slotUsed f = true → ∀ handed u : State,
        (s.fader f).state = .blocked ∧ handed = s ∨
        (∃ c h, s.Holds f c ∧ (s.chan c).hand = .held h ∧
          handed = (if (s.chan c).cfg.release = .keep then
              (s.reportActive c).setChan c { s.chan c with
                level := h, hand := .free, active := none }
            else s.setChan c { s.chan c with
              hand := if (s.chan c).cfg.returnTime = 0 then .free
                      else .gliding h 0 (s.chan c).cfg.returnTime })) →
        (s.fader f).pending = none ∧
            u = (line handed).setFader f { s.fader f with state := .free } ∨
          (∃ m, (s.fader f).pending = some m ∧ u = ((line handed).setFader f { s.fader f with
            state := .free, mapping := m, pending := none }).raise .remapDone) →
        (s.seq.state ≠ .running ∨ (∀ b, u.seq.arm ≠ .waiting 0 b) ∨ u.seq.arm = s.seq.arm →
          exec (.qualifiedRelease f) s = .next u) ∧
        ∀ (b : Timebase) (cue : Cue), s.seq.state = .running → u.seq.arm = .waiting 0 b →
          u.seq.arm ≠ s.seq.arm → u.NextTold cue →
            ∃ t, exec (.qualifiedRelease f) s = .next t ∧
              u.FiringTold t cue (if cue.trigger = .follow then .follow else .withCue) ∧
              t.seq.state = .running ∧ t.seq.gateTime = s.seq.gateTime ∧ t.link = s.link ∧
              t.surface = u.surface ∧ t.contacts = s.contacts ∧ t.output = s.output ∧
              t.cues = s.cues)

/-- SURFACE_SETUP stores its configuration, its numbers brought into their ranges with OK_CLAMPED; in the
mode in force no fader changes, and a change of mode clears every disagreement flag, retires slots 9 to 16
with a hand there handed back, or brings them into use FREE, mapped by the active bank and taken over where
touched (R136, R146); that the pass in progress runs on is log entry 28 (DESIGN CHOICE). BANK_PUT stores a
bank, and applies it when it is the active one; a channel in two slots is refused DUPLICATE (R134).
BANK_SELECT makes a bank active and applies it (R135, R136). A mode, bank or slot outside its range is
refused BAD_FIELD. -/
def Obligations.SurfaceRequests : Prop :=
  (∀ s : State, s.Open → s.BanksDistinct →
    (∀ k c : SurfaceConfig, k.period < 256 → k.hysteresis < 256 → k.tolerance < 256 →
      k.qualify < 256 →
      c = { mode := k.mode, period := max 1 (min 8 k.period), hysteresis := min k.hysteresis 15
            tolerance := min k.tolerance 63, qualify := max 1 (min 15 k.qualify) } →
      ∃ u, exec (.surfaceSetup .own (surfaceSettings k)) s =
          .next (u.heard.replying 0x48 (if k = c then .ok else .okClamped) (surfaceSettings c)) ∧
        (k.mode = s.surface.cfg.mode → u = s.setSurface { s.surface with cfg := c }) ∧
        (k.mode ≠ s.surface.cfg.mode → s.HandsAgree → (∀ id, s.seq.arm ≠ .await id) →
          u.surface = { s.surface with cfg := c, faders := u.surface.faders } ∧
          (∀ f : Slot, f.val < 8 → u.fader f = { s.fader f with disagree := false }) ∧
          (k.mode = .paired →
            (∀ f : Slot, 8 ≤ f.val → u.fader f = { position := 0, state := .free, mapping := none
                                                   pending := none, disagree := false }) ∧
            ∀ c, (∀ f h, 8 ≤ f.val → s.Holds f c → (s.chan c).hand = .held h →
                u.chan c = (s.chan c).handed h) ∧
              ((∀ f, 8 ≤ f.val → ¬ s.Holds f c) → u.chan c = s.chan c)) ∧
          (k.mode = .sequential →
            (∀ f : Slot, 8 ≤ f.val → (u.fader f).position = 0 ∧ (u.fader f).disagree = false ∧
              (u.fader f).mapping = s.bankSlot f ∧ (u.fader f).pending = none ∧
              (s.bankSlot f = none ∨ (s.surface.touch.get f).qualified = false →
                (u.fader f).state = .free) ∧
              ∀ c, s.bankSlot f = some c → (s.surface.touch.get f).qualified = true →
                s.Taken u f c 0) ∧
            ∀ c, (∀ f, 8 ≤ f.val → (s.surface.touch.get f).qualified = true →
              s.bankSlot f ≠ some c) → u.chan c = s.chan c))) ∧
    (∀ (k : Fin 8) (b : Bank), (∀ f g, f ≠ g → b.get f ≠ none → b.get f ≠ b.get g) →
      ∃ u, exec (.bankPut .own (byte (k.val + 1) :: bankBytes b)) s =
          .next (u.heard.replying 0x49 .ok (bankBytes b ++ [byte u.pendingFaders])) ∧
        u = ((s.setSurface { s.surface with
          banks := s.surface.banks.set k b, faders := u.surface.faders }).setChannels
            u.channels).setEvents u.events ∧
        (k ≠ s.surface.activeBank →
          u = s.setSurface { s.surface with banks := s.surface.banks.set k b }) ∧
        (k = s.surface.activeBank → s.BankApplied u b)) ∧
    ∀ k : Fin 8, ∃ u, exec (.bankSelect .own [byte (k.val + 1)]) s =
        .next (u.heard.replying 0x4A .ok [byte (k.val + 1), byte u.pendingFaders]) ∧
      u = ((s.setSurface { s.surface with
        activeBank := k, faders := u.surface.faders }).setChannels u.channels).setEvents u.events ∧
      s.BankApplied u (s.surface.banks.get k)) ∧
  ∀ s : State, s.Open →
    (∀ m a b c d : Byte, 1 < m.toNat →
      exec (.surfaceSetup .own [m, a, b, c, d]) s = .next (s.answeredBare 0x48 .badField)) ∧
    (∀ (k : Byte) (slots : List Byte), slots.length = 16 →
      (k.toNat = 0 ∨ 8 < k.toNat ∨ ∃ b ∈ slots, 56 < b.toNat) →
        exec (.bankPut .own (k :: slots)) s = .next (s.answeredBare 0x49 .badField)) ∧
    (∀ (k : Fin 8) (b : Bank), (∃ f g, f ≠ g ∧ b.get f ≠ none ∧ b.get f = b.get g) →
      exec (.bankPut .own (byte (k.val + 1) :: bankBytes b)) s =
        .next (s.answeredBare 0x49 .duplicate)) ∧
    ∀ k : Byte, k.toNat = 0 ∨ 8 < k.toNat →
      exec (.bankSelect .own [k]) s = .next (s.answeredBare 0x4A .badField)

/-! ### The cue contacts -/

/-- A qualified press of CHOLD holds a show in SHOW and changes nothing but its line elsewhere; a
press of CSAFE enters SAFE; a refused GO press is counted and raises GO_IGNORED, END_OF_LIST with it where
the list has ended; a release updates its line alone (R149 to R153). -/
def Obligations.ContactPresses : Prop :=
  ∀ s : State, s.resetLow = false →
    (∀ l : ContactLine, (s.contact l).qualified = true → ∃ t,
      exec (.contactRelease l) s = .next t ∧ t = s.setContacts t.contacts ∧
        (t.contact l).qualified = false ∧ (t.contact l).count = 0 ∧
        t.contacts.ignored = s.contacts.ignored ∧ ∀ k, k ≠ l → t.contact k = s.contact k) ∧
    ((s.contact .chold).qualified = false → ∃ t, exec .contactHoldPress s = .next t ∧
      (t.contact .chold).qualified = true ∧ t.contacts.ignored = s.contacts.ignored ∧
      (s.seq.state = .running → t = ((s.setContacts t.contacts).setSeq
        { s.seq with state := .hold }).raise .stateChange) ∧
      (s.seq.state ≠ .running → t = s.setContacts t.contacts)) ∧
    ((s.contact .csafe).qualified = false → ∃ t, exec .contactSafePress s = .next t ∧
      (t.contact .csafe).qualified = true ∧ t.contacts.ignored = s.contacts.ignored ∧
      t.seq.state = .safe ∧ t.seq.next = s.seq.next ∧ t.seq.standing = s.seq.standing ∧
      (s.seq.state = .safe → t = s.setContacts t.contacts) ∧
      (s.seq.state = .edit → t.seq.ret = .edit) ∧
      (s.seq.state = .running ∨ s.seq.state = .hold → t.seq.ret = .hold) ∧
      (s.seq.state ≠ .safe → t.seq.flight = [] ∧ t.seq.arm = .empty ∧
        ∀ c, (t.chan c).active = none ∧ (t.chan c).waiting = [] ∧
          (t.chan c).level = (s.chan c).level)) ∧
    ((s.contact .cgo).qualified = false →
      ((s.seq.scan ≠ none ∨ s.seq.state = .edit ∨ s.seq.state = .safe ∨
        s.seq.gateTime < s.contacts.cfg.guard) →
        ∃ t, exec .contactGoPress s = .next t ∧
          t = (s.setContacts t.contacts).raise .goIgnored ∧
          t.contacts.ignored = countUp 255 s.contacts.ignored ∧
          (t.contact .cgo).qualified = true) ∧
      (s.seq.scan = none → s.seq.state = .running → s.contacts.cfg.guard ≤ s.seq.gateTime →
        s.seq.next = none → ∃ t, exec .contactGoPress s = .next t ∧
          t = ((s.setContacts t.contacts).raise .endOfList).raise .goIgnored ∧
          t.contacts.ignored = countUp 255 s.contacts.ignored ∧
          (t.contact .cgo).qualified = true))

/-! ### The gain output lines -/

/-- A frame event brings the stored configuration into force, steps every strip's mute factor, forms
its E and LIMITED from its own used level and trim and those of the master 48+g of its group field, leaves a
master's own three alone, forms the gain words, each in the line slot of its strip, ends the glides at full
course, counts the frame, builds the four gain
frames and the surface frame, and starts each on an idle line; an occupied line stages it, or replaces a
staged frame, counts it late and raises LINE_LATE with its act, once the frames are built (R6, R11, R28 to
R35, R144, R145, R158 to R162, R166, R168, R169, R188). That a send lasts a whole number of crystal cycles,
n + 1 for each of its bits (R160, R165), is log entry 16, and that the frames are built before the act,
log entry 6 (both DESIGN CHOICE). -/
def Obligations.FrameEventBuilds : Prop :=
  ∀ s : State, s.resetLow = false → ∃ t, exec .frameEvent s = .next t ∧
    t.output.inForce = s.output.stored ∧ t.output.stored = s.output.stored ∧
    t.output.frameLeft = s.output.stored.period ∧ t.output.routes = s.output.routes ∧
    t.output.frameCount = (s.output.frameCount + 1) % 65536 ∧
    (∀ (p : Strip) (c : Chan) (e : Int × Bool), c.val = p.val →
      e = effectiveLevel (s.chan c).used (s.chan c).cfg.trim ((s.chan c).cfg.group.map fun g =>
        ((s.chan ⟨48 + g.val, by omega⟩).used, (s.chan ⟨48 + g.val, by omega⟩).cfg.trim)) →
      (t.chan c).mute = muteStep s.output.stored.period
          (if s.seq.state = .safe then 20 else (s.chan c).cfg.muteRamp)
          (if s.muteSources c = 0 then 1024 else 0) (s.chan c).mute ∧
      (t.chan c).effective = e.1 ∧ (t.chan c).limited = e.2 ∧
      ((s.chan c).limited = false → e.2 = true → t.Raised .levelClamp)) ∧
    (∀ c : Chan, 48 ≤ c.val → (t.chan c).mute = (s.chan c).mute ∧
      (t.chan c).effective = (s.chan c).effective ∧ (t.chan c).limited = (s.chan c).limited) ∧
    (∀ c, (t.chan c).level = (s.chan c).level ∧ (t.chan c).hand = match (s.chan c).hand with
      | .gliding start since time => if time ≤ since then .free else .gliding start since time
      | h => h) ∧
    (∀ n : GainNo, ∃ (f : Frame) (words : List Nat) (strip : Fin 64 → Option Strip),
      f = { count := s.output.frameCount, safe := s.seq.state == .safe
            hold := s.seq.state == .hold, content := .gain words } ∧
      words.length = 64 ∧
      (∀ k, (strip k = none ↔ ∀ p, s.output.routes.get p ≠ some (n, k)) ∧
        ∀ p, strip k = some p → s.output.routes.get p = some (n, k)) ∧
      (∀ k : Fin 64, words[k.val]? = some ((strip k).elim 0 fun p =>
        gainWord (t.chan ⟨p.val, by omega⟩).effective (t.chan ⟨p.val, by omega⟩).mute)) ∧
      ((s.output.lines.get n).shift = none →
        (t.output.lines.get n).shift = some
            { frame := f, bitTime := s.output.stored.dividers.get n + 1
              left := (1592 * (s.output.stored.dividers.get n + 1) : Nat) } ∧
          (t.output.lines.get n).stage = (s.output.lines.get n).stage ∧
            (t.output.lines.get n).late = (s.output.lines.get n).late) ∧
      ((s.output.lines.get n).shift ≠ none →
        (t.output.lines.get n).shift = (s.output.lines.get n).shift ∧
          (t.output.lines.get n).stage = some f ∧
            (t.output.lines.get n).late = (if (s.output.lines.get n).stage = none then
              (s.output.lines.get n).late else countUp 65535 (s.output.lines.get n).late) ∧
              ((s.output.lines.get n).stage ≠ none → t.Raised .lineLate))) ∧
    (∃ f slots, f = ({ count := s.output.frameCount, safe := s.seq.state == .safe
                       hold := s.seq.state == .hold, content := .surface slots } : Frame) ∧
      slots.length = 16 ∧
      (∀ k : Slot, slots[k.val]? = some
        (if s.slotUsed k = true then
          match (s.fader k).mapping with
          | none => { target := 0, drive := false, tally := false }
          | some c => { target := motorTarget (s.chan c).used
                        drive := decide ((s.fader k).state = .free)
                        tally := decide (s.muteSources c ≠ 0) }
        else { target := 0, drive := false, tally := false })) ∧
      (s.output.surfaceShift = none →
        t.output.surfaceShift = some { frame := f, bitTime := 8, left := 2496 } ∧
          t.output.surfaceStage = s.output.surfaceStage) ∧
      (s.output.surfaceShift ≠ none → t.output.surfaceShift = s.output.surfaceShift ∧
        t.output.surfaceStage = some f)) ∧
    ((∀ n, (s.output.lines.get n).shift = none ∨ (s.output.lines.get n).stage = none) ∨
        s.events.actLate = .none → t.seq = s.seq ∧ t.clock = s.clock) ∧
    (∀ n, (s.output.lines.get n).shift ≠ none → (s.output.lines.get n).stage ≠ none →
      (s.events.actLate = .hold →
        t.seq = { s.seq with
          state := if s.seq.state = .running then .hold else s.seq.state }) ∧
      (s.events.actLate = .safe → t.seq.state = .safe ∧
        (s.seq.state = .edit → t.seq.ret = .edit) ∧
        (s.seq.state = .running ∨ s.seq.state = .hold → t.seq.ret = .hold))) ∧
    t.surface = s.surface ∧ t.cues = s.cues ∧ t.link = s.link

/-- At the end of a send a staged frame moves into the shift and the stage becomes EMPTY, or the
line becomes idle; nothing else changes, and an idle line has no such end (R166, R169; log entry 4). The
send that follows began at the instant the last one ended, so that the cycles past it count, and lasts a
whole number of crystal cycles with the divider in force (R165; log entry 16: DESIGN CHOICE). OUTPUT_SETUP
stores a configuration, its dividers brought into their range, not yet in force, and tells whether it is
pending; another frame period is refused BAD_FIELD (R170). ROUTE_PUT places a strip on a free slot or
unroutes it, and refuses a slot that another strip holds and a number outside its range, the reply carrying
the strip's entry wherever the request names a strip (R163); how an unrouted entry reads there is log
entry 7 (DESIGN CHOICE). A gain frame is 199 bytes and a surface frame 39, laid
out as R160, R169 and R199 give them, and sent most significant bit first, one bit in each period of the
line's clock pin; clock and data pins of an idle line are low (R165, R169). That the clock pin is low in the
first half of a period and high in the second is log entry 20 (DESIGN CHOICE). -/
def Obligations.OutputLines : Prop :=
  (∀ s : State, s.resetLow = false →
    (∀ (n : GainNo) (h : Shifting), (s.output.lines.get n).shift = some h → ∃ l,
      exec (.sendEnd (.gain n)) s =
          .next (s.setOutput { s.output with lines := s.output.lines.set n l }) ∧
        l.stage = none ∧ l.late = (s.output.lines.get n).late ∧
        l.shift = (s.output.lines.get n).stage.map fun f =>
          { frame := f, bitTime := s.output.inForce.dividers.get n + 1
            left := (f.sendTime (s.output.inForce.dividers.get n + 1) : Nat) + min h.left 0 }) ∧
    (∀ h : Shifting, s.output.surfaceShift = some h → ∃ x,
      exec (.sendEnd .surface) s =
          .next (s.setOutput { s.output with surfaceShift := x, surfaceStage := none }) ∧
        x = s.output.surfaceStage.map fun f =>
          { frame := f, bitTime := 8, left := (f.sendTime 8 : Nat) + min h.left 0 }) ∧
    (∀ n : GainNo, (s.output.lines.get n).shift = none →
      exec (.sendEnd (.gain n)) s = .next s) ∧
    (s.output.surfaceShift = none → exec (.sendEnd .surface) s = .next s)) ∧
    (∀ (f : Frame) (b : Nat),
      (∀ words, f.content = .gain words → f.sendTime b = 1592 * b) ∧
        ∀ slots, f.content = .surface slots → f.sendTime b = 312 * b) ∧
    (∀ f : Frame, f.count < 65536 →
      (∀ words, f.content = .gain words → words.length = 64 → (∀ w ∈ words, w < 16777216) →
        f.LaidOut 0xC3 64 3 (fun k => words.getD k 0)) ∧
      ∀ slots, f.content = .surface slots → slots.length = 16 → (∀ e ∈ slots, e.target < 1024) →
        f.LaidOut 0x3C 16 2 fun k => match slots[k]? with
          | some e => (if e.drive then 32768 else 0) + (if e.tally then 16384 else 0) + e.target
          | none => 0) ∧
    (∀ s : State,
      (∀ n : GainNo, ((s.output.lines.get n).shift = none → s.gainPins n = (false, false)) ∧
        ∀ h, (s.output.lines.get n).shift = some h → h.Carried (s.gainPins n)) ∧
      (s.output.surfaceShift = none → s.surfacePins = (false, false)) ∧
        ∀ h, s.output.surfaceShift = some h → h.Carried s.surfacePins) ∧
    ∀ s : State, s.Open →
        (∀ k c : OutputConfig, k.period = 1 ∨ k.period = 2 ∨ k.period = 4 ∨ k.period = 8 →
          (∀ n, k.dividers.get n < 256) → c.period = k.period →
          (∀ n, c.dividers.get n = max 3 (k.dividers.get n)) →
            exec (.outputSetup .own (outputSettings k)) s =
              .next ((s.setOutput { s.output with stored := c }).heard.replying 0x58
                (if k = c then .ok else .okClamped)
                (outputSettings c ++ [flag (decide (c ≠ s.output.inForce))]))) ∧
        (∀ f a b c d : Byte, f.toNat ≠ 1 → f.toNat ≠ 2 → f.toNat ≠ 4 → f.toNat ≠ 8 →
          exec (.outputSetup .own [f, a, b, c, d]) s = .next (s.answeredBare 0x58 .badField)) ∧
        (∀ (p : Strip) (n : GainNo) (k : Fin 64),
          (∀ q, q ≠ p → s.output.routes.get q ≠ some (n, k)) →
            exec (.routePut .own [byte (p.val + 1), byte (n.val + 1), byte (k.val + 1)]) s =
              .next ((s.setOutput { s.output with
                routes := s.output.routes.set p (some (n, k)) }).heard.replying 0x59 .ok
                  [byte (n.val + 1), byte (k.val + 1)])) ∧
        (∀ (p : Strip) (x : Byte), exec (.routePut .own [byte (p.val + 1), 0, x]) s =
          .next ((s.setOutput { s.output with
            routes := s.output.routes.set p none }).heard.replying 0x59 .ok [0, 0])) ∧
        (∀ p l k : Byte, p.toNat = 0 ∨ 48 < p.toNat →
          exec (.routePut .own [p, l, k]) s = .next (s.answeredBare 0x59 .badField)) ∧
        (∀ (p : Strip) (l k : Byte), 4 < l.toNat ∨ l.toNat ≠ 0 ∧ (k.toNat = 0 ∨ 64 < k.toNat) →
          exec (.routePut .own [byte (p.val + 1), l, k]) s =
            .next (s.heard.replying 0x59 .badField
              (match s.output.routes.get p with
                | none => [0, 0]
                | some (m, j) => [byte (m.val + 1), byte (j.val + 1)]))) ∧
        ∀ (p q : Strip) (n : GainNo) (k : Fin 64), s.RoutesDistinct → q ≠ p →
          s.output.routes.get q = some (n, k) →
            exec (.routePut .own [byte (p.val + 1), byte (n.val + 1), byte (k.val + 1)]) s =
              .next (s.heard.replying 0x59 .duplicate
                ((match s.output.routes.get p with
                  | none => [0, 0]
                  | some (m, j) => [byte (m.val + 1), byte (j.val + 1)]) ++ [byte (q.val + 1)]))

/-! ### Level arithmetic -/

/-- The fixed table T: 200 entries, each 1,048,576 × 10^(r / 200) rounded half up, strictly
increasing from T[0] = 1,048,576 through T[100] = 3,315,888 and T[140] = 5,255,329, with T[199] below ten
times T[0] (R33). The rounding is stated on 200th powers. -/
def Obligations.GainTable : Prop :=
  gainTable.length = 200 ∧
    (∀ r v : Nat, gainTable[r]? = some v →
      (2 * v - 1) ^ 200 ≤ 2 ^ 4200 * 10 ^ r ∧ 2 ^ 4200 * 10 ^ r < (2 * v + 1) ^ 200) ∧
      gainTable.Pairwise (· < ·) ∧ gainTable[0]? = some 1048576 ∧ gainTable[100]? = some 3315888 ∧
        gainTable[140]? = some 5255329 ∧ ∀ v, gainTable[199]? = some v → v < 10 * 1048576

/-- At each frame event every strip's mute factor moves one step toward its goal, 0 while any mute
source is set and 1024 while none is, with the frame period then in force and the ramp time, 20 ms under
SAFE and the strip's own otherwise. With ramp time 0 the factor is its goal; otherwise it moves by
ceiling(1024 × F / Rm), stopping exactly at the goal, and stays in 0..1024 (R30). The mute sources of a
channel are the stored CUE, OPERATOR and REMOTE, bits 0 to 2; GROUP, bit 3, set exactly on a strip whose
group master 48+g has CUE, OPERATOR, REMOTE or SAFE set; and SAFE, bit 4, set on every channel exactly while
the show state is SAFE. -/
def Obligations.MuteStep : Prop :=
  (∀ (s : State) (c : Chan),
    (s.muteSources c).testBit 0 = (s.chan c).cue ∧ (s.muteSources c).testBit 1 = (s.chan c).operator ∧
    (s.muteSources c).testBit 2 = (s.chan c).remote ∧
    ((s.muteSources c).testBit 3 = true ↔ c.val < 48 ∧ ∃ (g : Fin 8) (m : Chan),
      (s.chan c).cfg.group = some g ∧ m.val = 48 + g.val ∧ ((s.chan m).cue = true ∨
        (s.chan m).operator = true ∨ (s.chan m).remote = true ∨ s.seq.state = .safe)) ∧
    ((s.muteSources c).testBit 4 = true ↔ s.seq.state = .safe) ∧ s.muteSources c < 32) ∧
  (∀ (s : State) (p : Strip) (goal ramp m : Nat), s.resetLow = false →
    m = (s.chan (stripChan p)).mute →
      goal = (if s.muteSources (stripChan p) = 0 then 1024 else 0) →
        ramp = (if s.seq.state = .safe then 20 else (s.chan (stripChan p)).cfg.muteRamp) →
          ∃ t, exec .frameEvent s = .next t ∧
            (t.chan (stripChan p)).mute = muteStep t.output.inForce.period ramp goal m) ∧
  ∀ f ramp goal m : Nat,
    (ramp = 0 → muteStep f ramp goal m = goal) ∧
    (∀ d : Nat, 1 ≤ ramp → 1024 * f ≤ d * ramp → (∀ x, 1024 * f ≤ x * ramp → d ≤ x) →
      (m < goal → muteStep f ramp goal m = min (m + d) goal) ∧
      (goal < m → muteStep f ramp goal m = max (m - d) goal) ∧
      (m = goal → muteStep f ramp goal m = m)) ∧
    (goal ≤ 1024 → m ≤ 1024 → muteStep f ramp goal m ≤ 1024)

/-- A move's level at any elapsed time lies between its start and its target, is the target from its
duration on, and for every curve but SNAP_START is the start at elapsed time 0; it is the start and (T −
S) × q / 65,536, rounded to nearest, halves away from zero, where the curve's formula shapes the progress
floor(t × 65,536 / D) to q, clamped to 0..65,536 (R22 to R24). A glide does the same between H0 and the
live A, with its progress for q (R26). The used level of a FREE channel is A, of a HELD one H, and of a
GLIDING one its glide's (R5). The effective level is OFF under a used level or a master at OFF, and
otherwise the sum of levels and trims, held at +100 with LIMITED and OFF from −800 down (R28, R29). The
gain word is 0 at OFF and at mute factor 0; the unscaled gain is the table's entry divided by ten for
each decade below 0, rounded half up, from 106 at −799 through 1,048,576 at 0 to 3,315,888 at +100, and
the word its share m / 1024, rounded down (R32, R34). The fader law and its inverse are the segments of
R36 and R37, rounded half up, do not fall, have the end values and joins of those rules, stay in their
ranges, and give every level from −300 up back exactly and every other within one, OFF as OFF (R38). -/
def Obligations.MoveLevelBetween : Prop :=
  (∀ (a b : Int) (d t : Nat) (k : Curve),
    min a b ≤ moveLevel a b d k t ∧ moveLevel a b d k t ≤ max a b ∧
      (d ≤ t → moveLevel a b d k t = b) ∧
        (0 < d → k ≠ .snapStart → moveLevel a b d k 0 = a)) ∧
    (∀ (h a : Int) (since time : Nat),
      min h a ≤ glideLevel h a since time ∧ glideLevel h a since time ≤ max h a ∧
        (time ≤ since → glideLevel h a since time = a) ∧ (0 < time → glideLevel h a 0 time = h)) ∧
    (∀ (a b p q : Int) (d t : Nat) (k : Curve), 0 < d → p = (min t d * 65536 / d : Nat) →
      q = max 0 (min 65536 (match k with
        | .linear => p
        | .easeIn => p * p / 65536
        | .easeOut => 65536 - (65536 - p) * (65536 - p) / 65536
        | .scurve => 3 * (p * p / 65536) - 2 * (p * p / 65536 * p / 65536)
        | .snapEnd => if p < 65536 then 0 else 65536
        | .snapStart => 65536)) →
      ∃ n, moveLevel a b d k t = a + n ∧ RoundedAway ((b - a) * q) 65536 n) ∧
    (∀ (h a g : Int) (since time : Nat), 0 < time → g = (min (since * 65536 / time) 65536 : Nat) →
      ∃ n, glideLevel h a since time = h + n ∧ RoundedAway ((a - h) * g) 65536 n) ∧
    (∀ r : Channel, (r.hand = .free → r.used = r.level) ∧ (∀ h, r.hand = .held h → r.used = h) ∧
      ∀ start since time, r.hand = .gliding start since time →
        r.used = glideLevel start r.level since time) ∧
    (∀ (v trim : Int) (master : Option (Int × Int)) (sum : Int),
      sum = v + trim + (master.elim 0 fun g => g.1 + g.2) →
        (v = -800 ∨ (∃ g, master = some g ∧ g.1 = -800) →
          effectiveLevel v trim master = (-800, false)) ∧
        (v ≠ -800 → (∀ g, master = some g → g.1 ≠ -800) →
          (100 < sum → effectiveLevel v trim master = (100, true)) ∧
          (-800 < sum → sum ≤ 100 → effectiveLevel v trim master = (sum, false)) ∧
          (sum ≤ -800 → effectiveLevel v trim master = (-800, false)))) ∧
    (∀ m : Nat, gainWord (-800) m = 0) ∧
    (∀ (e : Int) (m : Nat), -800 < e → e ≤ 100 → m ≤ 1024 →
      gainWord e m * 1024 ≤ unscaledGain e * m ∧ unscaledGain e * m < (gainWord e m + 1) * 1024 ∧
        gainWord e 1024 = unscaledGain e ∧ gainWord e 0 = 0 ∧
        106 ≤ unscaledGain e ∧ unscaledGain e ≤ 3315888 ∧ gainWord e m ≤ 3315888) ∧
    (∀ (k r v : Nat), k ≤ 4 → gainTable[r]? = some v → -800 < (r : Int) - 200 * k →
      (r : Int) - 200 * k ≤ 100 →
        2 * 10 ^ k * unscaledGain ((r : Int) - 200 * k) ≤ 2 * v + 10 ^ k ∧
          2 * v + 10 ^ k < 2 * 10 ^ k * (unscaledGain ((r : Int) - 200 * k) + 1)) ∧
    (unscaledGain 100 = 3315888 ∧ unscaledGain 0 = 1048576 ∧ unscaledGain (-799) = 106) ∧
    (∀ p q : Nat, p ≤ q → q ≤ 1023 → -800 ≤ faderLaw p ∧ faderLaw p ≤ faderLaw q ∧ faderLaw q ≤ 100) ∧
    (∀ p : Nat, p ≤ 16 → faderLaw p = -800) ∧
    (∀ p : Nat, 16 ≤ p → p ≤ 1023 → ∃ n : Nat,
      (p < 256 → faderLaw p = -800 + n ∧ RoundedUp (500 * (p - 16)) 240 n) ∧
      (256 ≤ p → p < 768 → faderLaw p = -300 + n ∧ RoundedUp (300 * (p - 256)) 512 n) ∧
      (768 ≤ p → faderLaw p = n ∧ RoundedUp (100 * (p - 768)) 255 n)) ∧
    (∀ v : Int, -800 < v → v ≤ 100 → ∃ n : Nat,
      (v < -300 → motorTarget v = 16 + n ∧ RoundedUp (240 * (v + 800).toNat) 500 n) ∧
      (-300 ≤ v → v < 0 → motorTarget v = 256 + n ∧ RoundedUp (512 * (v + 300).toNat) 300 n) ∧
      (0 ≤ v → motorTarget v = 768 + n ∧ RoundedUp (255 * v.toNat) 100 n)) ∧
    (faderLaw 256 = -300 ∧ faderLaw 768 = 0 ∧ faderLaw 1023 = 100) ∧
    (∀ v w : Int, -800 ≤ v → v ≤ w → w ≤ 100 → motorTarget v ≤ motorTarget w ∧ motorTarget w ≤ 1023) ∧
    (motorTarget (-800) = 0 ∧ motorTarget (-300) = 256 ∧ motorTarget 0 = 768 ∧
      motorTarget 100 = 1023) ∧
    ∀ v : Int, -800 ≤ v → v ≤ 100 →
      (-300 ≤ v ∨ v = -800 → faderLaw (motorTarget v) = v) ∧
        faderLaw (motorTarget v) ≤ v + 1 ∧ v ≤ faderLaw (motorTarget v) + 1

/-! ### What every step keeps -/

/-- Every invariant below holds right after reset. -/
def Obligations.ResetMeetsInvariants : Prop :=
  State.reset.ClockInRange ∧ State.reset.PointMatches ∧ State.reset.QueuesFit ∧
    State.reset.ShowConsistent ∧ State.reset.ListInOrder ∧ State.reset.PlayheadInList ∧
      State.reset.RoutesDistinct ∧ State.reset.BanksDistinct ∧ State.reset.HandsAgree ∧
        State.reset.LevelsInRange ∧ State.reset.OutputBounded ∧ State.reset.PendingKept ∧
          State.reset.RepliesFit

/-- Every step keeps the clock's figures in their ranges: ρ, P, the song, the good count, the three
counters and the error count (R113), and the seven settings (R126); and the clock point equal to the point
of the arm (R123). -/
def Obligations.ClockKept : Prop :=
  ∀ s t : State, step s = .next t →
    (s.ClockInRange → t.ClockInRange) ∧ (s.PointMatches → t.PointMatches)

/-- Every step keeps the show states consistent: in EDIT and SAFE no firing, no arm and, against edits, no
crossing kept (log entry 26), and return state EDIT outside SAFE (R46, R60, R71, R75). SAFE is left only by
SAFE_RELEASE and by the resets (R60). -/
def Obligations.ShowKept : Prop :=
  (∀ s t : State, step s = .next t → s.ShowConsistent → t.ShowConsistent) ∧
    ∀ (i : Instr) (s t : State), exec i s = .next t → s.seq.state = .safe → t.seq.state ≠ .safe →
      (∃ d b, i = .safeRelease d b) ∨ (∃ d b, i = .restart d b) ∨ i = .replyEnd ∨
        (∃ x, i = .powerOn x) ∨ ∃ x, i = .resetPin x

/-- Every step keeps the flight table, the notice queue and the request buffer within their sizes (R71,
R86, R179); while the cue list is kept, every pending list at no more than 4 moves (R91), in ascending
order of remaining delay and the moves of one firing with one timebase (R93); and every waiting reply
within a message (R180). -/
def Obligations.QueuesKept : Prop :=
  ∀ s t : State, step s = .next t →
    (s.QueuesFit → t.QueuesFit) ∧ (s.ListInOrder → s.PendingKept → t.PendingKept) ∧
      (s.QueuesFit → s.RepliesFit → t.RepliesFit)

/-- Every step keeps the cue list in strictly ascending order and within its sizes, the 2048 moves of
the pool and the 4 moves of one channel in a cue among them (R40, R42), and the playhead on cues of the
list (R67). -/
def Obligations.StoreKept : Prop :=
  ∀ s t : State, step s = .next t →
    (s.ListInOrder → t.ListInOrder) ∧ (s.PlayheadInList → t.PlayheadInList)

/-- Every step keeps hands and faders agreed: a channel is HELD exactly while one fader holds it, at the
law's level of that fader's accepted position, and a fader out of use is FREE (R129, R137, R138, R146);
no line slot serves two strips (R162) and no bank repeats a channel (R133). -/
def Obligations.SurfaceKept : Prop :=
  ∀ s t : State, step s = .next t →
    (s.HandsAgree → t.HandsAgree) ∧ (s.RoutesDistinct → t.RoutesDistinct) ∧
      (s.BanksDistinct → t.BanksDistinct)

/-- Every step keeps every level in −800..+100 and, with that, every mute factor in 0..1024 and every
frame that waits or is sent whole, its 64 gain words within 0..3,315,888 (R20, R34, R160). -/
def Obligations.GainsKept : Prop :=
  ∀ s t : State, step s = .next t → s.LevelsInRange →
    t.LevelsInRange ∧ (s.OutputBounded → t.OutputBounded)

/-- The retained memory but for the restart record is written by the requests that own it and by the
supply alone: no other command, the reset pin and the link restart among them, changes it (R195). -/
def Obligations.RetainedWritten : Prop :=
  ∀ (i : Instr) (s t : State), exec i s = .next t → i.writesRetained = false →
    (∀ x, i ≠ .powerOn x) → t.retained = s.retained
end

