-- ==== Sys2Proof/Laws/State.lean ====
section
/-!
SUPPORT. The fields of a state after an update: one lemma for each field and each update of
Machine/State.lean, all true by unfolding, so that no proof unfolds a record update.
-/

namespace Sys2Proof.Machine

variable (s : State)

@[simp] theorem State.setChannels_channels (x : Tab 56 Channel) : (s.setChannels x).channels = x := rfl
@[simp] theorem State.setChannels_cues (x : Tab 56 Channel) : (s.setChannels x).cues = s.cues := rfl
@[simp] theorem State.setChannels_seq (x : Tab 56 Channel) : (s.setChannels x).seq = s.seq := rfl
@[simp] theorem State.setChannels_clock (x : Tab 56 Channel) : (s.setChannels x).clock = s.clock := rfl
@[simp] theorem State.setChannels_surface (x : Tab 56 Channel) : (s.setChannels x).surface = s.surface := rfl
@[simp] theorem State.setChannels_contacts (x : Tab 56 Channel) : (s.setChannels x).contacts = s.contacts := rfl
@[simp] theorem State.setChannels_output (x : Tab 56 Channel) : (s.setChannels x).output = s.output := rfl
@[simp] theorem State.setChannels_link (x : Tab 56 Channel) : (s.setChannels x).link = s.link := rfl
@[simp] theorem State.setChannels_events (x : Tab 56 Channel) : (s.setChannels x).events = s.events := rfl
@[simp] theorem State.setChannels_restart (x : Tab 56 Channel) : (s.setChannels x).restart = s.restart := rfl
@[simp] theorem State.setChannels_resetLow (x : Tab 56 Channel) : (s.setChannels x).resetLow = s.resetLow := rfl
@[simp] theorem State.setChannels_free (x : Tab 56 Channel) : (s.setChannels x).free = s.free := rfl
@[simp] theorem State.setChannels_pending (x : Tab 56 Channel) : (s.setChannels x).pending = s.pending := rfl
@[simp] theorem State.setChannels_inputs (x : Tab 56 Channel) : (s.setChannels x).inputs = s.inputs := rfl
@[simp] theorem State.setChannels_twice (x y : Tab 56 Channel) : (s.setChannels x).setChannels y = s.setChannels y := rfl

@[simp] theorem State.setCues_channels (x : List Cue) : (s.setCues x).channels = s.channels := rfl
@[simp] theorem State.setCues_cues (x : List Cue) : (s.setCues x).cues = x := rfl
@[simp] theorem State.setCues_seq (x : List Cue) : (s.setCues x).seq = s.seq := rfl
@[simp] theorem State.setCues_clock (x : List Cue) : (s.setCues x).clock = s.clock := rfl
@[simp] theorem State.setCues_surface (x : List Cue) : (s.setCues x).surface = s.surface := rfl
@[simp] theorem State.setCues_contacts (x : List Cue) : (s.setCues x).contacts = s.contacts := rfl
@[simp] theorem State.setCues_output (x : List Cue) : (s.setCues x).output = s.output := rfl
@[simp] theorem State.setCues_link (x : List Cue) : (s.setCues x).link = s.link := rfl
@[simp] theorem State.setCues_events (x : List Cue) : (s.setCues x).events = s.events := rfl
@[simp] theorem State.setCues_restart (x : List Cue) : (s.setCues x).restart = s.restart := rfl
@[simp] theorem State.setCues_resetLow (x : List Cue) : (s.setCues x).resetLow = s.resetLow := rfl
@[simp] theorem State.setCues_free (x : List Cue) : (s.setCues x).free = s.free := rfl
@[simp] theorem State.setCues_pending (x : List Cue) : (s.setCues x).pending = s.pending := rfl
@[simp] theorem State.setCues_inputs (x : List Cue) : (s.setCues x).inputs = s.inputs := rfl
@[simp] theorem State.setCues_twice (x y : List Cue) : (s.setCues x).setCues y = s.setCues y := rfl

@[simp] theorem State.setSeq_channels (x : Sequencer) : (s.setSeq x).channels = s.channels := rfl
@[simp] theorem State.setSeq_cues (x : Sequencer) : (s.setSeq x).cues = s.cues := rfl
@[simp] theorem State.setSeq_seq (x : Sequencer) : (s.setSeq x).seq = x := rfl
@[simp] theorem State.setSeq_clock (x : Sequencer) : (s.setSeq x).clock = s.clock := rfl
@[simp] theorem State.setSeq_surface (x : Sequencer) : (s.setSeq x).surface = s.surface := rfl
@[simp] theorem State.setSeq_contacts (x : Sequencer) : (s.setSeq x).contacts = s.contacts := rfl
@[simp] theorem State.setSeq_output (x : Sequencer) : (s.setSeq x).output = s.output := rfl
@[simp] theorem State.setSeq_link (x : Sequencer) : (s.setSeq x).link = s.link := rfl
@[simp] theorem State.setSeq_events (x : Sequencer) : (s.setSeq x).events = s.events := rfl
@[simp] theorem State.setSeq_restart (x : Sequencer) : (s.setSeq x).restart = s.restart := rfl
@[simp] theorem State.setSeq_resetLow (x : Sequencer) : (s.setSeq x).resetLow = s.resetLow := rfl
@[simp] theorem State.setSeq_free (x : Sequencer) : (s.setSeq x).free = s.free := rfl
@[simp] theorem State.setSeq_pending (x : Sequencer) : (s.setSeq x).pending = s.pending := rfl
@[simp] theorem State.setSeq_inputs (x : Sequencer) : (s.setSeq x).inputs = s.inputs := rfl
@[simp] theorem State.setSeq_twice (x y : Sequencer) : (s.setSeq x).setSeq y = s.setSeq y := rfl

@[simp] theorem State.setClock_channels (x : Clock) : (s.setClock x).channels = s.channels := rfl
@[simp] theorem State.setClock_cues (x : Clock) : (s.setClock x).cues = s.cues := rfl
@[simp] theorem State.setClock_seq (x : Clock) : (s.setClock x).seq = s.seq := rfl
@[simp] theorem State.setClock_clock (x : Clock) : (s.setClock x).clock = x := rfl
@[simp] theorem State.setClock_surface (x : Clock) : (s.setClock x).surface = s.surface := rfl
@[simp] theorem State.setClock_contacts (x : Clock) : (s.setClock x).contacts = s.contacts := rfl
@[simp] theorem State.setClock_output (x : Clock) : (s.setClock x).output = s.output := rfl
@[simp] theorem State.setClock_link (x : Clock) : (s.setClock x).link = s.link := rfl
@[simp] theorem State.setClock_events (x : Clock) : (s.setClock x).events = s.events := rfl
@[simp] theorem State.setClock_restart (x : Clock) : (s.setClock x).restart = s.restart := rfl
@[simp] theorem State.setClock_resetLow (x : Clock) : (s.setClock x).resetLow = s.resetLow := rfl
@[simp] theorem State.setClock_free (x : Clock) : (s.setClock x).free = s.free := rfl
@[simp] theorem State.setClock_pending (x : Clock) : (s.setClock x).pending = s.pending := rfl
@[simp] theorem State.setClock_inputs (x : Clock) : (s.setClock x).inputs = s.inputs := rfl
@[simp] theorem State.setClock_twice (x y : Clock) : (s.setClock x).setClock y = s.setClock y := rfl

@[simp] theorem State.setSurface_channels (x : Surface) : (s.setSurface x).channels = s.channels := rfl
@[simp] theorem State.setSurface_cues (x : Surface) : (s.setSurface x).cues = s.cues := rfl
@[simp] theorem State.setSurface_seq (x : Surface) : (s.setSurface x).seq = s.seq := rfl
@[simp] theorem State.setSurface_clock (x : Surface) : (s.setSurface x).clock = s.clock := rfl
@[simp] theorem State.setSurface_surface (x : Surface) : (s.setSurface x).surface = x := rfl
@[simp] theorem State.setSurface_contacts (x : Surface) : (s.setSurface x).contacts = s.contacts := rfl
@[simp] theorem State.setSurface_output (x : Surface) : (s.setSurface x).output = s.output := rfl
@[simp] theorem State.setSurface_link (x : Surface) : (s.setSurface x).link = s.link := rfl
@[simp] theorem State.setSurface_events (x : Surface) : (s.setSurface x).events = s.events := rfl
@[simp] theorem State.setSurface_restart (x : Surface) : (s.setSurface x).restart = s.restart := rfl
@[simp] theorem State.setSurface_resetLow (x : Surface) : (s.setSurface x).resetLow = s.resetLow := rfl
@[simp] theorem State.setSurface_free (x : Surface) : (s.setSurface x).free = s.free := rfl
@[simp] theorem State.setSurface_pending (x : Surface) : (s.setSurface x).pending = s.pending := rfl
@[simp] theorem State.setSurface_inputs (x : Surface) : (s.setSurface x).inputs = s.inputs := rfl
@[simp] theorem State.setSurface_twice (x y : Surface) : (s.setSurface x).setSurface y = s.setSurface y := rfl

@[simp] theorem State.setContacts_channels (x : Contacts) : (s.setContacts x).channels = s.channels := rfl
@[simp] theorem State.setContacts_cues (x : Contacts) : (s.setContacts x).cues = s.cues := rfl
@[simp] theorem State.setContacts_seq (x : Contacts) : (s.setContacts x).seq = s.seq := rfl
@[simp] theorem State.setContacts_clock (x : Contacts) : (s.setContacts x).clock = s.clock := rfl
@[simp] theorem State.setContacts_surface (x : Contacts) : (s.setContacts x).surface = s.surface := rfl
@[simp] theorem State.setContacts_contacts (x : Contacts) : (s.setContacts x).contacts = x := rfl
@[simp] theorem State.setContacts_output (x : Contacts) : (s.setContacts x).output = s.output := rfl
@[simp] theorem State.setContacts_link (x : Contacts) : (s.setContacts x).link = s.link := rfl
@[simp] theorem State.setContacts_events (x : Contacts) : (s.setContacts x).events = s.events := rfl
@[simp] theorem State.setContacts_restart (x : Contacts) : (s.setContacts x).restart = s.restart := rfl
@[simp] theorem State.setContacts_resetLow (x : Contacts) : (s.setContacts x).resetLow = s.resetLow := rfl
@[simp] theorem State.setContacts_free (x : Contacts) : (s.setContacts x).free = s.free := rfl
@[simp] theorem State.setContacts_pending (x : Contacts) : (s.setContacts x).pending = s.pending := rfl
@[simp] theorem State.setContacts_inputs (x : Contacts) : (s.setContacts x).inputs = s.inputs := rfl
@[simp] theorem State.setContacts_twice (x y : Contacts) : (s.setContacts x).setContacts y = s.setContacts y := rfl

@[simp] theorem State.setOutput_channels (x : Output) : (s.setOutput x).channels = s.channels := rfl
@[simp] theorem State.setOutput_cues (x : Output) : (s.setOutput x).cues = s.cues := rfl
@[simp] theorem State.setOutput_seq (x : Output) : (s.setOutput x).seq = s.seq := rfl
@[simp] theorem State.setOutput_clock (x : Output) : (s.setOutput x).clock = s.clock := rfl
@[simp] theorem State.setOutput_surface (x : Output) : (s.setOutput x).surface = s.surface := rfl
@[simp] theorem State.setOutput_contacts (x : Output) : (s.setOutput x).contacts = s.contacts := rfl
@[simp] theorem State.setOutput_output (x : Output) : (s.setOutput x).output = x := rfl
@[simp] theorem State.setOutput_link (x : Output) : (s.setOutput x).link = s.link := rfl
@[simp] theorem State.setOutput_events (x : Output) : (s.setOutput x).events = s.events := rfl
@[simp] theorem State.setOutput_restart (x : Output) : (s.setOutput x).restart = s.restart := rfl
@[simp] theorem State.setOutput_resetLow (x : Output) : (s.setOutput x).resetLow = s.resetLow := rfl
@[simp] theorem State.setOutput_free (x : Output) : (s.setOutput x).free = s.free := rfl
@[simp] theorem State.setOutput_pending (x : Output) : (s.setOutput x).pending = s.pending := rfl
@[simp] theorem State.setOutput_inputs (x : Output) : (s.setOutput x).inputs = s.inputs := rfl
@[simp] theorem State.setOutput_twice (x y : Output) : (s.setOutput x).setOutput y = s.setOutput y := rfl

@[simp] theorem State.setLink_channels (x : Link) : (s.setLink x).channels = s.channels := rfl
@[simp] theorem State.setLink_cues (x : Link) : (s.setLink x).cues = s.cues := rfl
@[simp] theorem State.setLink_seq (x : Link) : (s.setLink x).seq = s.seq := rfl
@[simp] theorem State.setLink_clock (x : Link) : (s.setLink x).clock = s.clock := rfl
@[simp] theorem State.setLink_surface (x : Link) : (s.setLink x).surface = s.surface := rfl
@[simp] theorem State.setLink_contacts (x : Link) : (s.setLink x).contacts = s.contacts := rfl
@[simp] theorem State.setLink_output (x : Link) : (s.setLink x).output = s.output := rfl
@[simp] theorem State.setLink_link (x : Link) : (s.setLink x).link = x := rfl
@[simp] theorem State.setLink_events (x : Link) : (s.setLink x).events = s.events := rfl
@[simp] theorem State.setLink_restart (x : Link) : (s.setLink x).restart = s.restart := rfl
@[simp] theorem State.setLink_resetLow (x : Link) : (s.setLink x).resetLow = s.resetLow := rfl
@[simp] theorem State.setLink_free (x : Link) : (s.setLink x).free = s.free := rfl
@[simp] theorem State.setLink_pending (x : Link) : (s.setLink x).pending = s.pending := rfl
@[simp] theorem State.setLink_inputs (x : Link) : (s.setLink x).inputs = s.inputs := rfl
@[simp] theorem State.setLink_twice (x y : Link) : (s.setLink x).setLink y = s.setLink y := rfl

@[simp] theorem State.setEvents_channels (x : Events) : (s.setEvents x).channels = s.channels := rfl
@[simp] theorem State.setEvents_cues (x : Events) : (s.setEvents x).cues = s.cues := rfl
@[simp] theorem State.setEvents_seq (x : Events) : (s.setEvents x).seq = s.seq := rfl
@[simp] theorem State.setEvents_clock (x : Events) : (s.setEvents x).clock = s.clock := rfl
@[simp] theorem State.setEvents_surface (x : Events) : (s.setEvents x).surface = s.surface := rfl
@[simp] theorem State.setEvents_contacts (x : Events) : (s.setEvents x).contacts = s.contacts := rfl
@[simp] theorem State.setEvents_output (x : Events) : (s.setEvents x).output = s.output := rfl
@[simp] theorem State.setEvents_link (x : Events) : (s.setEvents x).link = s.link := rfl
@[simp] theorem State.setEvents_events (x : Events) : (s.setEvents x).events = x := rfl
@[simp] theorem State.setEvents_restart (x : Events) : (s.setEvents x).restart = s.restart := rfl
@[simp] theorem State.setEvents_resetLow (x : Events) : (s.setEvents x).resetLow = s.resetLow := rfl
@[simp] theorem State.setEvents_free (x : Events) : (s.setEvents x).free = s.free := rfl
@[simp] theorem State.setEvents_pending (x : Events) : (s.setEvents x).pending = s.pending := rfl
@[simp] theorem State.setEvents_inputs (x : Events) : (s.setEvents x).inputs = s.inputs := rfl
@[simp] theorem State.setEvents_twice (x y : Events) : (s.setEvents x).setEvents y = s.setEvents y := rfl

@[simp] theorem State.setRestart_channels (x : RestartRecord) : (s.setRestart x).channels = s.channels := rfl
@[simp] theorem State.setRestart_cues (x : RestartRecord) : (s.setRestart x).cues = s.cues := rfl
@[simp] theorem State.setRestart_seq (x : RestartRecord) : (s.setRestart x).seq = s.seq := rfl
@[simp] theorem State.setRestart_clock (x : RestartRecord) : (s.setRestart x).clock = s.clock := rfl
@[simp] theorem State.setRestart_surface (x : RestartRecord) : (s.setRestart x).surface = s.surface := rfl
@[simp] theorem State.setRestart_contacts (x : RestartRecord) : (s.setRestart x).contacts = s.contacts := rfl
@[simp] theorem State.setRestart_output (x : RestartRecord) : (s.setRestart x).output = s.output := rfl
@[simp] theorem State.setRestart_link (x : RestartRecord) : (s.setRestart x).link = s.link := rfl
@[simp] theorem State.setRestart_events (x : RestartRecord) : (s.setRestart x).events = s.events := rfl
@[simp] theorem State.setRestart_restart (x : RestartRecord) : (s.setRestart x).restart = x := rfl
@[simp] theorem State.setRestart_resetLow (x : RestartRecord) : (s.setRestart x).resetLow = s.resetLow := rfl
@[simp] theorem State.setRestart_free (x : RestartRecord) : (s.setRestart x).free = s.free := rfl
@[simp] theorem State.setRestart_pending (x : RestartRecord) : (s.setRestart x).pending = s.pending := rfl
@[simp] theorem State.setRestart_inputs (x : RestartRecord) : (s.setRestart x).inputs = s.inputs := rfl
@[simp] theorem State.setRestart_twice (x y : RestartRecord) : (s.setRestart x).setRestart y = s.setRestart y := rfl

@[simp] theorem State.setResetLow_channels (x : Bool) : (s.setResetLow x).channels = s.channels := rfl
@[simp] theorem State.setResetLow_cues (x : Bool) : (s.setResetLow x).cues = s.cues := rfl
@[simp] theorem State.setResetLow_seq (x : Bool) : (s.setResetLow x).seq = s.seq := rfl
@[simp] theorem State.setResetLow_clock (x : Bool) : (s.setResetLow x).clock = s.clock := rfl
@[simp] theorem State.setResetLow_surface (x : Bool) : (s.setResetLow x).surface = s.surface := rfl
@[simp] theorem State.setResetLow_contacts (x : Bool) : (s.setResetLow x).contacts = s.contacts := rfl
@[simp] theorem State.setResetLow_output (x : Bool) : (s.setResetLow x).output = s.output := rfl
@[simp] theorem State.setResetLow_link (x : Bool) : (s.setResetLow x).link = s.link := rfl
@[simp] theorem State.setResetLow_events (x : Bool) : (s.setResetLow x).events = s.events := rfl
@[simp] theorem State.setResetLow_restart (x : Bool) : (s.setResetLow x).restart = s.restart := rfl
@[simp] theorem State.setResetLow_resetLow (x : Bool) : (s.setResetLow x).resetLow = x := rfl
@[simp] theorem State.setResetLow_free (x : Bool) : (s.setResetLow x).free = s.free := rfl
@[simp] theorem State.setResetLow_pending (x : Bool) : (s.setResetLow x).pending = s.pending := rfl
@[simp] theorem State.setResetLow_inputs (x : Bool) : (s.setResetLow x).inputs = s.inputs := rfl
@[simp] theorem State.setResetLow_twice (x y : Bool) : (s.setResetLow x).setResetLow y = s.setResetLow y := rfl

@[simp] theorem State.setFree_channels (x : Nat) : (s.setFree x).channels = s.channels := rfl
@[simp] theorem State.setFree_cues (x : Nat) : (s.setFree x).cues = s.cues := rfl
@[simp] theorem State.setFree_seq (x : Nat) : (s.setFree x).seq = s.seq := rfl
@[simp] theorem State.setFree_clock (x : Nat) : (s.setFree x).clock = s.clock := rfl
@[simp] theorem State.setFree_surface (x : Nat) : (s.setFree x).surface = s.surface := rfl
@[simp] theorem State.setFree_contacts (x : Nat) : (s.setFree x).contacts = s.contacts := rfl
@[simp] theorem State.setFree_output (x : Nat) : (s.setFree x).output = s.output := rfl
@[simp] theorem State.setFree_link (x : Nat) : (s.setFree x).link = s.link := rfl
@[simp] theorem State.setFree_events (x : Nat) : (s.setFree x).events = s.events := rfl
@[simp] theorem State.setFree_restart (x : Nat) : (s.setFree x).restart = s.restart := rfl
@[simp] theorem State.setFree_resetLow (x : Nat) : (s.setFree x).resetLow = s.resetLow := rfl
@[simp] theorem State.setFree_free (x : Nat) : (s.setFree x).free = x := rfl
@[simp] theorem State.setFree_pending (x : Nat) : (s.setFree x).pending = s.pending := rfl
@[simp] theorem State.setFree_inputs (x : Nat) : (s.setFree x).inputs = s.inputs := rfl
@[simp] theorem State.setFree_twice (x y : Nat) : (s.setFree x).setFree y = s.setFree y := rfl

@[simp] theorem State.setPending_channels (x : List Instr) : (s.setPending x).channels = s.channels := rfl
@[simp] theorem State.setPending_cues (x : List Instr) : (s.setPending x).cues = s.cues := rfl
@[simp] theorem State.setPending_seq (x : List Instr) : (s.setPending x).seq = s.seq := rfl
@[simp] theorem State.setPending_clock (x : List Instr) : (s.setPending x).clock = s.clock := rfl
@[simp] theorem State.setPending_surface (x : List Instr) : (s.setPending x).surface = s.surface := rfl
@[simp] theorem State.setPending_contacts (x : List Instr) : (s.setPending x).contacts = s.contacts := rfl
@[simp] theorem State.setPending_output (x : List Instr) : (s.setPending x).output = s.output := rfl
@[simp] theorem State.setPending_link (x : List Instr) : (s.setPending x).link = s.link := rfl
@[simp] theorem State.setPending_events (x : List Instr) : (s.setPending x).events = s.events := rfl
@[simp] theorem State.setPending_restart (x : List Instr) : (s.setPending x).restart = s.restart := rfl
@[simp] theorem State.setPending_resetLow (x : List Instr) : (s.setPending x).resetLow = s.resetLow := rfl
@[simp] theorem State.setPending_free (x : List Instr) : (s.setPending x).free = s.free := rfl
@[simp] theorem State.setPending_pending (x : List Instr) : (s.setPending x).pending = x := rfl
@[simp] theorem State.setPending_inputs (x : List Instr) : (s.setPending x).inputs = s.inputs := rfl
@[simp] theorem State.setPending_twice (x y : List Instr) : (s.setPending x).setPending y = s.setPending y := rfl

@[simp] theorem State.setInputs_channels (x : List Pins) : (s.setInputs x).channels = s.channels := rfl
@[simp] theorem State.setInputs_cues (x : List Pins) : (s.setInputs x).cues = s.cues := rfl
@[simp] theorem State.setInputs_seq (x : List Pins) : (s.setInputs x).seq = s.seq := rfl
@[simp] theorem State.setInputs_clock (x : List Pins) : (s.setInputs x).clock = s.clock := rfl
@[simp] theorem State.setInputs_surface (x : List Pins) : (s.setInputs x).surface = s.surface := rfl
@[simp] theorem State.setInputs_contacts (x : List Pins) : (s.setInputs x).contacts = s.contacts := rfl
@[simp] theorem State.setInputs_output (x : List Pins) : (s.setInputs x).output = s.output := rfl
@[simp] theorem State.setInputs_link (x : List Pins) : (s.setInputs x).link = s.link := rfl
@[simp] theorem State.setInputs_events (x : List Pins) : (s.setInputs x).events = s.events := rfl
@[simp] theorem State.setInputs_restart (x : List Pins) : (s.setInputs x).restart = s.restart := rfl
@[simp] theorem State.setInputs_resetLow (x : List Pins) : (s.setInputs x).resetLow = s.resetLow := rfl
@[simp] theorem State.setInputs_free (x : List Pins) : (s.setInputs x).free = s.free := rfl
@[simp] theorem State.setInputs_pending (x : List Pins) : (s.setInputs x).pending = s.pending := rfl
@[simp] theorem State.setInputs_inputs (x : List Pins) : (s.setInputs x).inputs = x := rfl
@[simp] theorem State.setInputs_twice (x y : List Pins) : (s.setInputs x).setInputs y = s.setInputs y := rfl

end Sys2Proof.Machine
end

