-- ==== Sys2Proof/Laws/Tab.lean ====
section
/-!
SUPPORT. Reading a table after an update: the record that was written, and every other record.
-/

namespace Sys2Proof.Tab

variable {n : Nat} {α β : Type}

/-- Tables are equal when all their records are. -/
theorem ext_get {t u : Tab n α} (h : ∀ i, t.get i = u.get i) : t = u := by
  obtain ⟨a, ha⟩ := t
  obtain ⟨b, hb⟩ := u
  have : a = b := by
    apply List.ext_getElem (by rw [ha, hb])
    intro i h1 h2
    exact h ⟨i, by omega⟩
  subst this
  rfl

@[simp] theorem get_set_self (t : Tab n α) (i : Fin n) (a : α) : (t.set i a).get i = a := by
  simp [get, set]

theorem get_set (t : Tab n α) (i j : Fin n) (a : α) :
    (t.set i a).get j = if i = j then a else t.get j := by
  simp [get, set, List.getElem_set, Fin.ext_iff]

@[simp] theorem get_set_ne (t : Tab n α) {i j : Fin n} (a : α) (h : i ≠ j) :
    (t.set i a).get j = t.get j := by
  simp [get_set, h]

@[simp] theorem set_get_self (t : Tab n α) (i : Fin n) : t.set i (t.get i) = t := by
  apply ext_get
  intro j
  rw [get_set]
  split <;> simp_all

@[simp] theorem set_twice (t : Tab n α) (i : Fin n) (a b : α) :
    (t.set i a).set i b = t.set i b := by
  simp [set]

@[simp] theorem get_replicate (a : α) (i : Fin n) : (replicate n a).get i = a := by
  simp [get, replicate]

@[simp] theorem get_build (f : Fin n → α) (i : Fin n) : (build n f).get i = f i := by
  simp [get, build]

@[simp] theorem get_map (f : α → β) (t : Tab n α) (i : Fin n) : (t.map f).get i = f (t.get i) := by
  simp [get, map]

/-- Building a table from its own records. -/
@[simp] theorem build_get (t : Tab n α) : build n t.get = t := ext_get (by simp)

/-- The records in order are those read one by one. -/
theorem data_eq_map_get (t : Tab n α) : t.data = (List.finRange n).map t.get := by
  obtain ⟨a, rfl⟩ := t
  apply List.ext_getElem (by simp)
  intro i h1 h2
  simp [get]

/-- A property of every record is a property of every element. -/
theorem forall_mem_data {p : α → Prop} (t : Tab n α) : (∀ x ∈ t.data, p x) ↔ ∀ i, p (t.get i) := by
  simp [data_eq_map_get]

end Sys2Proof.Tab
end

