-- ==== Sys2Proof/Laws/Ops.lean ====
section
/-!
SUPPORT. What each shared operation of Machine/Ops.lean can do, said once: channel reads after channel
writes, and the frame of every operation that runs the show.
-/

namespace Sys2Proof.Machine

/-! ### One channel -/

@[simp] theorem State.setChan_chan_self (s : State) (c : Chan) (r : Channel) :
    (s.setChan c r).chan c = r := by simp [State.chan, State.setChan]

theorem State.setChan_chan (s : State) (c d : Chan) (r : Channel) :
    (s.setChan c r).chan d = if c = d then r else s.chan d := by
  simp [State.chan, State.setChan, Tab.get_set]

@[simp] theorem State.setChan_chan_ne (s : State) {c d : Chan} (r : Channel) (h : c ≠ d) :
    (s.setChan c r).chan d = s.chan d := by simp [State.setChan_chan, h]

@[simp] theorem State.setChan_chan_id (s : State) (c : Chan) : s.setChan c (s.chan c) = s := by
  simp [State.chan, State.setChan, State.setChannels]

@[simp] theorem State.setSeq_chan (s : State) (x : Sequencer) : (s.setSeq x).chan = s.chan := rfl
@[simp] theorem State.setClock_chan (s : State) (x : Clock) : (s.setClock x).chan = s.chan := rfl
@[simp] theorem State.setEvents_chan (s : State) (x : Events) : (s.setEvents x).chan = s.chan := rfl
@[simp] theorem State.setSurface_chan (s : State) (x : Surface) : (s.setSurface x).chan = s.chan := rfl
@[simp] theorem State.setContacts_chan (s : State) (x : Contacts) :
    (s.setContacts x).chan = s.chan := rfl
@[simp] theorem State.setOutput_chan (s : State) (x : Output) : (s.setOutput x).chan = s.chan := rfl
@[simp] theorem State.setLink_chan (s : State) (x : Link) : (s.setLink x).chan = s.chan := rfl
@[simp] theorem State.setCues_chan (s : State) (x : List Cue) : (s.setCues x).chan = s.chan := rfl
@[simp] theorem State.setPending_chan (s : State) (x : List Instr) :
    (s.setPending x).chan = s.chan := rfl
@[simp] theorem State.raise_chan (s : State) (e : Event) : (s.raise e).chan = s.chan := rfl
@[simp] theorem State.raise_seq (s : State) (e : Event) : (s.raise e).seq = s.seq := rfl
@[simp] theorem State.raise_clock (s : State) (e : Event) : (s.raise e).clock = s.clock := rfl
@[simp] theorem State.raise_cues (s : State) (e : Event) : (s.raise e).cues = s.cues := rfl
@[simp] theorem State.raise_surface (s : State) (e : Event) : (s.raise e).surface = s.surface := rfl
@[simp] theorem State.raise_contacts (s : State) (e : Event) : (s.raise e).contacts = s.contacts := rfl
@[simp] theorem State.raise_output (s : State) (e : Event) : (s.raise e).output = s.output := rfl
@[simp] theorem State.raise_link (s : State) (e : Event) : (s.raise e).link = s.link := rfl
@[simp] theorem State.raise_restart (s : State) (e : Event) : (s.raise e).restart = s.restart := rfl
@[simp] theorem State.raise_resetLow (s : State) (e : Event) : (s.raise e).resetLow = s.resetLow := rfl
@[simp] theorem State.raise_pending (s : State) (e : Event) : (s.raise e).pending = s.pending := rfl
@[simp] theorem State.raise_channels (s : State) (e : Event) : (s.raise e).channels = s.channels := rfl
@[simp] theorem State.raise_free (s : State) (e : Event) : (s.raise e).free = s.free := rfl
@[simp] theorem State.raise_nextCue (s : State) (e : Event) : (s.raise e).nextCue = s.nextCue := rfl

/-- Raising an event sets its flag and keeps the others (R187). -/
theorem State.raise_flagged (s : State) (e f : Event) :
    (s.raise e).flagged f = (s.flagged f || decide (e = f)) := by
  have h : e.mask.getLsbD f.index.val = decide (e = f) := by
    cases e <;> cases f <;> decide
  rw [← h]
  simp [State.flagged, State.raise]

/-! ### The frame of the show operations -/

/-- What the operations on moves, firings, notices and the arm leave as it was: everything but the
levels and moves of the channels and their CUE sources, the arm with its clock point, the flight
table, the playhead, the notices and the event flags. -/
structure State.ShowFrame (s t : State) : Prop where
  cues : t.cues = s.cues
  surface : t.surface = s.surface
  contacts : t.contacts = s.contacts
  output : t.output = s.output
  link : t.link = s.link
  restart : t.restart = s.restart
  resetLow : t.resetLow = s.resetLow
  free : t.free = s.free
  pending : t.pending = s.pending
  clock : t.clock = { s.clock with point := t.clock.point }
  events : t.events = { s.events with flags := t.events.flags }
  state : t.seq.state = s.seq.state
  ret : t.seq.ret = s.seq.ret
  scan : t.seq.scan = s.seq.scan
  gateTime : t.seq.gateTime = s.seq.gateTime
  chan : ∀ c, t.chan c = { s.chan c with
    level := (t.chan c).level, cue := (t.chan c).cue, active := (t.chan c).active,
    waiting := (t.chan c).waiting }

theorem State.ShowFrame.refl (s : State) : s.ShowFrame s := by
  constructor <;> first | rfl | (intro; rfl)

theorem State.ShowFrame.trans {s t u : State} (h : s.ShowFrame t) (k : t.ShowFrame u) :
    s.ShowFrame u := by
  constructor
  case clock => rw [k.clock, h.clock]
  case events => rw [k.events, h.events]
  case chan => intro c; rw [k.chan c, h.chan c]
  all_goals simp [k.1, k.2, k.3, k.4, k.5, k.6, k.7, k.8, k.9, k.12, k.13, k.14, k.15,
    h.1, h.2, h.3, h.4, h.5, h.6, h.7, h.8, h.9, h.12, h.13, h.14, h.15]

theorem State.ShowFrame.raise (s : State) (e : Event) : s.ShowFrame (s.raise e) := by
  constructor <;> first | rfl | (intro; rfl)

theorem State.ShowFrame.notify (s : State) (n : Notice) : s.ShowFrame (s.notify n) := by
  unfold State.notify
  split <;> constructor <;> first | rfl | (intro; rfl)

theorem State.ShowFrame.setArm (s : State) (a : Arm) : s.ShowFrame (s.setArm a) := by
  constructor <;> first | rfl | (intro; rfl)

theorem State.ShowFrame.setFlight (s : State) (l : List Firing) :
    s.ShowFrame (s.setSeq { s.seq with flight := l }) := by
  constructor <;> first | rfl | (intro; rfl)

theorem State.ShowFrame.setCrossed (s : State) (l : List Firing) (n : Option Nat) :
    s.ShowFrame (s.setSeq { s.seq with flight := l, crossed := n }) := by
  constructor <;> first | rfl | (intro; rfl)

/-- A channel takes another level, CUE source, active move or pending list. -/
theorem State.ShowFrame.setChan (s : State) (c : Chan) (level : Int) (cue : Bool)
    (active : Option ActiveMove) (waiting : List PendingMove) :
    s.ShowFrame (s.setChan c { s.chan c with level, cue, active, waiting }) := by
  constructor
  case chan => intro d; rw [State.setChan_chan]; split <;> simp_all
  all_goals rfl

theorem State.ShowFrame.completeFiring (s : State) (f : Firing) :
    s.ShowFrame (s.completeFiring f) := by
  have h := ((ShowFrame.setFlight s (s.seq.flight.filter (fun g => g.id != f.id))).trans
    (ShowFrame.notify _ { kind := .complete, cue := f.cue, firing := f.id, cause := none })).trans
      (ShowFrame.raise _ .cueComplete)
  unfold State.completeFiring
  dsimp only
  split
  · exact h.trans (ShowFrame.setArm _ _)
  · exact h

theorem State.ShowFrame.countEnd (s : State) (id : Nat) : s.ShowFrame (s.countEnd id) := by
  unfold State.countEnd
  split
  · exact ShowFrame.refl s
  · split
    · exact ShowFrame.completeFiring s _
    · exact ShowFrame.setFlight s _

theorem State.ShowFrame.reportEnd (s : State) (o : Owner) : s.ShowFrame (s.reportEnd o) := by
  cases o
  · exact ShowFrame.countEnd s _
  · exact ShowFrame.refl s
  · exact ShowFrame.refl s

theorem State.ShowFrame.reportActive (s : State) (c : Chan) : s.ShowFrame (s.reportActive c) := by
  unfold State.reportActive
  split
  · exact ShowFrame.refl s
  · exact ShowFrame.reportEnd s _

theorem State.ShowFrame.completeMove (s : State) (c : Chan) : s.ShowFrame (s.completeMove c) := by
  unfold State.completeMove
  split
  · exact ShowFrame.refl s
  · exact (ShowFrame.setChan s c _ _ _ _).trans (ShowFrame.reportEnd _ _)

theorem State.ShowFrame.startLevel (s : State) (c : Chan) (target : Int) (duration : Nat)
    (curve : Curve) (base : Timebase) (owner : Owner) :
    s.ShowFrame (s.startLevel c target duration curve base owner) := by
  unfold State.startLevel
  refine (ShowFrame.reportActive s c).trans ?_
  dsimp only
  split
  · exact (ShowFrame.setChan _ c _ _ _ _).trans (ShowFrame.reportEnd _ _)
  · exact ShowFrame.setChan _ c _ _ _ _

theorem State.ShowFrame.startMove (s : State) (c : Chan) (p : PendingMove) :
    s.ShowFrame (s.startMove c p) := by
  unfold State.startMove
  split
  · exact ShowFrame.startLevel s c _ _ _ _ _
  · exact (ShowFrame.setChan s c _ _ _ _).trans (ShowFrame.countEnd _ _)
  · exact (ShowFrame.setChan s c _ _ _ _).trans (ShowFrame.countEnd _ _)

theorem State.ShowFrame.startHead (s : State) (c : Chan) : s.ShowFrame (s.startHead c) := by
  unfold State.startHead
  split
  · exact ShowFrame.refl s
  · exact (ShowFrame.setChan s c _ _ _ _).trans (ShowFrame.startMove _ _ _)

theorem State.ShowFrame.startDue (n : Nat) (s : State) (c : Chan) :
    s.ShowFrame (State.startDue n s c) := by
  induction n generalizing s with
  | zero => exact ShowFrame.refl s
  | succ n ih =>
    unfold State.startDue
    split
    · exact (ShowFrame.startHead s c).trans (ih _)
    · exact ShowFrame.refl s

/-- Every channel takes another level, CUE source, active move or pending list. -/
theorem State.ShowFrame.setChannels (s : State) (x : Tab 56 Channel)
    (h : ∀ c, x.get c = { s.chan c with level := (x.get c).level, cue := (x.get c).cue,
                                        active := (x.get c).active, waiting := (x.get c).waiting }) :
    s.ShowFrame (s.setChannels x) := by
  constructor
  case chan => exact h
  all_goals rfl

theorem State.ShowFrame.retireOldest (s : State) : s.ShowFrame s.retireOldest := by
  unfold State.retireOldest
  split
  · exact ShowFrame.refl s
  · refine (ShowFrame.setChannels s _ ?_).trans ((ShowFrame.setFlight _ _).trans
      ((ShowFrame.notify _ _).trans (ShowFrame.raise _ _)))
    intro c
    simp [Channel.withoutFiring, State.chan]

/-- A frame that each step of a fold keeps is kept by the fold. -/
theorem State.ShowFrame.foldl {α : Type} (f : State → α → State)
    (h : ∀ (t : State) (a : α), t.ShowFrame (f t a))
    (l : List α) (s : State) : s.ShowFrame (l.foldl f s) := by
  induction l generalizing s with
  | nil => exact ShowFrame.refl s
  | cons a l ih => exact (h s a).trans (ih _)

theorem State.ShowFrame.placeOn (s : State) (cue : Cue) (id : Nat) (c : Chan) :
    s.ShowFrame (s.placeOn cue id c) := by
  unfold State.placeOn
  split
  · exact (ShowFrame.foldl _ (fun t (p : PendingMove) => ShowFrame.countEnd t p.firing) _ s).trans
      (ShowFrame.setChan _ c _ _ _ _)
  · exact ShowFrame.refl s

/-- The playhead, the flight table and the next firing id take other values. -/
theorem State.ShowFrame.setPlayhead (s : State) (next standing : Option Nat) (flight : List Firing)
    (nextId : Nat) : s.ShowFrame (s.setSeq { s.seq with next, standing, flight, nextId }) := by
  constructor <;> first | rfl | (intro; rfl)

theorem State.ShowFrame.makeRoom (s : State) : s.ShowFrame s.makeRoom := by
  unfold State.makeRoom
  dsimp only
  split
  · exact ShowFrame.setArm s _
  · exact (ShowFrame.setArm s _).trans (ShowFrame.retireOldest _)

theorem State.ShowFrame.enterFiring (s : State) (cue : Cue) (cause : Cause) :
    s.ShowFrame (s.enterFiring cue cause) := ShowFrame.setPlayhead s _ _ _ _

theorem State.ShowFrame.placeFiring (s : State) (cue : Cue) (id : Nat) :
    s.ShowFrame (s.placeFiring cue id) := ShowFrame.foldl _ (fun t c => ShowFrame.placeOn t cue id c) _ _

theorem State.ShowFrame.announce (s : State) (cue : Cue) (id : Nat) (cause : Cause) :
    s.ShowFrame (s.announce cue id cause) :=
  (ShowFrame.setPlayhead s (cueAfter s.cues cue.number) (some cue.number) _ _).trans
    ((ShowFrame.notify _ _).trans
    (ShowFrame.raise _ _))

theorem State.ShowFrame.fireSteps (s : State) (cue : Cue) (cause : Cause) :
    s.ShowFrame (s.fireSteps cue cause) := by
  have k := (((ShowFrame.makeRoom s).trans (ShowFrame.enterFiring _ cue cause)).trans
    (ShowFrame.placeFiring _ cue s.makeRoom.seq.nextId)).trans
      (ShowFrame.announce _ cue s.makeRoom.seq.nextId cause)
  unfold State.fireSteps
  dsimp only
  split
  · exact (k.trans (ShowFrame.setArm _ _)).trans (ShowFrame.completeFiring _ _)
  · exact k.trans (ShowFrame.setArm _ _)

theorem State.ShowFrame.startOwn (s : State) (id : Nat) (c : Chan) :
    s.ShowFrame (s.startOwn id c) := by
  unfold State.startOwn
  split
  · exact ShowFrame.refl s
  · split
    · exact ShowFrame.startDue _ s c
    · exact ShowFrame.refl s

/-- A firing keeps the frame of the show (R72). -/
theorem State.ShowFrame.fire (s : State) (cause : Cause) : s.ShowFrame (s.fire cause) := by
  unfold State.fire
  split
  · exact ShowFrame.refl s
  · exact (ShowFrame.fireSteps s _ cause).trans
      (ShowFrame.foldl _ (fun t c => ShowFrame.startOwn t _ c) _ _)

theorem State.ShowFrame.settle (n : Nat) (s : State) : s.ShowFrame (State.settle n s) := by
  induction n generalizing s with
  | zero => exact ShowFrame.refl s
  | succ n ih =>
    unfold State.settle
    split
    · exact (ShowFrame.fire s _).trans (ih _)
    · exact ShowFrame.refl s

theorem State.ShowFrame.settled (s : State) : s.ShowFrame s.settled := ShowFrame.settle _ s

theorem State.ShowFrame.settledFrom (s u : State) : s.ShowFrame (s.settledFrom u) := by
  unfold State.settledFrom
  split
  · exact ShowFrame.refl s
  · exact ShowFrame.settled s

theorem State.ShowFrame.fireChain (s : State) (cause : Cause) : s.ShowFrame (s.fireChain cause) :=
  (ShowFrame.fire s cause).trans (ShowFrame.settled _)

/-- Clearing keeps the frame of the show (R81, R108). -/
theorem State.ShowFrame.clearShow (s : State) : s.ShowFrame s.clearShow := by
  unfold State.clearShow
  dsimp only
  have h := ShowFrame.setChannels s (s.channels.map Channel.cleared)
    (fun c => by simp [Channel.cleared, State.chan])
  refine h.trans ?_
  refine (ShowFrame.foldl _ ?_ _ _).trans ((ShowFrame.setCrossed _ [] none).trans
    (ShowFrame.setArm _ _))
  intro t f
  exact ShowFrame.notify t _

/-- Nothing settles while no wait stands at 0 (R77). -/
theorem State.settle_of_not_due (n : Nat) (s : State) (h : s.waitDue = false) :
    State.settle n s = s := by
  cases n <;> simp [State.settle, h]

theorem State.settled_of_not_due {s : State} (h : s.waitDue = false) : s.settled = s :=
  State.settle_of_not_due _ s h

theorem State.settledFrom_of_not_due {s : State} (u : State) (h : s.waitDue = false) :
    s.settledFrom u = s := by
  simp [State.settledFrom, State.settled_of_not_due h]

end Sys2Proof.Machine
end

