-- ==== Sys2Proof/Laws/Show.lean ====
section
/-!
SUPPORT. What the operations that change the show state can do, and what serving a request leaves of
the link.
-/

namespace Sys2Proof.Machine

/-- What the operations on the show leave as it was: `State.ShowFrame` but for the show state, the
return state and the gate time. -/
structure State.PlayFrame (s t : State) : Prop where
  cues : t.cues = s.cues
  surface : t.surface = s.surface
  contacts : t.contacts = s.contacts
  output : t.output = s.output
  link : t.link = s.link
  restart : t.restart = s.restart
  resetLow : t.resetLow = s.resetLow
  free : t.free = s.free
  pending : t.pending = s.pending
  clock : t.clock = { s.clock with point := t.clock.point }
  events : t.events = { s.events with flags := t.events.flags }
  chan : ∀ c, t.chan c = { s.chan c with
    level := (t.chan c).level, cue := (t.chan c).cue, active := (t.chan c).active,
    waiting := (t.chan c).waiting }

theorem State.ShowFrame.play {s t : State} (h : s.ShowFrame t) : s.PlayFrame t :=
  ⟨h.1, h.2, h.3, h.4, h.5, h.6, h.7, h.8, h.9, h.10, h.11, h.16⟩

theorem State.PlayFrame.refl (s : State) : s.PlayFrame s := (ShowFrame.refl s).play

theorem State.PlayFrame.trans {s t u : State} (h : s.PlayFrame t) (k : t.PlayFrame u) :
    s.PlayFrame u := by
  constructor
  case clock => rw [k.clock, h.clock]
  case events => rw [k.events, h.events]
  case chan => intro c; rw [k.chan c, h.chan c]
  all_goals simp [k.1, k.2, k.3, k.4, k.5, k.6, k.7, k.8, k.9,
    h.1, h.2, h.3, h.4, h.5, h.6, h.7, h.8, h.9]

theorem State.PlayFrame.setSeq (s : State) (x : Sequencer) : s.PlayFrame (s.setSeq x) := by
  constructor <;> first | rfl | (intro; rfl)

theorem State.PlayFrame.setShow (s : State) (st : ShowState) : s.PlayFrame (s.setShow st) := by
  unfold State.setShow
  split
  · exact PlayFrame.refl s
  · exact (PlayFrame.setSeq s _).trans (ShowFrame.raise _ _).play

theorem State.PlayFrame.holdShow (s : State) : s.PlayFrame s.holdShow := by
  unfold State.holdShow
  split
  · exact PlayFrame.setShow s _
  · exact PlayFrame.refl s

theorem State.PlayFrame.enterSafe (s : State) : s.PlayFrame s.enterSafe := by
  unfold State.enterSafe
  split
  · exact PlayFrame.refl s
  · exact ((PlayFrame.setSeq s _).trans (PlayFrame.setShow _ _)).trans (ShowFrame.clearShow _).play

theorem State.PlayFrame.resumeShow (s : State) : s.PlayFrame s.resumeShow := by
  unfold State.resumeShow
  dsimp only
  refine (PlayFrame.setShow s .running).trans ?_
  split
  · exact (ShowFrame.setArm _ _).play.trans (ShowFrame.settled _).play
  · exact (ShowFrame.settled _).play

theorem State.PlayFrame.apply (s : State) (a : Act) : s.PlayFrame (s.apply a) := by
  cases a
  · exact PlayFrame.refl s
  · exact PlayFrame.holdShow s
  · exact PlayFrame.enterSafe s

theorem State.PlayFrame.raiseWithAct (s : State) (e : Event) : s.PlayFrame (s.raiseWithAct e) :=
  (ShowFrame.raise s e).play.trans (PlayFrame.apply _ _)

theorem State.PlayFrame.go (s : State) (cause : Cause) (expected : Nat) :
    s.PlayFrame (s.go cause expected).state := by
  unfold State.go
  split
  · exact PlayFrame.refl s
  · split
    · exact PlayFrame.refl s
    · exact PlayFrame.refl s
    · split
      · exact (PlayFrame.setSeq s _).trans (PlayFrame.resumeShow _)
      · exact PlayFrame.refl s
    · split
      · split
        · exact (ShowFrame.raise s _).play
        · split
          · exact PlayFrame.refl s
          · exact (PlayFrame.setSeq s _).trans (ShowFrame.fireChain _ _).play
      · exact PlayFrame.refl s

theorem State.PlayFrame.back (s : State) : s.PlayFrame s.back.1 := by
  unfold State.back
  split
  · exact PlayFrame.refl s
  · split
    · exact PlayFrame.refl s
    · split
      · exact (ShowFrame.raise s _).play
      · exact (PlayFrame.setSeq s _).trans (ShowFrame.setArm _ _).play

theorem State.PlayFrame.leaveSafe (s : State) : s.PlayFrame s.leaveSafe := by
  unfold State.leaveSafe
  dsimp only
  refine (PlayFrame.setShow s s.seq.ret).trans
    ((PlayFrame.setSeq _ { (s.setShow s.seq.ret).seq with ret := .edit }).trans ?_)
  split
  · exact (ShowFrame.setArm _ _).play
  · exact PlayFrame.refl _

theorem State.PlayFrame.takeCrossing (s : State) : s.PlayFrame s.takeCrossing := by
  unfold State.takeCrossing
  split
  · exact (ShowFrame.fireChain s _).play.trans (PlayFrame.setSeq _ _)
  · exact PlayFrame.refl s

/-- A frame that each step of a fold keeps is kept by the fold. -/
theorem State.PlayFrame.foldl {α : Type} (f : State → α → State)
    (h : ∀ (t : State) (a : α), t.PlayFrame (f t a)) (l : List α) (s : State) :
    s.PlayFrame (l.foldl f s) := by
  induction l generalizing s with
  | nil => exact PlayFrame.refl s
  | cons a l ih => exact (h s a).trans (ih _)

theorem State.PlayFrame.raiseLate (s t : State) : t.PlayFrame (s.raiseLate t) := by
  refine PlayFrame.foldl _ (fun u n => ?_) _ t
  split
  · exact PlayFrame.raiseWithAct u _
  · exact PlayFrame.refl u

/-! ### What serving a request leaves of the link

Only LINK_SETUP, and a broadcast RESTART of step 3, write the link (R184, R193). -/

@[simp] theorem State.refuse_state (s : State) (r : Result) : (s.refuse r).state = s := rfl
@[simp] theorem State.reply_state (s : State) (r : Result) (p : List Byte) :
    (s.reply r p).state = s := rfl
@[simp] theorem query_state {α : Type} (answer : α → State → Answer) (f : α) (b : Bool) (s : State) :
    (query answer f b s).state = s := rfl

@[simp] theorem State.setChan_link (s : State) (c : Chan) (r : Channel) :
    (s.setChan c r).link = s.link := rfl
@[simp] theorem State.setArm_link (s : State) (a : Arm) : (s.setArm a).link = s.link := rfl
@[simp] theorem State.setFader_link (s : State) (f : Slot) (d : Fader) :
    (s.setFader f d).link = s.link := rfl

theorem serveEventsSetup_link (f : EventsSetup) (b : Bool) (s : State) :
    (serveEventsSetup f b s).state.link = s.link := by
  unfold serveEventsSetup
  split <;> rfl

theorem serveEventsRead_link (g : Byte) (b : Bool) (s : State) :
    (serveEventsRead g b s).state.link = s.link := by
  unfold serveEventsRead
  split
  · rfl
  · split <;> rfl

theorem serveChannelSetup_link (f : ChannelSetup) (b : Bool) (s : State) :
    (serveChannelSetup f b s).state.link = s.link := by
  unfold serveChannelSetup
  split
  · rfl
  · split <;> rfl

theorem serveTrim_link (f : TrimBody) (b : Bool) (s : State) :
    (serveTrim f b s).state.link = s.link := by
  unfold serveTrim
  split <;> rfl

theorem serveMuteRemote_link (f : MuteRemote) (b : Bool) (s : State) :
    (serveMuteRemote f b s).state.link = s.link := by
  unfold serveMuteRemote
  split <;> rfl

theorem serveLevel_link (f : LevelBody) (b : Bool) (s : State) :
    (serveLevel f b s).state.link = s.link := by
  unfold serveLevel
  split
  · exact ((State.ShowFrame.startLevel s _ _ _ _ _ _).trans (State.ShowFrame.settledFrom _ s)).link
  · rfl

theorem serveCuePut_link (f : CuePut) (b : Bool) (s : State) :
    (serveCuePut f b s).state.link = s.link := by
  unfold serveCuePut
  split
  · repeat' split
    all_goals first | rfl | (dsimp only; split <;> rfl)
  · rfl

theorem serveMovesAdd_link (f : MovesAdd) (b : Bool) (s : State) :
    (serveMovesAdd f b s).state.link = s.link := by
  unfold serveMovesAdd
  dsimp only
  repeat' split
  all_goals rfl

theorem State.deleteCue_link (s : State) (n : Nat) : (s.deleteCue n).link = s.link := by
  unfold State.deleteCue
  dsimp only
  split <;> rfl

theorem serveCueDelete_link (n : Nat) (b : Bool) (s : State) :
    (serveCueDelete n b s).state.link = s.link := by
  unfold serveCueDelete
  repeat' split
  all_goals first | rfl | exact State.deleteCue_link s n

theorem serveListClear_link (f : Unit) (b : Bool) (s : State) :
    (serveListClear f b s).state.link = s.link := by
  unfold serveListClear
  repeat' split
  all_goals rfl

theorem State.setShow_link (s : State) (st : ShowState) : (s.setShow st).link = s.link :=
  (State.PlayFrame.setShow s st).link

theorem serveShowStart_link (f : Unit) (b : Bool) (s : State) :
    (serveShowStart f b s).state.link = s.link := by
  unfold serveShowStart
  repeat' split
  all_goals first | rfl | exact State.setShow_link s _

theorem serveShowEnd_link (f : Unit) (b : Bool) (s : State) :
    (serveShowEnd f b s).state.link = s.link := by
  unfold serveShowEnd
  repeat' split
  all_goals first | rfl | exact State.setShow_link _ _

theorem serveHold_link (f : Unit) (b : Bool) (s : State) :
    (serveHold f b s).state.link = s.link := by
  unfold serveHold
  split
  · exact (State.PlayFrame.holdShow s).link
  · rfl

theorem serveResume_link (f : Unit) (b : Bool) (s : State) :
    (serveResume f b s).state.link = s.link := by
  unfold serveResume
  split
  · exact (State.PlayFrame.resumeShow s).link
  · rfl

theorem serveStop_link (f : Unit) (b : Bool) (s : State) :
    (serveStop f b s).state.link = s.link := by
  unfold serveStop
  split
  · exact (State.ShowFrame.clearShow s).link
  · rfl

theorem serveSafe_link (f : Unit) (b : Bool) (s : State) :
    (serveSafe f b s).state.link = s.link := (State.PlayFrame.enterSafe s).link

theorem serveSafeRelease_link (f : Unit) (b : Bool) (s : State) :
    (serveSafeRelease f b s).state.link = s.link := by
  unfold serveSafeRelease
  split
  · exact (State.PlayFrame.leaveSafe s).link
  · rfl

theorem serveGo_link (n : Nat) (b : Bool) (s : State) : (serveGo n b s).state.link = s.link := by
  unfold serveGo
  dsimp only
  split
  · rfl
  · exact (State.PlayFrame.go s _ _).link

theorem serveBack_link (f : Unit) (b : Bool) (s : State) :
    (serveBack f b s).state.link = s.link := (State.PlayFrame.back s).link

theorem serveGoto_link (f : GotoBody) (b : Bool) (s : State) :
    (serveGoto f b s).state.link = s.link := by
  unfold serveGoto
  repeat' split
  all_goals rfl

theorem serveNoticesRead_link (k : Byte) (b : Bool) (s : State) :
    (serveNoticesRead k b s).state.link = s.link := by
  unfold serveNoticesRead
  repeat' split
  all_goals rfl

theorem State.PlayFrame.loseClock (s : State) :
    (s.setClock { s.clock with state := .lost }).PlayFrame s.loseClock :=
  State.PlayFrame.raiseWithAct _ _

theorem State.loseClock_link (s : State) : s.loseClock.link = s.link :=
  (State.PlayFrame.loseClock s).link

theorem State.timeoutClock_link (s : State) : s.timeoutClock.link = s.link := by
  unfold State.timeoutClock
  split
  · rfl
  · split
    · exact State.loseClock_link s
    · rfl
  all_goals rfl

theorem State.judgeTimers_link (s : State) : s.judgeTimers.link = s.link := by
  unfold State.judgeTimers
  split
  · exact State.timeoutClock_link s
  · split
    · exact State.loseClock_link s
    · rfl

theorem serveClockSetup_link (f : ClockConfig) (b : Bool) (s : State) :
    (serveClockSetup f b s).state.link = s.link := State.judgeTimers_link _

/-! ### The fader surface keeps the link -/

theorem State.takeTouch_link (s : State) (f : Slot) : (s.takeTouch f).link = s.link := by
  unfold State.takeTouch
  split
  · rfl
  · split <;> rfl

theorem State.handBack_link (s : State) (c : Chan) (h : Int) : (s.handBack c h).link = s.link := by
  unfold State.handBack
  split
  · rfl
  · exact (State.ShowFrame.reportActive s c).link

theorem State.remap_link (s : State) (f : Slot) : (s.remap f).link = s.link := by
  unfold State.remap
  split <;> rfl

theorem State.releaseFader_link (s : State) (f : Slot) : (s.releaseFader f).link = s.link := by
  unfold State.releaseFader
  split
  · rfl
  · rw [State.remap_link]; rfl
  · dsimp only
    split
    · rw [State.remap_link]; rfl
    · rw [State.remap_link, State.handBack_link]; rfl

theorem State.mapFree_link (s : State) (f : Slot) (m : Option Chan) :
    (s.mapFree f m).link = s.link := by
  unfold State.mapFree
  dsimp only
  split
  · rw [State.takeTouch_link]; rfl
  · rfl

theorem State.applySlot_link (s : State) (f : Slot) (m : Option Chan) :
    (s.applySlot f m).link = s.link := by
  unfold State.applySlot
  split
  · exact State.mapFree_link s f m
  · rfl
  · rfl

/-- What each step of a fold keeps, the fold keeps. -/
theorem foldl_keeps {α β : Type} (p : State → β) (f : State → α → State)
    (h : ∀ (t : State) (a : α), p (f t a) = p t) (l : List α) (s : State) :
    p (l.foldl f s) = p s := by
  induction l generalizing s with
  | nil => rfl
  | cons a l ih => rw [List.foldl_cons, ih, h]

theorem State.applyBank_link (s : State) : s.applyBank.link = s.link := by
  refine foldl_keeps State.link _ (fun t f => ?_) _ s
  split
  · exact State.applySlot_link t f _
  · rfl

theorem State.modeChanged_link (s : State) : s.modeChanged.link = s.link := by
  unfold State.modeChanged
  dsimp only
  split
  · rw [foldl_keeps State.link _ (fun t f => ?_)]
    · rfl
    · exact State.releaseFader_link t f
  · rw [foldl_keeps State.link _ (fun t f => ?_)]
    · rfl
    · exact State.mapFree_link _ f _

theorem serveBankPut_link (f : BankPut) (b : Bool) (s : State) :
    (serveBankPut f b s).state.link = s.link := by
  unfold serveBankPut
  split
  · split
    · rfl
    · dsimp only
      split
      · exact State.applyBank_link _
      · rfl
  · rfl

theorem serveBankSelect_link (k : Byte) (b : Bool) (s : State) :
    (serveBankSelect k b s).state.link = s.link := by
  unfold serveBankSelect
  split
  · rfl
  · exact State.applyBank_link _

theorem serveSurfaceSetup_link (f : SurfaceSetup) (b : Bool) (s : State) :
    (serveSurfaceSetup f b s).state.link = s.link := by
  unfold serveSurfaceSetup
  split
  · rfl
  · dsimp only
    split
    · rfl
    · exact (State.ShowFrame.settledFrom _ s).link.trans (State.modeChanged_link _)

theorem serveContactSetup_link (f : ContactSetup) (b : Bool) (s : State) :
    (serveContactSetup f b s).state.link = s.link := by
  unfold serveContactSetup
  split <;> rfl

theorem serveOutputSetup_link (f : OutputSetup) (b : Bool) (s : State) :
    (serveOutputSetup f b s).state.link = s.link := by
  unfold serveOutputSetup
  split <;> rfl

theorem serveRoutePut_link (f : RoutePut) (b : Bool) (s : State) :
    (serveRoutePut f b s).state.link = s.link := by
  unfold serveRoutePut
  repeat' split
  all_goals rfl

end Sys2Proof.Machine
end

