-- ==== Sys2Proof/Laws/Firing.lean ====
section
/-!
SUPPORT. What ends, starts and firings of moves can do to the playhead, the arm, the notices, the event
flags and the channels, said once.
-/

namespace Sys2Proof.Machine

/-! ### Channels that an operation leaves alone -/

@[simp] theorem State.notify_channels (s : State) (n : Notice) :
    (s.notify n).channels = s.channels := by
  unfold State.notify
  split <;> rfl

@[simp] theorem State.completeFiring_channels (s : State) (f : Firing) :
    (s.completeFiring f).channels = s.channels := by
  unfold State.completeFiring
  dsimp only
  split
  · show ((State.notify _ _).raise .cueComplete).channels = _
    rw [State.raise_channels, State.notify_channels]
    rfl
  · rw [State.raise_channels, State.notify_channels]
    rfl

@[simp] theorem State.countEnd_channels (s : State) (id : Nat) :
    (s.countEnd id).channels = s.channels := by
  unfold State.countEnd
  split
  · rfl
  · split
    · exact State.completeFiring_channels s _
    · rfl

@[simp] theorem State.countEnd_chan (s : State) (id : Nat) : (s.countEnd id).chan = s.chan := by
  funext c
  simp [State.chan]

@[simp] theorem State.reportEnd_chan (s : State) (o : Owner) : (s.reportEnd o).chan = s.chan := by
  cases o
  · exact State.countEnd_chan s _
  · rfl
  · rfl

@[simp] theorem State.reportActive_chan (s : State) (c : Chan) :
    (s.reportActive c).chan = s.chan := by
  unfold State.reportActive
  split
  · rfl
  · exact State.reportEnd_chan s _

theorem State.startLevel_other (s : State) {c d : Chan} (target : Int) (duration : Nat)
    (curve : Curve) (base : Timebase) (owner : Owner) (h : c ≠ d) :
    (s.startLevel c target duration curve base owner).chan d = s.chan d := by
  unfold State.startLevel
  dsimp only
  split <;> simp [h]

theorem State.startMove_other (s : State) {c d : Chan} (p : PendingMove) (h : c ≠ d) :
    (s.startMove c p).chan d = s.chan d := by
  unfold State.startMove
  split
  · exact State.startLevel_other s _ _ _ _ _ h
  · simp [h]
  · simp [h]

theorem State.startHead_other (s : State) {c d : Chan} (h : c ≠ d) :
    (s.startHead c).chan d = s.chan d := by
  unfold State.startHead
  split
  · rfl
  · rw [State.startMove_other _ _ h]
    simp [h]

/-- Starting the moves that are due on one channel leaves every other channel alone (R97). -/
theorem State.startDue_other (n : Nat) (s : State) {c d : Chan} (h : c ≠ d) :
    (State.startDue n s c).chan d = s.chan d := by
  induction n generalizing s with
  | zero => rfl
  | succ n ih =>
    unfold State.startDue
    split
    · rw [ih, State.startHead_other s h]
    · rfl

theorem State.startOwn_other (s : State) (id : Nat) {c d : Chan} (h : c ≠ d) :
    (s.startOwn id c).chan d = s.chan d := by
  unfold State.startOwn
  split
  · rfl
  · split
    · exact State.startDue_other _ s h
    · rfl

/-- Counting several ends leaves every channel alone. -/
theorem State.countEnds_chan (l : List PendingMove) (s : State) :
    (l.foldl (fun s p => s.countEnd p.firing) s).chan = s.chan := by
  induction l generalizing s with
  | nil => rfl
  | cons p l ih => rw [List.foldl_cons, ih, State.countEnd_chan]

theorem State.placeOn_other (s : State) (cue : Cue) (id : Nat) {c d : Chan} (h : c ≠ d) :
    (s.placeOn cue id c).chan d = s.chan d := by
  unfold State.placeOn
  split
  · rw [State.setChan_chan_ne _ _ h, State.countEnds_chan]
  · rfl

/-! ### What an operation leaves of the playhead, the arm and the events -/

/-- What the ends and starts of moves leave of the show: the playhead and the next firing id as they
were, an arm that awaits no firing with its clock point, the notices that wait first in the queue, and every
raised event raised. -/
structure State.Quiet (s t : State) : Prop where
  next : t.seq.next = s.seq.next
  standing : t.seq.standing = s.seq.standing
  nextId : t.seq.nextId = s.seq.nextId
  arm : (∀ id, s.seq.arm ≠ .await id) → t.seq.arm = s.seq.arm ∧ t.clock.point = s.clock.point
  notices : s.seq.notices <+: t.seq.notices
  flags : ∀ e, s.flagged e = true → t.flagged e = true

theorem State.Quiet.refl (s : State) : s.Quiet s :=
  ⟨rfl, rfl, rfl, fun _ => ⟨rfl, rfl⟩, List.prefix_rfl, fun _ h => h⟩

theorem State.Quiet.trans {s t u : State} (h : s.Quiet t) (k : t.Quiet u) : s.Quiet u :=
  ⟨k.next.trans h.next, k.standing.trans h.standing, k.nextId.trans h.nextId,
    fun e => by
      have ht : ∀ id, t.seq.arm ≠ .await id := by
        rw [(h.arm e).1]
        exact e
      exact ⟨(k.arm ht).1.trans (h.arm e).1, (k.arm ht).2.trans (h.arm e).2⟩,
    h.notices.trans k.notices, fun e p => k.flags e (h.flags e p)⟩

theorem State.Quiet.raise (s : State) (e : Event) : s.Quiet (s.raise e) :=
  ⟨rfl, rfl, rfl, fun _ => ⟨rfl, rfl⟩, List.prefix_rfl, fun f h => by
    rw [State.raise_flagged, h, Bool.true_or]⟩

theorem State.Quiet.notify (s : State) (n : Notice) : s.Quiet (s.notify n) := by
  unfold State.notify
  split
  · exact ⟨rfl, rfl, rfl, fun _ => ⟨rfl, rfl⟩, List.prefix_append _ _, fun _ h => h⟩
  · exact (Quiet.trans (t := s.setSeq { s.seq with overflow := countUp 255 s.seq.overflow })
      ⟨rfl, rfl, rfl, fun _ => ⟨rfl, rfl⟩, List.prefix_rfl, fun _ h => h⟩ (Quiet.raise _ _))

theorem State.Quiet.setFlight (s : State) (l : List Firing) :
    s.Quiet (s.setSeq { s.seq with flight := l }) :=
  ⟨rfl, rfl, rfl, fun _ => ⟨rfl, rfl⟩, List.prefix_rfl, fun _ h => h⟩

theorem State.Quiet.setChan (s : State) (c : Chan) (r : Channel) : s.Quiet (s.setChan c r) :=
  ⟨rfl, rfl, rfl, fun _ => ⟨rfl, rfl⟩, List.prefix_rfl, fun _ h => h⟩

theorem State.Quiet.setChannels (s : State) (x : Tab 56 Channel) : s.Quiet (s.setChannels x) :=
  ⟨rfl, rfl, rfl, fun _ => ⟨rfl, rfl⟩, List.prefix_rfl, fun _ h => h⟩

theorem State.Quiet.completeFiring (s : State) (f : Firing) : s.Quiet (s.completeFiring f) := by
  have h := ((Quiet.setFlight s (s.seq.flight.filter (fun g => g.id != f.id))).trans
    (Quiet.notify _ { kind := .complete, cue := f.cue, firing := f.id, cause := none })).trans
      (Quiet.raise _ .cueComplete)
  unfold State.completeFiring
  dsimp only
  split
  · rename_i ha
    refine ⟨h.next, h.standing, h.nextId, fun e => ?_, h.notices, h.flags⟩
    rw [(h.arm e).1] at ha
    exact absurd ha (e _)
  · exact h

theorem State.Quiet.countEnd (s : State) (id : Nat) : s.Quiet (s.countEnd id) := by
  unfold State.countEnd
  split
  · exact Quiet.refl s
  · split
    · exact Quiet.completeFiring s _
    · exact Quiet.setFlight s _

theorem State.Quiet.reportEnd (s : State) (o : Owner) : s.Quiet (s.reportEnd o) := by
  cases o
  · exact Quiet.countEnd s _
  · exact Quiet.refl s
  · exact Quiet.refl s

theorem State.Quiet.reportActive (s : State) (c : Chan) : s.Quiet (s.reportActive c) := by
  unfold State.reportActive
  split
  · exact Quiet.refl s
  · exact Quiet.reportEnd s _

theorem State.Quiet.completeMove (s : State) (c : Chan) : s.Quiet (s.completeMove c) := by
  unfold State.completeMove
  split
  · exact Quiet.refl s
  · exact (Quiet.setChan s c _).trans (Quiet.reportEnd _ _)

theorem State.Quiet.startLevel (s : State) (c : Chan) (target : Int) (duration : Nat)
    (curve : Curve) (base : Timebase) (owner : Owner) :
    s.Quiet (s.startLevel c target duration curve base owner) := by
  unfold State.startLevel
  refine (Quiet.reportActive s c).trans ?_
  dsimp only
  split
  · exact (Quiet.setChan _ c _).trans (Quiet.reportEnd _ _)
  · exact Quiet.setChan _ c _

theorem State.Quiet.startMove (s : State) (c : Chan) (p : PendingMove) :
    s.Quiet (s.startMove c p) := by
  unfold State.startMove
  split
  · exact Quiet.startLevel s c _ _ _ _ _
  · exact (Quiet.setChan s c _).trans (Quiet.countEnd _ _)
  · exact (Quiet.setChan s c _).trans (Quiet.countEnd _ _)

theorem State.Quiet.startHead (s : State) (c : Chan) : s.Quiet (s.startHead c) := by
  unfold State.startHead
  split
  · exact Quiet.refl s
  · exact (Quiet.setChan s c _).trans (Quiet.startMove _ _ _)

theorem State.Quiet.startDue (n : Nat) (s : State) (c : Chan) : s.Quiet (State.startDue n s c) := by
  induction n generalizing s with
  | zero => exact Quiet.refl s
  | succ n ih =>
    unfold State.startDue
    split
    · exact (Quiet.startHead s c).trans (ih _)
    · exact Quiet.refl s

theorem State.Quiet.startOwn (s : State) (id : Nat) (c : Chan) : s.Quiet (s.startOwn id c) := by
  unfold State.startOwn
  split
  · exact Quiet.refl s
  · split
    · exact Quiet.startDue _ s c
    · exact Quiet.refl s

/-- What each step of a fold leaves quiet, the fold leaves quiet. -/
theorem State.Quiet.foldl {α : Type} (f : State → α → State)
    (h : ∀ (t : State) (a : α), t.Quiet (f t a)) (l : List α) (s : State) : s.Quiet (l.foldl f s) := by
  induction l generalizing s with
  | nil => exact Quiet.refl s
  | cons a l ih => exact (h s a).trans (ih _)

theorem State.Quiet.placeOn (s : State) (cue : Cue) (id : Nat) (c : Chan) :
    s.Quiet (s.placeOn cue id c) := by
  unfold State.placeOn
  split
  · exact (Quiet.foldl _ (fun t (p : PendingMove) => Quiet.countEnd t p.firing) _ s).trans
      (Quiet.setChan _ c _)
  · exact Quiet.refl s

theorem State.Quiet.placeFiring (s : State) (cue : Cue) (id : Nat) :
    s.Quiet (s.placeFiring cue id) := Quiet.foldl _ (fun t c => Quiet.placeOn t cue id c) _ _

theorem State.Quiet.retireOldest (s : State) : s.Quiet s.retireOldest := by
  unfold State.retireOldest
  split
  · exact Quiet.refl s
  · exact ((Quiet.setChannels s _).trans (Quiet.setFlight _ _)).trans
      ((Quiet.notify _ _).trans (Quiet.raise _ _))

/-- What a fold over distinct channels leaves of a channel, when each step changes its own channel
alone: as it was outside the list, and inside it what its own step leaves. -/
theorem foldl_chan_other (f : State → Chan → State)
    (h : ∀ (t : State) (c d : Chan), c ≠ d → (f t c).chan d = t.chan d) (l : List Chan) (s : State)
    (d : Chan) (hd : d ∉ l) : (l.foldl f s).chan d = s.chan d := by
  induction l generalizing s with
  | nil => rfl
  | cons c l ih =>
    simp only [List.mem_cons, not_or] at hd
    rw [List.foldl_cons, ih _ hd.2, h _ _ _ (Ne.symm hd.1)]

/-- A fold over channels leaves channel `d` alone when no step changes `d` in a state that agrees on
`d`. -/
theorem foldl_chan_kept (f : State → Chan → State) (d : Chan) (r : Channel)
    (h : ∀ (t : State) (c : Chan), t.chan d = r → (f t c).chan d = r) (l : List Chan) (s : State)
    (hs : s.chan d = r) : (l.foldl f s).chan d = r := by
  induction l generalizing s with
  | nil => exact hs
  | cons c l ih => exact ih _ (h s c hs)

/-- The moves of a pending list belong to its firing (R93). -/
theorem mem_insertMove {p q : PendingMove} {l : List PendingMove} :
    q ∈ insertMove p l ↔ q = p ∨ q ∈ l := by
  induction l with
  | nil => simp [insertMove]
  | cons x l ih =>
    unfold insertMove
    split
    · simp
    · simp only [List.mem_cons, ih]
      tauto

theorem mem_foldl_insertMove {q : PendingMove} (l m : List PendingMove) :
    q ∈ l.foldl (fun l p => insertMove p l) m ↔ q ∈ l ∨ q ∈ m := by
  induction l generalizing m with
  | nil => simp
  | cons x l ih =>
    rw [List.foldl_cons, ih, mem_insertMove]
    simp only [List.mem_cons]
    tauto

/-- A firing's pending list on a channel holds exactly the copies of its stored moves that name the
channel (R72, R93). -/
theorem mem_pendingFor {cue : Cue} {id : Nat} {c : Chan} {q : PendingMove} :
    q ∈ pendingFor cue id c ↔
      ∃ m ∈ cue.moves, m.channel = c ∧ q = m.copy id cue.number cue.base := by
  unfold pendingFor
  rw [mem_foldl_insertMove]
  simp only [List.mem_map, List.mem_filter, List.not_mem_nil, or_false, beq_iff_eq]
  constructor
  · rintro ⟨m, ⟨h1, h2⟩, h3⟩
    exact ⟨m, h1, h2, h3.symm⟩
  · rintro ⟨m, h1, h2, h3⟩
    exact ⟨m, ⟨h1, h2⟩, h3.symm⟩

/-- An empty arm awaits no firing. -/
theorem State.Quiet.empty {s t : State} (h : s.Quiet t) (e : s.seq.arm = .empty) :
    t.seq.arm = .empty ∧ t.clock.point = s.clock.point := by
  have k := h.arm (by simp [e])
  exact ⟨k.1.trans e, k.2⟩

/-! ### Starts take moves out of a pending list and put none in -/

theorem State.startMove_waiting (s : State) (c : Chan) (p : PendingMove) :
    ((s.startMove c p).chan c).waiting = (s.chan c).waiting := by
  unfold State.startMove
  split
  · unfold State.startLevel
    dsimp only
    split <;> simp
  · simp
  · simp

/-- Starting the moves that are due leaves an end of the pending list (R97). -/
theorem State.startDue_waiting (n : Nat) (s : State) (c : Chan) :
    ((State.startDue n s c).chan c).waiting <:+ (s.chan c).waiting := by
  induction n generalizing s with
  | zero => exact List.suffix_rfl
  | succ n ih =>
    unfold State.startDue
    split
    · refine (ih _).trans ?_
      unfold State.startHead
      split
      · rename_i h
        rw [h]
      · rename_i p rest h
        rw [State.startMove_waiting, State.setChan_chan_self, h]
        exact List.suffix_cons _ _
    · exact List.suffix_rfl

end Sys2Proof.Machine
end

