-- ==== Sys2Proof/Laws/Moves.lean ====
section
/-!
SUPPORT. What the moves of the channels in one wall millisecond can do to the channels and the show (R102,
R103, R115).
-/

namespace Sys2Proof.Machine

theorem State.Quiet.activeTick (s : State) (c : Chan) : s.Quiet (s.activeTick c) := by
  unfold State.activeTick
  dsimp only
  repeat' split
  · exact Quiet.refl s
  · exact Quiet.completeMove s c
  · exact Quiet.setChan s c _
  · exact Quiet.refl s

theorem State.Quiet.pendingTick (s : State) (c : Chan) : s.Quiet (s.pendingTick c) := by
  unfold State.pendingTick
  repeat' split
  · exact Quiet.refl s
  · exact (Quiet.setChan s c _).trans (Quiet.startDue _ _ _)
  · exact Quiet.refl s

theorem State.Quiet.movesTick (s : State) (c : Chan) : s.Quiet (s.movesTick c) :=
  (Quiet.activeTick s c).trans (Quiet.pendingTick _ c)

theorem State.Quiet.allMoves (s : State) : s.Quiet s.allMoves :=
  Quiet.foldl _ (fun t c => Quiet.movesTick t c) _ _

theorem State.ShowFrame.activeTick (s : State) (c : Chan) : s.ShowFrame (s.activeTick c) := by
  unfold State.activeTick
  dsimp only
  repeat' split
  · exact ShowFrame.refl s
  · exact ShowFrame.completeMove s c
  · exact ShowFrame.setChan s c _ _ _ _
  · exact ShowFrame.refl s

theorem State.ShowFrame.pendingTick (s : State) (c : Chan) : s.ShowFrame (s.pendingTick c) := by
  unfold State.pendingTick
  repeat' split
  · exact ShowFrame.refl s
  · exact (ShowFrame.setChan s c _ _ _ _).trans (ShowFrame.startDue _ _ _)
  · exact ShowFrame.refl s

theorem State.ShowFrame.movesTick (s : State) (c : Chan) : s.ShowFrame (s.movesTick c) :=
  (ShowFrame.activeTick s c).trans (ShowFrame.pendingTick _ c)

/-- The moves of a millisecond keep the frame of the show (R102, R103). -/
theorem State.ShowFrame.allMoves (s : State) : s.ShowFrame s.allMoves :=
  ShowFrame.foldl _ (fun t c => ShowFrame.movesTick t c) _ _

theorem State.activeTick_other (s : State) {c e : Chan} (h : c ≠ e) :
    (s.activeTick c).chan e = s.chan e := by
  unfold State.activeTick State.completeMove
  dsimp only
  repeat' split
  all_goals simp [h]

theorem State.pendingTick_other (s : State) {c e : Chan} (h : c ≠ e) :
    (s.pendingTick c).chan e = s.chan e := by
  unfold State.pendingTick
  repeat' split
  · rfl
  · rw [State.startDue_other _ _ h, State.setChan_chan_ne _ _ h]
  · rfl

/-- A channel's moves touch that channel alone. -/
theorem State.movesTick_other (s : State) {c e : Chan} (h : c ≠ e) :
    (s.movesTick c).chan e = s.chan e := by
  rw [State.movesTick, State.pendingTick_other _ h, State.activeTick_other _ h]

theorem State.activeTick_waiting (s : State) (c : Chan) :
    ((s.activeTick c).chan c).waiting = (s.chan c).waiting := by
  unfold State.activeTick State.completeMove
  dsimp only
  repeat' split
  all_goals simp

/-- A millisecond puts no move into a pending list. -/
theorem State.movesTick_waiting (s : State) (c : Chan) : ∃ d,
    ((s.movesTick c).chan c).waiting <:+ (s.chan c).waiting ∨
      ((s.movesTick c).chan c).waiting <:+ forward d (s.chan c).waiting := by
  have w := State.activeTick_waiting s c
  unfold State.movesTick State.pendingTick
  split
  · rename_i e
    exact ⟨0, .inl (by rw [← w])⟩
  · rename_i p rest e
    split
    · refine ⟨(s.activeTick c).advance p.base, .inr ((State.startDue_waiting _ _ _).trans ?_)⟩
      rw [State.setChan_chan_self, ← w, e]
    · exact ⟨0, .inl (by rw [← w])⟩

end Sys2Proof.Machine
end

