-- ==== Sys2Proof/Laws/Starts.lean ====
section
/-!
SUPPORT. What starting and placing moves leaves of the channel they are on, said once (R92 to R97).
-/

namespace Sys2Proof.Machine

/-- A move that starts from its beginning stands at A, or under SNAP_START at its target (R23, R98). -/
theorem moveLevel_zero (start target : Int) (duration : Nat) (curve : Curve) (h : duration ≠ 0) :
    moveLevel start target duration curve 0 = if curve = .snapStart then target else start := by
  cases curve <;>
    simp [moveLevel, h, progress, Curve.shape, Curve.raw, clampInt, levelAt, roundAway]
  omega

/-- A move that starts leaves its channel as R95 and R96 lay down. -/
theorem State.startMove_chan (s : State) (c : Chan) (p : PendingMove) :
    (s.startMove c p).chan c = (s.chan c).starting p := by
  unfold State.startMove Channel.starting
  cases hp : p.action with
  | level =>
    unfold State.startLevel
    dsimp only
    rw [State.reportActive_chan]
    by_cases h : p.duration = 0
    · rw [if_pos h, if_pos h, State.reportEnd_chan]
      simp
    · rw [if_neg h, if_neg h]
      simp [ActiveMove.now, moveLevel_zero _ _ _ _ h]
  | mute => simp
  | unmute => simp

theorem State.startHead_chan (s : State) (c : Chan) (p : PendingMove) (rest : List PendingMove)
    (h : (s.chan c).waiting = p :: rest) :
    (s.startHead c).chan c = { s.chan c with waiting := rest }.starting p := by
  unfold State.startHead
  rw [h]
  dsimp only
  rw [State.startMove_chan, State.setChan_chan_self]

/-- Starting a move leaves the pending list. -/
theorem Channel.starting_waiting (r : Channel) (p : PendingMove) :
    (r.starting p).waiting = r.waiting := by
  unfold Channel.starting
  repeat' split
  all_goals rfl

theorem Channel.starting_setWaiting (r : Channel) (p : PendingMove) (l : List PendingMove) :
    { r with waiting := l }.starting p = { r.starting p with waiting := l } := by
  unfold Channel.starting
  repeat' split
  all_goals rfl

theorem Channel.started_cons_due (r : Channel) (p : PendingMove) (rest : List PendingMove)
    (h : p.delay = 0) : r.started (p :: rest) = (r.starting p).started rest := by
  unfold Channel.started
  simp [h, Channel.starting_setWaiting]

theorem Channel.started_cons_later (r : Channel) (p : PendingMove) (rest : List PendingMove)
    (h : p.delay ≠ 0) : r.started (p :: rest) = { r with waiting := p :: rest } := by
  unfold Channel.started
  simp [h]

theorem Channel.started_nil (r : Channel) : r.started [] = { r with waiting := [] } := rfl

/-- What was pending before makes no difference to a channel whose list is given. -/
theorem Channel.started_setWaiting (r : Channel) (l k : List PendingMove) :
    { r with waiting := k }.started l = r.started l := rfl

/-- The moves that are due on a channel start in list order (R97). -/
theorem State.startDue_chan (n : Nat) (s : State) (c : Chan) (h : (s.chan c).waiting.length ≤ n) :
    (State.startDue n s c).chan c = (s.chan c).started (s.chan c).waiting := by
  induction n generalizing s with
  | zero =>
    have hw : (s.chan c).waiting = [] := List.length_eq_zero_iff.mp (Nat.le_zero.mp h)
    unfold State.startDue
    rw [hw, Channel.started_nil, ← hw]
  | succ n ih =>
    unfold State.startDue Channel.headDue
    cases hw : (s.chan c).waiting with
    | nil =>
      simp only [Bool.false_eq_true, if_false]
      rw [Channel.started_nil, ← hw]
    | cons p rest =>
      dsimp only
      by_cases hd : p.delay = 0
      · have hs := s.startHead_chan c p rest hw
        rw [if_pos (by simpa using hd), ih _ (by
          rw [hs, Channel.starting_waiting]; rw [hw] at h; simpa using h), hs,
          Channel.starting_waiting, Channel.started_cons_due _ _ _ hd, Channel.starting_setWaiting,
          Channel.started_setWaiting]
      · rw [if_neg (by simpa using hd), Channel.started_cons_later _ _ _ hd, ← hw]

/-- Placing a firing on a channel that its cue names leaves the cue's moves pending there, and nothing
else of the channel changes (R92). -/
theorem State.placeOn_chan (s : State) (cue : Cue) (id : Nat) (c : Chan) :
    (s.placeOn cue id c).chan c =
      if cue.moves.any (fun m => m.channel == c) then { s.chan c with waiting := pendingFor cue id c }
      else s.chan c := by
  unfold State.placeOn
  split
  · rw [State.setChan_chan_self, State.countEnds_chan]
  · rfl

/-- The due moves of a firing start on the channel they are on (R94). -/
theorem State.startOwn_chan (s : State) (id : Nat) (c : Chan) :
    (s.startOwn id c).chan c =
      match (s.chan c).waiting with
      | [] => s.chan c
      | p :: rest => if p.firing = id then (s.chan c).started (p :: rest) else s.chan c := by
  unfold State.startOwn
  cases h : (s.chan c).waiting with
  | nil => rfl
  | cons p rest =>
    dsimp only
    split
    · rw [State.startDue_chan _ _ _ (by simp [h]), h]
    · rfl

/-- With no move of the firing due on a channel, starting its due moves there does nothing. -/
theorem State.startOwn_later (s : State) (id : Nat) (c : Chan)
    (h : ∀ p ∈ (s.chan c).waiting, p.firing = id → p.delay ≠ 0) : s.startOwn id c = s := by
  unfold State.startOwn
  cases hw : (s.chan c).waiting with
  | nil => rfl
  | cons p rest =>
    dsimp only
    split
    · rename_i hp
      have := h p (by rw [hw]; exact List.mem_cons_self) hp
      unfold State.startDue Channel.headDue
      rw [hw]
      simp [this]
    · rfl

/-- An operation that works on each channel in turn, and of each on its own record alone, leaves every
channel as one application does. -/
theorem foldl_chan_once (f : State → Chan → State) (g : Chan → Channel → Channel)
    (other : ∀ (t : State) (c d : Chan), c ≠ d → (f t c).chan d = t.chan d)
    (own : ∀ (t : State) (c : Chan), (f t c).chan c = g c (t.chan c)) (l : List Chan) (hl : l.Nodup)
    (s : State) (c : Chan) (hc : c ∈ l) : (l.foldl f s).chan c = g c (s.chan c) := by
  induction l generalizing s with
  | nil => cases hc
  | cons d l ih =>
    rw [List.nodup_cons] at hl
    rw [List.foldl_cons]
    rcases List.mem_cons.mp hc with rfl | hc
    · rw [foldl_chan_other f other l _ c hl.1, own]
    · rw [ih hl.2 _ hc, other _ _ _ (by rintro rfl; exact hl.1 hc)]

theorem allChans_nodup : allChans.Nodup := List.nodup_finRange 56

theorem mem_allChans (c : Chan) : c ∈ allChans := List.mem_finRange c

/-- The active move of a channel in a wall millisecond (R98, R99). -/
theorem State.activeTick_chan (s : State) (c : Chan) :
    (s.activeTick c).chan c = s.activeAfter (s.chan c) := by
  unfold State.activeTick State.activeAfter
  cases h : (s.chan c).active with
  | none => rfl
  | some m =>
    dsimp only
    by_cases ha : s.moveAdvances m
    · rw [if_pos ha, if_pos ha]
      by_cases ho : m.elapsed + s.advance m.counts < m.duration * 65536
      · have hmin : min (m.elapsed + s.advance m.counts) (m.duration * 65536) =
          m.elapsed + s.advance m.counts := Nat.min_eq_left (Nat.le_of_lt ho)
        rw [if_pos ho, if_neg (by
          unfold ActiveMove.over ActiveMove.after; dsimp only; rw [hmin]; simpa using ho)]
        rw [State.setChan_chan_self]
        simp only [ActiveMove.after, ActiveMove.now, hmin]
      · have hmin : min (m.elapsed + s.advance m.counts) (m.duration * 65536) = m.duration * 65536 :=
          Nat.min_eq_right (Nat.le_of_not_lt ho)
        rw [if_neg ho, if_pos (by unfold ActiveMove.over ActiveMove.after; dsimp only; rw [hmin]; simp)]
        unfold State.completeMove
        rw [h]
        dsimp only
        rw [State.reportEnd_chan, State.setChan_chan_self]
    · rw [if_neg ha, if_neg ha]

/-- The pending list of a channel in a wall millisecond (R93, R94, R97). -/
theorem State.pendingTick_chan (s : State) (c : Chan) :
    (s.pendingTick c).chan c = s.pendingAfter (s.chan c) := by
  unfold State.pendingTick State.pendingAfter
  cases h : (s.chan c).waiting with
  | nil => rfl
  | cons p rest =>
    dsimp only
    by_cases ha : s.showAdvances p.base
    · rw [if_pos ha, if_pos ha, State.startDue_chan _ _ _ (by simp [forward]),
        State.setChan_chan_self]
      rfl
    · rw [if_neg ha, if_neg ha]

end Sys2Proof.Machine
end

