-- ==== Sys2Proof/Laws/Advance.lean ====
section
/-!
SUPPORT. What the advance of one wall millisecond can do to the channels and the show, before the pins
are sampled (R26, R77, R98, R102, R103, R114, R115, R124).
-/

namespace Sys2Proof.Machine

/-- The state whose counters, glides and WAITING arm have taken a millisecond. -/
def State.ticked (s : State) : State := s.tickCounters.glide.armTick

/-- The state whose moves have taken it too. -/
def State.moved (s : State) : State := s.ticked.allMoves.settledFrom s.ticked

theorem State.advanceAll_eq (s : State) : s.advanceAll =
    if s.clock.tick.crosses s.clock.whole then s.moved.takeCrossing else s.moved := rfl

/-- The arm after a millisecond (R77). -/
def State.armLeft (s : State) : Arm :=
  match s.seq.arm with
  | .waiting left b => .waiting (if s.showAdvances b then left - s.advance b else left) b
  | .empty => .empty
  | .await id => .await id
  | .clock song x => .clock song x

theorem State.armTick_frame (s : State) : s.ShowFrame s.armTick := by
  unfold State.armTick
  split
  · exact State.ShowFrame.refl s
  · exact State.ShowFrame.refl s
  · exact State.ShowFrame.refl s
  · split
    · exact State.ShowFrame.setArm s _
    · exact State.ShowFrame.refl s

theorem State.ticked_seq (s : State) : s.ticked.seq = { s.seq.tick with arm := s.armLeft } := by
  unfold State.ticked State.armTick State.armLeft
  show State.seq (match s.seq.arm with
    | .empty => s.tickCounters.glide
    | .await _ => s.tickCounters.glide
    | .clock _ _ => s.tickCounters.glide
    | .waiting left base => if s.showAdvances base then
        s.tickCounters.glide.setArm (.waiting (left - s.advance base) base) else s.tickCounters.glide) = _
  have e : s.tickCounters.glide.seq = s.seq.tick := rfl
  cases h : s.seq.arm with
  | empty => rw [e]; unfold Sequencer.tick; rw [h]
  | await id => rw [e]; unfold Sequencer.tick; rw [h]
  | clock song x => rw [e]; unfold Sequencer.tick; rw [h]
  | waiting left base =>
    dsimp only
    by_cases ha : s.showAdvances base
    · rw [if_pos ha, if_pos ha]; rfl
    · rw [if_neg ha, if_neg ha, e]; unfold Sequencer.tick; rw [h]

/-- The clock point follows the arm through a millisecond (R123). -/
theorem State.ticked_point (s : State) (h : s.clock.point = s.seq.arm.point) :
    s.ticked.clock = s.clock.tick := by
  have e : s.tickCounters.glide.clock = s.clock.tick := rfl
  have a : s.tickCounters.glide.seq.arm = s.seq.arm := rfl
  unfold State.ticked State.armTick
  rw [a]
  cases k : s.seq.arm with
  | empty => exact e
  | await id => exact e
  | clock song x => exact e
  | waiting left base =>
    dsimp only
    split
    · show { s.clock.tick with point := none } = _
      have : s.clock.tick.point = none := by
        show s.clock.point = none
        rw [h, k]
        rfl
      rw [← this]
    · exact e

theorem State.ticked_clock (s : State) (h : s.clock.point = none) : s.ticked.clock = s.clock.tick := by
  have e : s.tickCounters.glide.clock = s.clock.tick := rfl
  unfold State.ticked State.armTick
  repeat' split
  · exact e
  · exact e
  · exact e
  · show { s.clock.tick with point := none } = _
    have : s.clock.tick.point = none := h
    rw [← this]
  · exact e

theorem State.ticked_chan (s : State) (c : Chan) :
    s.ticked.chan c = { s.chan c with hand := (s.chan c).hand.after } := by
  have h : ∀ t : State, t.armTick.chan c = t.chan c := by
    intro t
    unfold State.armTick
    repeat' split
    all_goals rfl
  unfold State.ticked
  rw [h]
  unfold State.glide State.chan
  simp only [State.setChannels_channels, Tab.get_map]
  have : ∀ x : Hand, x.tick = x.after := by intro x; cases x <;> rfl
  rw [this]
  rfl

/-- With no firing awaited, the ends and starts of a millisecond arm nothing and no wait follows them
(R77). -/
theorem State.moved_eq (s : State) (h : ∀ id, s.seq.arm ≠ .await id) : s.moved = s.ticked.allMoves := by
  have ha : s.ticked.seq.arm = s.armLeft := by rw [State.ticked_seq]
  have hn : ∀ id, s.ticked.seq.arm ≠ .await id := by
    intro id
    rw [ha]
    unfold State.armLeft
    split <;> simp_all
  have hq := (State.Quiet.allMoves s.ticked).arm hn
  unfold State.moved
  by_cases hw : s.ticked.seq.arm.isWaiting
  · unfold State.settledFrom
    rw [if_pos hw]
  · apply State.settledFrom_of_not_due
    unfold State.waitDue
    rw [hq.1]
    cases k : s.ticked.seq.arm with
    | waiting left base =>
      rw [k] at hw
      exact absurd rfl hw
    | empty => simp
    | await id => simp
    | clock song x => simp

theorem State.moved_quiet (s : State) (h : ∀ id, s.seq.arm ≠ .await id) : s.ticked.Quiet s.moved := by
  rw [State.moved_eq s h]
  exact State.Quiet.allMoves _

theorem State.moved_arm (s : State) (h : ∀ id, s.seq.arm ≠ .await id) :
    s.moved.seq.arm = s.armLeft ∧ s.moved.clock.point = s.ticked.clock.point := by
  have hn : ∀ id, s.ticked.seq.arm ≠ .await id := by
    intro id
    rw [State.ticked_seq]
    unfold State.armLeft
    dsimp only
    split <;> simp_all
  have := (s.moved_quiet h).arm hn
  exact ⟨this.1.trans (by rw [State.ticked_seq]), this.2⟩

theorem State.moved_frame (s : State) : s.tickCounters.glide.ShowFrame s.moved :=
  ((State.armTick_frame _).trans (State.ShowFrame.allMoves _)).trans (State.ShowFrame.settledFrom _ _)

/-- The advance of a millisecond moves time and the show on, and leaves the rest as its counters left
it. -/
theorem State.advanceAll_frame (s : State) : s.tickCounters.glide.PlayFrame s.advanceAll ∧
    s.advanceAll.seq.state = s.seq.state ∧ s.advanceAll.seq.ret = s.seq.ret ∧
      s.advanceAll.seq.gateTime = countUp 65535 s.seq.gateTime := by
  have h := s.moved_frame
  rw [State.advanceAll_eq]
  split
  · refine ⟨h.play.trans (State.PlayFrame.takeCrossing _), ?_⟩
    unfold State.takeCrossing
    split
    · have k := h.trans (State.ShowFrame.fireChain _ .clock)
      exact ⟨k.state, k.ret, k.gateTime⟩
    · exact ⟨h.state, h.ret, h.gateTime⟩
  · exact ⟨h.play, h.state, h.ret, h.gateTime⟩

theorem State.moveAdvances_congr {s t : State} (h : t.seq.state = s.seq.state)
    (k : t.clock.state = s.clock.state) (m : ActiveMove) : t.moveAdvances m = s.moveAdvances m := by
  unfold State.moveAdvances State.showAdvances State.clockLocked
  rw [h, k]

theorem State.showAdvances_congr {s t : State} (h : t.seq.state = s.seq.state)
    (k : t.clock.state = s.clock.state) (b : Timebase) : t.showAdvances b = s.showAdvances b := by
  unfold State.showAdvances State.clockLocked
  rw [h, k]

theorem State.advance_congr {s t : State} (k : t.clock.rate = s.clock.rate) (b : Timebase) :
    t.advance b = s.advance b := by
  cases b
  · rfl
  · exact k

theorem State.activeAfter_congr {s t : State} (h : t.seq.state = s.seq.state)
    (k : t.clock.state = s.clock.state) (l : t.clock.rate = s.clock.rate) (r : Channel) :
    t.activeAfter r = s.activeAfter r := by
  unfold State.activeAfter
  simp only [State.moveAdvances_congr h k, State.advance_congr l]

theorem State.pendingAfter_congr {s t : State} (h : t.seq.state = s.seq.state)
    (k : t.clock.state = s.clock.state) (l : t.clock.rate = s.clock.rate) (r : Channel) :
    t.pendingAfter r = s.pendingAfter r := by
  unfold State.pendingAfter
  simp only [State.showAdvances_congr h k, State.advance_congr l]

/-- The moves of a channel in a millisecond (R93, R94, R97 to R104). -/
theorem State.movesTick_chan (s : State) (c : Chan) :
    (s.movesTick c).chan c = s.pendingAfter (s.activeAfter (s.chan c)) := by
  have h := State.ShowFrame.activeTick s c
  unfold State.movesTick
  rw [State.pendingTick_chan, State.activeTick_chan,
    State.pendingAfter_congr h.state (by rw [h.clock]) (by rw [h.clock])]

/-- The moves of every channel in a millisecond. -/
theorem State.allMoves_chan (s : State) (c : Chan) :
    s.allMoves.chan c = s.pendingAfter (s.activeAfter (s.chan c)) := by
  have key : ∀ (l : List Chan), l.Nodup → ∀ t : State, s.ShowFrame t → c ∈ l →
      (l.foldl State.movesTick t).chan c = s.pendingAfter (s.activeAfter (t.chan c)) := by
    intro l
    induction l with
    | nil => intro _ t _ hc; cases hc
    | cons d l ih =>
      intro hl t ht hc
      rw [List.nodup_cons] at hl
      rw [List.foldl_cons]
      rcases List.mem_cons.mp hc with rfl | hc
      · rw [foldl_chan_other _ (fun t c e h => State.movesTick_other t h) l _ c hl.1,
          State.movesTick_chan,
          State.pendingAfter_congr ht.state (by rw [ht.clock]) (by rw [ht.clock]),
          State.activeAfter_congr ht.state (by rw [ht.clock]) (by rw [ht.clock])]
      · rw [ih hl.2 _ (ht.trans (State.ShowFrame.movesTick t d)) hc,
          State.movesTick_other _ (by rintro rfl; exact hl.1 hc)]
  exact key allChans allChans_nodup s (State.ShowFrame.refl s) (mem_allChans c)

/-- A channel after a millisecond: its glide, its active move and its pending list have taken it. -/
theorem State.moved_chan (s : State) (h : ∀ id, s.seq.arm ≠ .await id) (c : Chan) :
    s.moved.chan c =
      s.pendingAfter (s.activeAfter { s.chan c with hand := (s.chan c).hand.after }) := by
  have hf : s.ticked.seq.state = s.seq.state := by rw [State.ticked_seq]; rfl
  have hc := (State.armTick_frame s.tickCounters.glide).clock
  have h1 : s.ticked.clock.state = s.clock.state := by
    show s.tickCounters.glide.armTick.clock.state = _
    rw [hc]
    rfl
  have h2 : s.ticked.clock.rate = s.clock.rate := by
    show s.tickCounters.glide.armTick.clock.rate = _
    rw [hc]
    rfl
  rw [State.moved_eq s h, State.allMoves_chan, State.pendingAfter_congr hf h1 h2,
    State.activeAfter_congr hf h1 h2, State.ticked_chan]

end Sys2Proof.Machine
end

