-- ==== Sys2Proof/Laws/Fired.lean ====
section
/-!
SUPPORT. What a firing leaves, said once: playhead, firing id, flight table, notices, arm and channels (R71
to R75, R92 to R97).
-/

namespace Sys2Proof.Machine

/-! ### The steps before the moves start -/

theorem State.makeRoom_chan (s : State) (c : Chan) : s.makeRoom.chan c = s.channelKept c := by
  unfold State.makeRoom State.channelKept
  dsimp only
  show (if s.seq.flight.length < 8 then s.setArm .empty else (s.setArm .empty).retireOldest).chan c = _
  cases hf : s.seq.flight with
  | nil => rfl
  | cons f rest =>
    dsimp only
    by_cases h : rest.length < 7
    · rw [if_pos h, if_pos (by simp; omega)]
      rfl
    · rw [if_neg h, if_neg (by simp; omega)]
      unfold State.retireOldest
      rw [show (s.setArm .empty).seq.flight = f :: rest from hf]
      dsimp only
      rw [State.raise_chan]
      simp only [State.chan, State.notify_channels, State.setSeq_channels]
      simp only [State.setChannels_channels, Tab.get_map]
      unfold Channel.withoutFiring
      congr 1
      · congr 1
        funext m
        cases m.owner <;> simp [bne, Bool.beq_eq_decide_eq]
      · congr 1
        funext p
        simp [bne, Bool.beq_eq_decide_eq]

/-- A firing is placed on every channel that its cue names (R92). -/
theorem State.placeFiring_chan (s : State) (cue : Cue) (id : Nat) (c : Chan) :
    (s.placeFiring cue id).chan c =
      if cue.moves.any (fun m => m.channel == c) then { s.chan c with waiting := pendingFor cue id c }
      else s.chan c :=
  foldl_chan_once (fun t c => t.placeOn cue id c)
    (fun c r => if cue.moves.any (fun m => m.channel == c) then { r with waiting := pendingFor cue id c }
      else r)
    (fun t _ _ h => t.placeOn_other cue id h) (fun t c => t.placeOn_chan cue id c) allChans
    allChans_nodup s c (mem_allChans c)

theorem State.announce_chan (s : State) (cue : Cue) (id : Nat) (cause : Cause) (c : Chan) :
    (s.announce cue id cause).chan c = s.chan c := by
  unfold State.announce
  rw [State.raise_chan]
  simp [State.chan]

/-- The channels after steps 1 to 8 of a firing (R72). -/
theorem State.fireSteps_chan (s : State) (cue : Cue) (cause : Cause) (c : Chan) :
    (s.fireSteps cue cause).chan c =
      if cue.moves.any (fun m => m.channel == c) then
        { s.channelKept c with waiting := pendingFor cue s.makeRoom.seq.nextId c }
      else s.channelKept c := by
  unfold State.fireSteps
  dsimp only
  have h : ∀ t : State, (t.setArm (t.firingArm s.makeRoom.seq.nextId)).chan c = t.chan c := fun _ => rfl
  have k : ∀ (t : State) f, (t.completeFiring f).chan c = t.chan c := fun t f => by simp [State.chan]
  have e : (s.makeRoom.enterFiring cue cause).chan c = s.makeRoom.chan c := rfl
  split <;> simp only [h, k, State.announce_chan, State.placeFiring_chan, e, State.makeRoom_chan]

theorem State.makeRoom_nextId (s : State) : s.makeRoom.seq.nextId = s.seq.nextId := by
  unfold State.makeRoom
  dsimp only
  split
  · rfl
  · rw [(State.Quiet.retireOldest _).nextId]
    rfl

theorem State.channelKept_waiting (s : State) (c : Chan) :
    ∀ p ∈ (s.channelKept c).waiting, p ∈ (s.chan c).waiting := by
  intro p hp
  unfold State.channelKept at hp
  split at hp
  · exact hp
  · split at hp
    · exact hp
    · exact (List.mem_filter.mp hp).1

theorem pendingFor_named {cue : Cue} {id : Nat} {c : Chan} (h : ∃ m ∈ cue.moves, m.channel = c) :
    ∃ p rest, pendingFor cue id c = p :: rest ∧ p.firing = id := by
  obtain ⟨m, hm, hc⟩ := h
  have hmem : m.copy id cue.number cue.base ∈ pendingFor cue id c :=
    mem_pendingFor.mpr ⟨m, hm, hc, rfl⟩
  cases hw : pendingFor cue id c with
  | nil => rw [hw] at hmem; cases hmem
  | cons p rest =>
    refine ⟨p, rest, rfl, ?_⟩
    have hp : p ∈ pendingFor cue id c := by rw [hw]; exact List.mem_cons_self
    obtain ⟨_, _, _, rfl⟩ := mem_pendingFor.mp hp
    rfl

/-- The channels after a firing (R92 to R97, R109). -/
theorem State.fire_chan {s : State} {cue : Cue} (cause : Cause) (h : s.NextIs cue) (c : Chan) :
    (s.fire cause).chan c =
      if ∃ m ∈ cue.moves, m.channel = c then
        (s.channelKept c).started (pendingFor cue s.seq.nextId c)
      else s.channelKept c := by
  have hn : s.nextCue = some cue := by simp [State.nextCue, h.1, h.2.1]
  unfold State.fire
  rw [hn]
  dsimp only
  rw [foldl_chan_once (fun t c => t.startOwn s.seq.nextId c)
    (fun _ r => match r.waiting with
      | [] => r
      | p :: rest => if p.firing = s.seq.nextId then r.started (p :: rest) else r)
    (fun t _ _ hd => t.startOwn_other _ hd) (fun t c => t.startOwn_chan _ c) allChans allChans_nodup _ c
    (mem_allChans c), State.fireSteps_chan, State.makeRoom_nextId]
  by_cases hc : ∃ m ∈ cue.moves, m.channel = c
  · have ha : cue.moves.any (fun m => m.channel == c) = true := by simpa using hc
    obtain ⟨p, rest, hw, hp⟩ := pendingFor_named (cue := cue) (id := s.seq.nextId) hc
    rw [if_pos ha, if_pos hc, hw]
    dsimp only
    rw [if_pos hp, Channel.started_setWaiting]
  · have ha : ¬ cue.moves.any (fun m => m.channel == c) = true := by simpa using hc
    rw [if_neg ha, if_neg hc]
    cases hw : (s.channelKept c).waiting with
    | nil => rfl
    | cons p rest =>
      dsimp only
      rw [if_neg (h.2.2 c p (s.channelKept_waiting c p (by rw [hw]; exact List.mem_cons_self)))]

/-! ### Playhead, firing id and arm -/

theorem State.makeRoom_arm (s : State) : s.makeRoom.seq.arm = .empty ∧ s.makeRoom.clock.point = none := by
  unfold State.makeRoom
  dsimp only
  split
  · exact ⟨rfl, rfl⟩
  · exact (State.Quiet.retireOldest (s.setArm .empty)).empty rfl

theorem State.makeRoom_retired (s : State) (h : 8 ≤ s.seq.flight.length) :
    s.makeRoom.flagged .flightRetired = true := by
  unfold State.makeRoom
  dsimp only
  rw [if_neg (show ¬ (s.setArm .empty).seq.flight.length < 8 from Nat.not_lt.mpr h)]
  unfold State.retireOldest
  rw [show (s.setArm .empty).seq.flight = s.seq.flight from rfl]
  cases hf : s.seq.flight with
  | nil => rw [hf] at h; simp at h
  | cons f rest =>
    dsimp only
    rw [State.raise_flagged]
    simp

/-- A firing announced: the state before its arm is set (steps 1 to 6 of R72). -/
def State.announced (s : State) (cue : Cue) (cause : Cause) : State :=
  ((s.makeRoom.enterFiring cue cause).placeFiring cue s.seq.nextId).announce cue s.seq.nextId cause

theorem State.fireSteps_eq (s : State) (cue : Cue) (cause : Cause) :
    s.fireSteps cue cause =
      if cue.moves.isEmpty then
        ((s.announced cue cause).setArm ((s.announced cue cause).firingArm s.seq.nextId)).completeFiring
          (s.makeRoom.entryFor cue cause)
      else (s.announced cue cause).setArm ((s.announced cue cause).firingArm s.seq.nextId) := by
  unfold State.fireSteps State.announced
  dsimp only
  rw [State.makeRoom_nextId]

theorem State.announced_frame (s : State) (cue : Cue) (cause : Cause) :
    s.ShowFrame (s.announced cue cause) :=
  (State.ShowFrame.makeRoom s).trans ((State.ShowFrame.enterFiring _ cue cause).trans
    ((State.ShowFrame.placeFiring _ _ _).trans (State.ShowFrame.announce _ cue _ cause)))

theorem State.announced_seq (s : State) (cue : Cue) (cause : Cause) :
    (s.announced cue cause).seq.next = cueAfter s.cues cue.number ∧
      (s.announced cue cause).seq.standing = some cue.number ∧
        (s.announced cue cause).seq.nextId = idAfter s.seq.nextId ∧
          (s.announced cue cause).flagged .cueFired = true ∧
            (8 ≤ s.seq.flight.length → (s.announced cue cause).flagged .flightRetired = true) := by
  have hp : (s.makeRoom.enterFiring cue cause).Quiet
      ((s.makeRoom.enterFiring cue cause).placeFiring cue s.seq.nextId) := State.Quiet.placeFiring _ _ _
  have hc : ((s.makeRoom.enterFiring cue cause).placeFiring cue s.seq.nextId).cues = s.cues :=
    ((State.ShowFrame.makeRoom s).trans ((State.ShowFrame.enterFiring _ cue cause).trans
      (State.ShowFrame.placeFiring _ _ _))).cues
  generalize hq : (s.makeRoom.enterFiring cue cause).placeFiring cue s.seq.nextId = q at hp hc
  have ha : (q.setSeq { q.seq with standing := some cue.number, next := cueAfter q.cues cue.number }).Quiet
      (s.announced cue cause) := by
    unfold State.announced State.announce
    rw [hq]
    exact (State.Quiet.notify _ _).trans (State.Quiet.raise _ _)
  refine ⟨?_, ?_, ?_, ?_, ?_⟩
  · rw [ha.next, ← hc]
    rfl
  · rw [ha.standing]
    rfl
  · rw [ha.nextId]
    show q.seq.nextId = _
    rw [hp.nextId]
    show idAfter s.makeRoom.seq.nextId = _
    rw [State.makeRoom_nextId]
  · unfold State.announced State.announce
    rw [State.raise_flagged]
    simp
  · intro h
    refine ha.flags _ ?_
    exact hp.flags _ (s.makeRoom_retired h)

theorem State.announced_successor (s : State) (cue : Cue) (cause : Cause) :
    (s.announced cue cause).nextCue = s.successor cue := by
  unfold State.nextCue State.successor
  rw [(s.announced_seq cue cause).1, (s.announced_frame cue cause).cues]

/-- What a firing leaves of playhead and flags. -/
theorem State.fire_quiet {s : State} {cue : Cue} (cause : Cause) (h : s.NextIs cue) :
    ((s.announced cue cause).setArm ((s.announced cue cause).firingArm s.seq.nextId)).Quiet
      (s.fire cause) := by
  have hn : s.nextCue = some cue := by simp [State.nextCue, h.1, h.2.1]
  unfold State.fire
  rw [hn]
  dsimp only
  rw [State.fireSteps_eq]
  refine State.Quiet.trans ?_ (State.Quiet.foldl _ (fun t c => State.Quiet.startOwn t _ c) _ _)
  split
  · exact State.Quiet.completeFiring _ _
  · exact State.Quiet.refl _

theorem State.fire_fired {s : State} {cue : Cue} (cause : Cause) (h : s.NextIs cue) :
    s.Fired (s.fire cause) cue := by
  have hq := State.fire_quiet cause h
  obtain ⟨h1, h2, h3, h4, h5⟩ := s.announced_seq cue cause
  generalize s.announced cue cause = a at hq h1 h2 h3 h4 h5
  exact ⟨hq.standing.trans h2, hq.next.trans h1, hq.nextId.trans h3, hq.flags _ h4,
    fun k => hq.flags _ (h5 k), State.fire_chan cause h⟩

/-! ### A firing whose arm awaits no end -/

theorem State.firingArm_alone {s : State} {cue : Cue} (cause : Cause) (h : s.NextAlone cue) :
    (s.announced cue cause).firingArm s.seq.nextId = s.armAfter cue ∧
      ∀ id, s.armAfter cue ≠ .await id := by
  unfold State.firingArm State.armAfter
  rw [State.announced_successor]
  cases hd : s.successor cue with
  | none => simp
  | some d =>
    have hw := (h.2 d hd).1
    dsimp only
    cases ht : d.trigger <;> simp_all

theorem State.fire_alone_arm {s : State} {cue : Cue} (cause : Cause) (h : s.NextAlone cue) :
    (s.fire cause).seq.arm = s.armAfter cue ∧ (s.fire cause).clock.point = (s.armAfter cue).point := by
  obtain ⟨he, ha⟩ := State.firingArm_alone cause h
  have hq := State.fire_quiet cause h.1
  rw [he] at hq
  exact hq.arm ha

/-! ### Ends that are not counted to the new firing -/

/-- Ends of firings that are not in the table leave the sequencer alone. -/
theorem State.countEnds_absent (l : List PendingMove) (s : State)
    (h : ∀ p ∈ l, s.seq.flight.find? (fun f => f.id == p.firing) = none) :
    l.foldl (fun s p => s.countEnd p.firing) s = s := by
  induction l generalizing s with
  | nil => rfl
  | cons p l ih =>
    have e : s.countEnd p.firing = s := by
      unfold State.countEnd
      rw [h p List.mem_cons_self]
    rw [List.foldl_cons, e]
    exact ih s fun q hq => h q (List.mem_cons_of_mem _ hq)

/-- Where no move that is pending on the cue's channels belongs to a firing in the table, placing a firing
leaves the sequencer alone. -/
theorem State.placeFiring_seq (s : State) (cue : Cue) (id : Nat)
    (h : ∀ m ∈ cue.moves, ∀ p ∈ (s.chan m.channel).waiting,
      s.seq.flight.find? (fun f => f.id == p.firing) = none) :
    (s.placeFiring cue id).seq = s.seq ∧ (s.placeFiring cue id).events = s.events := by
  have key : ∀ (l : List Chan), l.Nodup → ∀ t : State, t.seq = s.seq → t.events = s.events →
      (∀ c ∈ l, t.chan c = s.chan c) →
        (l.foldl (fun t c => t.placeOn cue id c) t).seq = s.seq ∧
          (l.foldl (fun t c => t.placeOn cue id c) t).events = s.events := by
    intro l
    induction l with
    | nil => intro _ t hs he _; exact ⟨hs, he⟩
    | cons c l ih =>
      intro hn t hs he hc
      rw [List.nodup_cons] at hn
      have hp : (t.placeOn cue id c).seq = s.seq ∧ (t.placeOn cue id c).events = s.events := by
        unfold State.placeOn
        split
        · rename_i hm
          obtain ⟨m, hmem, hmc⟩ := List.any_eq_true.mp hm
          have hmc : m.channel = c := by simpa using hmc
          subst hmc
          rw [State.countEnds_absent _ t (by
            rw [hc _ List.mem_cons_self, hs]; exact h m hmem)]
          exact ⟨hs, he⟩
        · exact ⟨hs, he⟩
      rw [List.foldl_cons]
      refine ih hn.2 _ hp.1 hp.2 fun d hd => ?_
      rw [State.placeOn_other _ _ _ (by rintro rfl; exact hn.1 hd), hc d (List.mem_cons_of_mem _ hd)]
  exact key allChans allChans_nodup s rfl rfl fun _ _ => rfl

/-- A firing is told where the notices find room (R72, R86). -/
theorem State.announce_told (s : State) (cue : Cue) (id : Nat) (cause : Cause)
    (h : s.seq.notices.length < 16) :
    (s.announce cue id cause).seq.notices = s.seq.notices ++
        [{ kind := .fired, cue := cue.number, firing := id, cause := some cause }] ∧
      (s.announce cue id cause).seq.flight = s.seq.flight := by
  unfold State.announce
  generalize ht : s.setSeq { s.seq with
    standing := some cue.number, next := cueAfter s.cues cue.number } = t
  have hn : t.seq.notices = s.seq.notices := by rw [← ht]; rfl
  have hf : t.seq.flight = s.seq.flight := by rw [← ht]; rfl
  dsimp only
  rw [State.raise_seq]
  unfold State.notify
  rw [if_pos (by rw [hn]; exact h)]
  exact ⟨congrArg (· ++ _) hn, hf⟩

/-- In an empty queue with nothing in flight, the notice of a firing comes first (R72, R86). -/
theorem State.fire_notice {s : State} {cue : Cue} (cause : Cause) (h : s.NextIs cue)
    (hf : s.seq.flight = []) (hn : s.seq.notices = []) :
    (s.fire cause).seq.notices.head? =
      some { kind := .fired, cue := cue.number, firing := s.seq.nextId, cause := some cause } := by
  have hr : s.makeRoom = s.setArm .empty := by
    unfold State.makeRoom
    dsimp only
    rw [if_pos (show (s.setArm .empty).seq.flight.length < 8 by
      show s.seq.flight.length < 8
      rw [hf]
      decide)]
  have hp := (s.makeRoom.enterFiring cue cause).placeFiring_seq cue s.seq.nextId (by
    intro m _ p hp
    have e : (s.makeRoom.enterFiring cue cause).seq.flight = [s.makeRoom.entryFor cue cause] := by
      show s.makeRoom.seq.flight ++ _ = _
      rw [hr]
      show s.seq.flight ++ _ = _
      rw [hf]
      rfl
    have hne : p.firing ≠ s.seq.nextId := by
      rw [hr] at hp
      exact h.2.2 m.channel p hp
    rw [e]
    have hid : (s.makeRoom.entryFor cue cause).id = s.seq.nextId := State.makeRoom_nextId s
    simp [hid, Ne.symm hne])
  have ha : (s.announced cue cause).seq.notices =
      [{ kind := .fired, cue := cue.number, firing := s.seq.nextId, cause := some cause }] := by
    have hno : ((s.makeRoom.enterFiring cue cause).placeFiring cue s.seq.nextId).seq.notices = [] := by
      rw [hp.1, hr]
      exact hn
    unfold State.announced
    rw [(State.announce_told _ cue s.seq.nextId cause (by rw [hno]; decide)).1, hno]
    rfl
  obtain ⟨rest, hrest⟩ := (State.fire_quiet cause h).notices
  rw [← hrest]
  show ((s.announced cue cause).seq.notices ++ rest).head? = _
  rw [ha]
  rfl

/-! ### A firing at which no move ends -/

theorem countP_insertMove (f : PendingMove → Bool) (p : PendingMove) (l : List PendingMove) :
    (insertMove p l).countP f = (p :: l).countP f := by
  induction l with
  | nil => rfl
  | cons q l ih =>
    unfold insertMove
    split
    · rfl
    · simp only [List.countP_cons, ih]
      omega

/-- As many moves of a pending list have no delay as moves of its cue that name the channel (R93). -/
theorem countP_pendingFor (cue : Cue) (id : Nat) (c : Chan) :
    (pendingFor cue id c).countP (fun p => p.delay == 0) =
      (cue.moves.filter fun m => m.channel == c && m.delay == 0).length := by
  have key : ∀ (l m : List PendingMove), (l.foldl (fun l p => insertMove p l) m).countP
      (fun p => p.delay == 0) = l.countP (fun p => p.delay == 0) + m.countP (fun p => p.delay == 0) := by
    intro l
    induction l with
    | nil => intro m; simp
    | cons p l ih =>
      intro m
      rw [List.foldl_cons, ih, countP_insertMove]
      simp only [List.countP_cons]
      omega
  unfold pendingFor
  rw [key, List.countP_map, List.countP_filter, List.countP_nil, Nat.add_zero, ← List.countP_eq_length_filter]
  congr 1
  funext m
  rw [Bool.eq_iff_iff]
  simp [StoredMove.copy, and_comm]

/-- With no move due, starting what is due does nothing. -/
theorem State.startDue_none (n : Nat) (s : State) (c : Chan)
    (h : (s.chan c).waiting.countP (fun p => p.delay == 0) = 0) : State.startDue n s c = s := by
  cases n with
  | zero => rfl
  | succ n =>
    unfold State.startDue Channel.headDue
    cases hw : (s.chan c).waiting with
    | nil => simp
    | cons p rest =>
      rw [hw, List.countP_eq_zero] at h
      have := h p List.mem_cons_self
      simp_all

/-- One fade that starts on a channel without an active move ends no move: the sequencer and the events
stay (R94, R95, R100). -/
theorem State.startDue_fade (n : Nat) (s : State) (c : Chan)
    (hone : (s.chan c).waiting.countP (fun p => p.delay == 0) ≤ 1)
    (hf : ∀ p ∈ (s.chan c).waiting, p.delay = 0 →
      p.action = .level ∧ 0 < p.duration ∧ (s.chan c).active = none) :
    (State.startDue n s c).seq = s.seq ∧ (State.startDue n s c).events = s.events := by
  cases n with
  | zero => exact ⟨rfl, rfl⟩
  | succ n =>
    unfold State.startDue
    split
    case isFalse => exact ⟨rfl, rfl⟩
    case isTrue hd =>
      unfold Channel.headDue at hd
      cases hw : (s.chan c).waiting with
      | nil => simp [hw] at hd
      | cons p rest =>
        rw [hw] at hd hone
        have hd : p.delay = 0 := by simpa using hd
        obtain ⟨ha, hdur, hact⟩ := hf p (by rw [hw]; exact List.mem_cons_self) hd
        have hrest : rest.countP (fun p => p.delay == 0) = 0 := by
          simp only [List.countP_cons, hd] at hone
          simpa using hone
        have hh := s.startHead_chan c p rest hw
        have hs : (s.startHead c).seq = s.seq ∧ (s.startHead c).events = s.events := by
          unfold State.startHead State.startMove State.startLevel State.reportActive
          rw [hw]
          dsimp only
          rw [ha, State.setChan_chan_self]
          dsimp only
          rw [hact]
          dsimp only
          rw [if_neg (by omega)]
          exact ⟨rfl, rfl⟩
        rw [State.startDue_none n _ c (by rw [hh, Channel.starting_waiting]; exact hrest)]
        exact hs

/-- Where no move ends at a firing, starting its moves leaves the sequencer and the events as placing it
left them (R94, R100). -/
theorem State.fire_kept {s : State} {cue : Cue} (cause : Cause) (h : s.NextIs cue)
    (hk : s.EndsNone cue) : (s.fire cause).seq = (s.fireSteps cue cause).seq ∧
      (s.fire cause).events = (s.fireSteps cue cause).events := by
  have hn : s.nextCue = some cue := by simp [State.nextCue, h.1, h.2.1]
  unfold State.fire
  rw [hn]
  dsimp only
  have own : ∀ (c : Chan) (t : State), t.chan c = (s.fireSteps cue cause).chan c →
      (t.startOwn s.seq.nextId c).seq = t.seq ∧ (t.startOwn s.seq.nextId c).events = t.events := by
    intro c t ht
    rw [State.fireSteps_chan, State.makeRoom_nextId] at ht
    unfold State.startOwn
    split
    · exact ⟨rfl, rfl⟩
    · rename_i p rest hw
      split
      case isFalse => exact ⟨rfl, rfl⟩
      case isTrue hp =>
        by_cases hc : cue.moves.any (fun m => m.channel == c)
        · rw [if_pos hc] at ht
          have hone : (pendingFor cue s.seq.nextId c).countP (fun p => p.delay == 0) ≤ 1 := by
            rw [countP_pendingFor]
            by_cases he : ∃ m ∈ cue.moves, m.channel = c ∧ m.delay = 0
            · obtain ⟨m, hm, rfl, hd⟩ := he
              exact (((hk.1 m hm).2 hd).2.2.2).le
            · rw [List.filter_eq_nil_iff.mpr]
              · exact Nat.zero_le _
              · intro m hm hmc
                exact he ⟨m, hm, by simpa using hmc⟩
          refine State.startDue_fade _ t c (by rw [ht]; exact hone) fun q hq hd => ?_
          rw [ht] at hq ⊢
          obtain ⟨m, hm, rfl, rfl⟩ := mem_pendingFor.mp hq
          have hd : m.delay = 0 := by
            have : m.delay * 65536 = 0 := hd
            omega
          obtain ⟨ha, hdur, hact, _⟩ := (hk.1 m hm).2 hd
          refine ⟨ha, hdur, ?_⟩
          show (s.channelKept m.channel).active = none
          unfold State.channelKept
          split
          · exact hact
          · split
            · exact hact
            · show (s.chan m.channel).active.filter _ = none
              rw [hact]
              rfl
        · rw [if_neg hc] at ht
          rw [ht] at hw
          exact absurd hp (h.2.2 c p (s.channelKept_waiting c p (by rw [hw]; exact List.mem_cons_self)))
  have key : ∀ (l : List Chan), l.Nodup → ∀ t : State, (∀ c ∈ l, t.chan c = (s.fireSteps cue cause).chan c) →
      (l.foldl (fun t c => t.startOwn s.seq.nextId c) t).seq = t.seq ∧
        (l.foldl (fun t c => t.startOwn s.seq.nextId c) t).events = t.events := by
    intro l
    induction l with
    | nil => intro _ t _; exact ⟨rfl, rfl⟩
    | cons c l ih =>
      intro hl t hc
      rw [List.nodup_cons] at hl
      obtain ⟨h1, h2⟩ := own c t (hc c List.mem_cons_self)
      rw [List.foldl_cons, ← h1, ← h2]
      refine ih hl.2 _ fun d hd => ?_
      rw [State.startOwn_other _ _ (by rintro rfl; exact hl.1 hd), hc d (List.mem_cons_of_mem _ hd)]
  exact key allChans allChans_nodup _ fun _ _ => rfl

/-! ### A firing of which nothing starts at once -/

theorem State.fire_slow_eq {s : State} {cue : Cue} (cause : Cause) (h : s.NextSlow cue) :
    s.fire cause = s.fireSteps cue cause := by
  have hn : s.nextCue = some cue := by simp [State.nextCue, h.1.1, h.1.2.1]
  unfold State.fire
  rw [hn]
  dsimp only
  have key : ∀ (l : List Chan),
      l.foldl (fun t c => t.startOwn s.seq.nextId c) (s.fireSteps cue cause) = s.fireSteps cue cause := by
    intro l
    induction l with
    | nil => rfl
    | cons c l ih =>
      rw [List.foldl_cons, State.startOwn_later, ih]
      intro p hp hid
      rw [State.fireSteps_chan] at hp
      split at hp
      · obtain ⟨m, hm, _, rfl⟩ := mem_pendingFor.mp hp
        have := h.2.1 m hm
        show m.delay * 65536 ≠ 0
        omega
      · exact absurd hid (h.1.2.2 c p (s.channelKept_waiting c p hp))
  exact key allChans

theorem State.notify_room (s : State) (n : Notice) (h : s.seq.notices.length < 16) :
    s.notify n = s.setSeq { s.seq with notices := s.seq.notices ++ [n] } := by
  unfold State.notify
  exact if_pos h

theorem State.notify_seq (s : State) (n : Notice) :
    (s.notify n).seq.arm = s.seq.arm ∧ (s.notify n).seq.next = s.seq.next ∧
      (s.notify n).cues = s.cues ∧ (s.notify n).clock = s.clock ∧
        (s.notify n).seq.flight = s.seq.flight := by
  unfold State.notify
  split <;> exact ⟨rfl, rfl, rfl, rfl, rfl⟩

/-- A firing that completes: its entry leaves the table, and an arm that awaits it starts waiting (R74). -/
theorem State.completeFiring_show (s : State) (f : Firing) (h : s.clock.point = s.seq.arm.point) :
    (s.completeFiring f).seq.arm = (if s.seq.arm = .await f.id then s.waitingArm else s.seq.arm) ∧
      (s.completeFiring f).clock.point = (s.completeFiring f).seq.arm.point ∧
        (s.completeFiring f).seq.flight = s.seq.flight.filter (fun g => g.id != f.id) := by
  unfold State.completeFiring
  dsimp only
  obtain ⟨ha, hn, hc, hk, hf⟩ := (s.setSeq { s.seq with
    flight := s.seq.flight.filter (fun g => g.id != f.id) }).notify_seq
      { kind := .complete, cue := f.cue, firing := f.id, cause := none }
  generalize (s.setSeq { s.seq with
    flight := s.seq.flight.filter (fun g => g.id != f.id) }).notify
      { kind := .complete, cue := f.cue, firing := f.id, cause := none } = u at ha hn hc hk hf
  have ha : u.seq.arm = s.seq.arm := ha
  have hw : (u.raise .cueComplete).waitingArm = s.waitingArm := by
    unfold State.waitingArm State.nextCue
    rw [State.raise_seq, State.raise_cues, hn, hc]
    rfl
  rw [State.raise_seq, ha]
  split
  · exact ⟨hw, rfl, hf⟩
  · refine ⟨ha, ?_, hf⟩
    show u.clock.point = u.seq.arm.point
    rw [hk, ha]
    exact h

theorem State.fire_slow_arm {s : State} {cue : Cue} (cause : Cause) (h : s.NextSlow cue) :
    (s.fire cause).seq.arm = s.armAfter cue ∧ (s.fire cause).clock.point = (s.armAfter cue).point := by
  rw [State.fire_slow_eq cause h, State.fireSteps_eq]
  have hs := s.announced_successor cue cause
  generalize s.announced cue cause = a at hs
  have hid : (s.makeRoom.entryFor cue cause).id = s.seq.nextId := State.makeRoom_nextId s
  by_cases hm : cue.moves = []
  · rw [if_pos (by simp [hm])]
    obtain ⟨he, hp, _⟩ := (a.setArm (a.firingArm s.seq.nextId)).completeFiring_show
      (s.makeRoom.entryFor cue cause) rfl
    have ha : ((a.setArm (a.firingArm s.seq.nextId)).completeFiring
        (s.makeRoom.entryFor cue cause)).seq.arm = s.armAfter cue := by
      rw [he, hid]
      show (if a.firingArm s.seq.nextId = .await s.seq.nextId then a.waitingArm
        else a.firingArm s.seq.nextId) = _
      unfold State.armAfter State.firingArm State.waitingArm
      rw [hs]
      cases s.successor cue with
      | none => rfl
      | some d =>
        dsimp only
        have ht : d.trigger = .manual ∨ d.trigger = .follow ∨ d.trigger = .withCue ∨ d.trigger = .clock := by
          cases d.trigger <;> simp
        rcases ht with ht | ht | ht | ht <;> simp [ht, hm]
    exact ⟨ha, hp.trans (by rw [ha])⟩
  · rw [if_neg (by simpa using hm)]
    have ha : a.firingArm s.seq.nextId = s.armAfter cue := by
      unfold State.armAfter State.firingArm
      rw [hs]
      cases s.successor cue with
      | none => rfl
      | some d =>
        dsimp only
        have ht : d.trigger = .manual ∨ d.trigger = .follow ∨ d.trigger = .withCue ∨ d.trigger = .clock := by
          cases d.trigger <;> simp
        rcases ht with ht | ht | ht | ht <;> simp [ht, hm]
    exact ⟨ha, congrArg Arm.point ha⟩

theorem State.makeRoom_told (s : State) (h : s.seq.notices.length + 1 ≤ 16) :
    s.makeRoom.seq.flight = s.flightKept ∧
      s.makeRoom.seq.notices = s.seq.notices ++
        ((s.seq.flight.take (s.seq.flight.length - 7)).take 1).map (fun f =>
          { kind := .retired, cue := f.cue, firing := f.id, cause := none }) := by
  unfold State.makeRoom State.flightKept
  dsimp only
  by_cases hl : s.seq.flight.length < 8
  · rw [if_pos hl, if_pos (show (s.setArm .empty).seq.flight.length < 8 from hl)]
    have e : s.seq.flight.length - 7 = 0 ∨ s.seq.flight.length = 8 := by omega
    refine ⟨rfl, ?_⟩
    rw [show s.seq.flight.length - 7 = 0 by omega]
    simp
    rfl
  · rw [if_neg hl, if_neg (show ¬ (s.setArm .empty).seq.flight.length < 8 from hl)]
    unfold State.retireOldest
    rw [show (s.setArm .empty).seq.flight = s.seq.flight from rfl]
    cases hf : s.seq.flight with
    | nil => rw [hf] at hl; simp at hl
    | cons f rest =>
      dsimp only
      rw [State.notify_room]
      case h => show s.seq.notices.length < 16; omega
      refine ⟨rfl, ?_⟩
      show s.seq.notices ++ _ = _
      congr 1
      rw [hf] at hl
      obtain ⟨n, hn⟩ : ∃ n, (f :: rest).length - 7 = n + 1 := ⟨(f :: rest).length - 8, by omega⟩
      rw [hn]
      simp

/-- A completed firing is told where the notices find room (R74, R86). -/
theorem State.completeFiring_told (s : State) (f : Firing) (h : s.seq.notices.length < 16) :
    (s.completeFiring f).seq.notices = s.seq.notices ++
      [{ kind := .complete, cue := f.cue, firing := f.id, cause := none }] := by
  unfold State.completeFiring
  generalize ht : s.setSeq { s.seq with flight := s.seq.flight.filter (fun g => g.id != f.id) } = t
  have hn : t.seq.notices = s.seq.notices := by rw [← ht]; rfl
  have hk : (t.notify { kind := .complete, cue := f.cue, firing := f.id, cause := none }).seq.notices =
      s.seq.notices ++ [{ kind := .complete, cue := f.cue, firing := f.id, cause := none }] := by
    unfold State.notify
    rw [if_pos (by rw [hn]; exact h)]
    exact congrArg (· ++ _) hn
  dsimp only
  split <;> exact hk

theorem State.flightKept_subset (s : State) : ∀ f ∈ s.flightKept, f ∈ s.seq.flight := by
  intro f hf
  unfold State.flightKept at hf
  split at hf
  · exact hf
  · exact List.mem_of_mem_tail hf

/-- What a firing leaves of the flight table and the notices where no move ends at it (R71 to R74, R86). -/
theorem State.fire_table {s : State} {cue : Cue} (cause : Cause) (h : s.NextIs cue) :
    s.FiredTable (s.fire cause) cue cause := by
  intro hk
  obtain ⟨hm, hid, hn⟩ := hk
  have hw : ∀ m ∈ cue.moves, (s.chan m.channel).waiting = [] := fun m k => (hm m k).1
  have hseq := (State.fire_kept cause h ⟨hm, hid, hn⟩).1
  clear hm
  obtain ⟨hrf, hrn⟩ := s.makeRoom_told (by omega)
  have hrid := s.makeRoom_nextId
  have hp := (s.makeRoom.enterFiring cue cause).placeFiring_seq cue s.seq.nextId (by
    intro m hm p hp
    exfalso
    have e : (s.makeRoom.enterFiring cue cause).chan m.channel = s.channelKept m.channel :=
      s.makeRoom_chan m.channel
    rw [e] at hp
    have := s.channelKept_waiting m.channel p hp
    rw [hw m hm] at this
    cases this)
  have hentry : s.makeRoom.entryFor cue cause =
      { id := s.seq.nextId, cue := cue.number, cause, outstanding := cue.moves.length } := by
    unfold State.entryFor
    rw [hrid]
  have hpn : ((s.makeRoom.enterFiring cue cause).placeFiring cue s.seq.nextId).seq.notices =
      s.makeRoom.seq.notices := by rw [hp.1]; rfl
  have hpf : ((s.makeRoom.enterFiring cue cause).placeFiring cue s.seq.nextId).seq.flight =
      s.flightKept ++ [s.makeRoom.entryFor cue cause] := by rw [hp.1, ← hrf]; rfl
  have hlen : s.makeRoom.seq.notices.length ≤ s.seq.notices.length + 1 := by
    rw [hrn]
    simp
  obtain ⟨han, haf⟩ := ((s.makeRoom.enterFiring cue cause).placeFiring cue s.seq.nextId).announce_told
    cue s.seq.nextId cause (by rw [hpn]; omega)
  rw [hpn] at han
  rw [hpf] at haf
  rw [hseq, State.fireSteps_eq]
  change (s.announced cue cause).seq.notices = _ at han
  change (s.announced cue cause).seq.flight = _ at haf
  generalize s.announced cue cause = a at han haf
  by_cases hm : cue.moves = []
  · rw [if_pos (by simp [hm])]
    have hf := ((a.setArm (a.firingArm s.seq.nextId)).completeFiring_show
      (s.makeRoom.entryFor cue cause) rfl).2.2
    have hc := (a.setArm (a.firingArm s.seq.nextId)).completeFiring_told
      (s.makeRoom.entryFor cue cause) (by
        show a.seq.notices.length < 16
        rw [han]
        simp
        omega)
    constructor
    · rw [hf, if_pos hm]
      show a.seq.flight.filter _ = _
      rw [haf, hentry, List.filter_append, List.filter_eq_self.mpr]
      · simp
      · intro f hf
        have := hid f (s.flightKept_subset f hf)
        simpa using this
    · rw [hc, if_pos hm]
      show a.seq.notices ++ _ = _
      rw [han, hrn, hentry]
      simp
  · rw [if_neg (by simpa using hm), if_neg hm, if_neg hm]
    constructor
    · show a.seq.flight = _
      rw [haf, hentry]
    · show a.seq.notices = _
      rw [han, hrn]

/-- A notice that finds room raises nothing (R86). -/
theorem State.notify_events (s : State) (n : Notice) (h : s.seq.notices.length < 16) :
    (s.notify n).events = s.events := by
  rw [State.notify_room s n h]
  rfl

/-- A raise where the flags stood as in `u`. -/
theorem State.raise_flagged_iff {u v : State} (x e : Event) (h : v.events = u.events) :
    (v.raise x).flagged e = true ↔ u.flagged e = true ∨ e = x := by
  rw [State.raise_flagged, Bool.or_eq_true, decide_eq_true_eq, eq_comm (a := x)]
  unfold State.flagged
  rw [h]

theorem State.flagged_congr {u v : State} (e : Event) (h : v.events = u.events) :
    v.flagged e = u.flagged e := by
  unfold State.flagged
  rw [h]

/-- Making room raises FLIGHT_RETIRED where eight firings are in flight (R73). -/
theorem State.makeRoom_flagged (s : State) (e : Event) (h : s.seq.notices.length < 16) :
    s.makeRoom.flagged e = true ↔ s.flagged e = true ∨
      e = .flightRetired ∧ 8 ≤ s.seq.flight.length := by
  unfold State.makeRoom
  dsimp only
  by_cases hl : s.seq.flight.length < 8
  · rw [if_pos (show (s.setArm .empty).seq.flight.length < 8 from hl)]
    have k : (s.setArm .empty).flagged e = s.flagged e := rfl
    rw [k]
    simp only [Nat.not_le.mpr hl, and_false, or_false]
  · rw [if_neg (show ¬ (s.setArm .empty).seq.flight.length < 8 from hl)]
    unfold State.retireOldest
    rw [show (s.setArm .empty).seq.flight = s.seq.flight from rfl]
    cases hf : s.seq.flight with
    | nil => rw [hf] at hl; simp at hl
    | cons f rest =>
      dsimp only
      generalize hu : State.setSeq _ _ = u
      have hue : u.events = s.events := by rw [← hu]; rfl
      have hun : u.seq.notices = s.seq.notices := by rw [← hu]; rfl
      rw [hf] at hl
      rw [State.raise_flagged_iff .flightRetired e
        ((u.notify_events _ (by rw [hun]; exact h)).trans hue)]
      simp only [Nat.not_lt.mp hl, and_true]

/-- A firing that completes raises CUE_COMPLETE (R74). -/
theorem State.completeFiring_flagged (s : State) (f : Firing) (e : Event)
    (h : s.seq.notices.length < 16) :
    (s.completeFiring f).flagged e = true ↔ s.flagged e = true ∨ e = .cueComplete := by
  unfold State.completeFiring
  generalize hu : s.setSeq { s.seq with flight := s.seq.flight.filter (fun g => g.id != f.id) } = u
  have hue : u.events = s.events := by rw [← hu]; rfl
  have hun : u.seq.notices = s.seq.notices := by rw [← hu]; rfl
  have k := State.raise_flagged_iff (v := u.notify _) .cueComplete e
    ((u.notify_events { kind := .complete, cue := f.cue, firing := f.id, cause := none }
      (by rw [hun]; exact h)).trans hue)
  dsimp only
  split
  · exact k
  · exact k

/-- What a firing raises where no move ends at it (R72 to R74, R187). -/
theorem State.fire_events {s : State} {cue : Cue} (cause : Cause) (h : s.NextIs cue) :
    s.FiredEvents (s.fire cause) cue := by
  intro hk
  refine ⟨(State.ShowFrame.fire s cause).events, fun e => ?_⟩
  have hke := (State.fire_kept cause h hk).2
  obtain ⟨hm, hid, hn⟩ := hk
  have hp := (s.makeRoom.enterFiring cue cause).placeFiring_seq cue s.seq.nextId (by
    intro m k p hp
    exfalso
    have e : (s.makeRoom.enterFiring cue cause).chan m.channel = s.channelKept m.channel :=
      s.makeRoom_chan m.channel
    rw [e] at hp
    have := s.channelKept_waiting m.channel p hp
    rw [(hm m k).1] at this
    cases this)
  have hlen : s.makeRoom.seq.notices.length ≤ s.seq.notices.length + 1 := by
    rw [(s.makeRoom_told (by omega)).2]
    simp
  have hroom := s.makeRoom_flagged e (by omega)
  have hpn : ((s.makeRoom.enterFiring cue cause).placeFiring cue s.seq.nextId).seq.notices =
      s.makeRoom.seq.notices := by rw [hp.1]; rfl
  have hpe : ((s.makeRoom.enterFiring cue cause).placeFiring cue s.seq.nextId).events =
      s.makeRoom.events := hp.2
  have hnum : (s.announced cue cause).seq.notices.length ≤ s.seq.notices.length + 2 := by
    unfold State.announced
    rw [(State.announce_told _ cue s.seq.nextId cause (by rw [hpn]; omega)).1, hpn]
    simp only [List.length_append, List.length_cons, List.length_nil]
    omega
  have hann : (s.announced cue cause).flagged e = true ↔
      s.makeRoom.flagged e = true ∨ e = .cueFired := by
    unfold State.announced State.announce
    generalize (s.makeRoom.enterFiring cue cause).placeFiring cue s.seq.nextId = q at hpn hpe
    dsimp only
    generalize hu : State.setSeq _ _ = u
    have hue : u.events = s.makeRoom.events := by rw [← hu]; exact hpe
    have hun : u.seq.notices = s.makeRoom.seq.notices := by rw [← hu]; exact hpn
    exact State.raise_flagged_iff .cueFired e ((u.notify_events _ (by rw [hun]; omega)).trans hue)
  show (s.fire cause).flagged e = true ↔ s.flagged e = true ∨ _
  rw [State.flagged_congr e hke, State.fireSteps_eq]
  generalize s.announced cue cause = a at hann hnum
  have harm : (a.setArm (a.firingArm s.seq.nextId)).flagged e = a.flagged e := rfl
  by_cases hmv : cue.moves = []
  · rw [if_pos (by simp [hmv]), State.completeFiring_flagged _ _ e (by
      show a.seq.notices.length < 16
      omega), harm, hann, hroom]
    simp only [hmv, and_true]
    rw [or_assoc, or_assoc]
    exact or_congr_right or_left_comm
  · rw [if_neg (by simpa using hmv), harm, hann, hroom]
    simp only [hmv, and_false, or_false]
    rw [or_assoc]
    exact or_congr_right or_comm

theorem State.fire_alone {s : State} {cue : Cue} (cause : Cause) (h : s.NextAlone cue) :
    s.FiredAlone (s.fire cause) cue cause :=
  ⟨State.fire_fired cause h.1, (State.fire_alone_arm cause h).1, (State.fire_alone_arm cause h).2,
    State.fire_table cause h.1, fun k => State.fire_notice cause h.1 k.1 k.2⟩

theorem State.fire_slow {s : State} {cue : Cue} (cause : Cause) (h : s.NextSlow cue) :
    s.FiredSlow (s.fire cause) cue cause :=
  ⟨State.fire_fired cause h.1, (State.fire_slow_arm cause h).1, (State.fire_slow_arm cause h).2,
    State.fire_table cause h.1⟩

/-! ### The whole instant -/

/-- A firing that can be told leaves no wait of 0 (R77). -/
theorem State.fire_not_due {s : State} {cue : Cue} (cause : Cause) (h : s.NextTold cue) :
    (s.fire cause).waitDue = false := by
  rcases h with h | h
  · unfold State.waitDue
    rw [(State.fire_alone_arm cause h).1]
    unfold State.armAfter
    cases hd : s.successor cue with
    | none => simp
    | some d =>
      obtain ⟨hf, hw⟩ := h.2 d hd
      dsimp only
      cases ht : d.trigger <;> simp_all
      omega
  · unfold State.waitDue
    rw [(State.fire_slow_arm cause h).1]
    unfold State.armAfter
    cases hd : s.successor cue with
    | none => simp
    | some d =>
      have hw := h.2.2 d hd
      dsimp only
      cases ht : d.trigger with
      | manual => simp
      | clock => simp
      | withCue =>
        have := hw (.inl ht)
        simp
        omega
      | follow =>
        by_cases hm : cue.moves = []
        · have := hw (.inr ⟨ht, hm⟩)
          simp [hm]
          omega
        · simp [hm]

/-- A firing that can be told is the whole of its instant. -/
theorem State.fireChain_told {s : State} {cue : Cue} (cause : Cause) (h : s.NextTold cue) :
    s.fireChain cause = s.fire cause ∧ s.FiringTold (s.fire cause) cue cause :=
  ⟨State.settled_of_not_due (State.fire_not_due cause h), fun k => State.fire_alone cause k,
    fun k => State.fire_slow cause k⟩

end Sys2Proof.Machine
end

