-- ==== Sys2Proof/Laws/Chain.lean ====
section
/-!
SUPPORT. One link of a chain, said once: a firing that leaves a wait of 0, and the firing that follows it at
the same instant (R75, R77). On the way: how many notices and firings an operation may leave (R71, R86).
-/

namespace Sys2Proof.Machine

/-! ### Notices and firings together -/

/-- How many notices and firings in flight the part holds together. -/
def State.held (s : State) : Nat := s.seq.notices.length + s.seq.flight.length

theorem State.held_notify (s : State) (n : Notice) : (s.notify n).held ≤ s.held + 1 := by
  unfold State.notify State.held
  split
  · show (s.seq.notices ++ [n]).length + s.seq.flight.length ≤ _
    simp
    omega
  · rw [State.raise_seq]
    show s.seq.notices.length + s.seq.flight.length ≤ _
    omega

theorem State.held_completeFiring (s : State) (f : Firing) :
    (s.completeFiring f).held ≤ s.held + 1 := by
  have hk := State.held_notify
    (s.setSeq { s.seq with flight := s.seq.flight.filter (fun g => g.id != f.id) })
    { kind := .complete, cue := f.cue, firing := f.id, cause := none }
  have hl : (s.setSeq { s.seq with flight := s.seq.flight.filter (fun g => g.id != f.id) }).held ≤
      s.held := by
    have := List.length_filter_le (fun g : Firing => g.id != f.id) s.seq.flight
    unfold State.held
    show s.seq.notices.length + (s.seq.flight.filter _).length ≤ _
    omega
  unfold State.completeFiring
  dsimp only
  split <;> exact hk.trans (Nat.succ_le_succ hl)

/-- A firing of the table that completes leaves a notice in its place. -/
theorem State.held_complete (s : State) {f : Firing} (h : f ∈ s.seq.flight) :
    (s.completeFiring f).held ≤ s.held := by
  have hk := State.held_notify
    (s.setSeq { s.seq with flight := s.seq.flight.filter (fun g => g.id != f.id) })
    { kind := .complete, cue := f.cue, firing := f.id, cause := none }
  have hl : (s.setSeq { s.seq with flight := s.seq.flight.filter (fun g => g.id != f.id) }).held + 1 ≤
      s.held := by
    have : (s.seq.flight.filter (fun g : Firing => g.id != f.id)).length < s.seq.flight.length :=
      List.length_filter_lt_length_iff_exists.mpr ⟨f, h, by simp⟩
    unfold State.held
    show s.seq.notices.length + (s.seq.flight.filter _).length + 1 ≤ _
    omega
  unfold State.completeFiring
  dsimp only
  split <;> exact hk.trans hl

theorem State.held_countEnd (s : State) (id : Nat) : (s.countEnd id).held ≤ s.held := by
  unfold State.countEnd
  split
  · exact Nat.le_refl _
  · rename_i f hf
    split
    · exact s.held_complete (List.mem_of_find?_eq_some hf)
    · unfold State.held
      show s.seq.notices.length + (s.seq.flight.map _).length ≤ _
      simp

theorem State.held_reportEnd (s : State) (o : Owner) : (s.reportEnd o).held ≤ s.held := by
  cases o
  · exact s.held_countEnd _
  · exact Nat.le_refl _
  · exact Nat.le_refl _

theorem State.held_reportActive (s : State) (c : Chan) : (s.reportActive c).held ≤ s.held := by
  unfold State.reportActive
  split
  · exact Nat.le_refl _
  · exact s.held_reportEnd _

theorem State.held_startLevel (s : State) (c : Chan) (target : Int) (duration : Nat) (curve : Curve)
    (base : Timebase) (owner : Owner) :
    (s.startLevel c target duration curve base owner).held ≤ s.held := by
  unfold State.startLevel
  dsimp only
  split
  · exact (State.held_reportEnd _ _).trans (s.held_reportActive c)
  · exact s.held_reportActive c

theorem State.held_startMove (s : State) (c : Chan) (p : PendingMove) :
    (s.startMove c p).held ≤ s.held := by
  unfold State.startMove
  split
  · exact s.held_startLevel _ _ _ _ _ _
  · exact State.held_countEnd _ _
  · exact State.held_countEnd _ _

theorem State.held_startHead (s : State) (c : Chan) : (s.startHead c).held ≤ s.held := by
  unfold State.startHead
  split
  · exact Nat.le_refl _
  · exact State.held_startMove _ _ _

theorem State.held_startDue (n : Nat) (s : State) (c : Chan) : (State.startDue n s c).held ≤ s.held := by
  induction n generalizing s with
  | zero => exact Nat.le_refl _
  | succ n ih =>
    unfold State.startDue
    split
    · exact (ih _).trans (s.held_startHead c)
    · exact Nat.le_refl _

theorem State.held_startOwn (s : State) (id : Nat) (c : Chan) : (s.startOwn id c).held ≤ s.held := by
  unfold State.startOwn
  split
  · exact Nat.le_refl _
  · split
    · exact State.held_startDue _ s c
    · exact Nat.le_refl _

/-- What each step of a fold does not raise, the fold does not raise. -/
theorem State.held_foldl {α : Type} (f : State → α → State)
    (h : ∀ (t : State) (a : α), (f t a).held ≤ t.held) (l : List α) (s : State) :
    (l.foldl f s).held ≤ s.held := by
  induction l generalizing s with
  | nil => exact Nat.le_refl _
  | cons a l ih => exact (ih _).trans (h s a)

theorem State.held_placeOn (s : State) (cue : Cue) (id : Nat) (c : Chan) :
    (s.placeOn cue id c).held ≤ s.held := by
  unfold State.placeOn
  split
  · exact State.held_foldl (fun t (p : PendingMove) => t.countEnd p.firing)
      (fun t p => t.held_countEnd p.firing) _ s
  · exact Nat.le_refl _

theorem State.held_makeRoom (s : State) : s.makeRoom.held ≤ s.held := by
  unfold State.makeRoom
  dsimp only
  split
  · exact Nat.le_refl _
  · unfold State.retireOldest
    rw [show (s.setArm .empty).seq.flight = s.seq.flight from rfl]
    cases hf : s.seq.flight with
    | nil => exact Nat.le_refl _
    | cons f rest =>
      dsimp only
      refine (State.held_notify _ _).trans ?_
      unfold State.held
      rw [hf]
      exact Nat.le_refl _

/-- The firing as it stands before it is announced holds one more. -/
theorem State.held_placed (s : State) (cue : Cue) (cause : Cause) :
    ((s.makeRoom.enterFiring cue cause).placeFiring cue s.seq.nextId).held ≤ s.held + 1 := by
  refine (State.held_foldl (fun t c => t.placeOn cue s.seq.nextId c)
    (fun t c => t.held_placeOn cue s.seq.nextId c) allChans _).trans ?_
  have := s.held_makeRoom
  unfold State.held at this ⊢
  show s.makeRoom.seq.notices.length + (s.makeRoom.seq.flight ++ [_]).length ≤ _
  simp only [List.length_append, List.length_cons, List.length_nil]
  omega

theorem State.held_announced (s : State) (cue : Cue) (cause : Cause) :
    (s.announced cue cause).held ≤ s.held + 2 := by
  have hp := s.held_placed cue cause
  unfold State.announced State.announce
  generalize (s.makeRoom.enterFiring cue cause).placeFiring cue s.seq.nextId = q at hp
  exact (State.held_notify _ _).trans (Nat.succ_le_succ hp)

/-- A firing holds its notices and its entry more, at most three. -/
theorem State.held_fire {s : State} {cue : Cue} (cause : Cause) (h : s.NextIs cue) :
    (s.fire cause).held ≤ s.held + 3 := by
  have hn : s.nextCue = some cue := by simp [State.nextCue, h.1, h.2.1]
  have ha := s.held_announced cue cause
  unfold State.fire
  rw [hn]
  dsimp only
  refine (State.held_foldl (fun t c => t.startOwn s.seq.nextId c)
    (fun t c => t.held_startOwn s.seq.nextId c) allChans _).trans ?_
  rw [State.fireSteps_eq]
  generalize s.announced cue cause = a at ha
  split
  · have hc := State.held_completeFiring (a.setArm (a.firingArm s.seq.nextId))
      (s.makeRoom.entryFor cue cause)
    have he : (a.setArm (a.firingArm s.seq.nextId)).held = a.held := rfl
    omega
  · have he : (a.setArm (a.firingArm s.seq.nextId)).held = a.held := rfl
    omega

/-- A firing is told after every notice that waits, where there is room (R72, R86). -/
theorem State.fire_told {s : State} {cue : Cue} (cause : Cause) (h : s.NextIs cue)
    (hn : s.held ≤ 14) :
    ∃ before after, (s.fire cause).seq.notices = s.seq.notices ++ before ++
      { kind := .fired, cue := cue.number, firing := s.seq.nextId, cause := some cause } :: after := by
  have hp := s.held_placed cue cause
  obtain ⟨before, hb⟩ : s.seq.notices <+:
      ((s.makeRoom.enterFiring cue cause).placeFiring cue s.seq.nextId).seq.notices := by
    refine List.IsPrefix.trans ?_ (State.Quiet.placeFiring _ _ _).notices
    show s.seq.notices <+: s.makeRoom.seq.notices
    unfold State.makeRoom
    dsimp only
    split
    · exact List.prefix_rfl
    · exact (State.Quiet.retireOldest (s.setArm .empty)).notices
  obtain ⟨after, ha⟩ := (State.fire_quiet cause h).notices
  refine ⟨before, after, ?_⟩
  rw [← ha, hb]
  show (s.announced cue cause).seq.notices ++ after = _
  unfold State.announced
  rw [(State.announce_told _ cue s.seq.nextId cause (by unfold State.held at hp hn; omega)).1]
  simp

/-! ### One link of a chain -/

theorem idAfter_ne (id : Nat) : idAfter id ≠ id := by
  unfold idAfter
  split <;> omega

/-- The first firing of a chain leaves a wait of 0 for the second. -/
theorem State.fire_chained_arm {s : State} {cue d : Cue} (cause : Cause) (h : s.NextChained cue d) :
    (s.fire cause).seq.arm = .waiting 0 d.base := by
  obtain ⟨hi, hs, hw, ht, _⟩ := h
  have hn : s.nextCue = some cue := by simp [State.nextCue, hi.1, hi.2.1]
  unfold State.fire
  rw [hn]
  dsimp only
  have hfold : ∀ (l : List Chan) (t : State), t.seq.arm = .waiting 0 d.base →
      (l.foldl (fun t c => t.startOwn s.seq.nextId c) t).seq.arm = .waiting 0 d.base := by
    intro l t ht
    have k := State.Quiet.foldl _ (fun t c => State.Quiet.startOwn t s.seq.nextId c) l t
    exact (k.arm (by simp [ht])).1.trans ht
  apply hfold
  have ha := s.announced_successor cue cause
  rw [State.fireSteps_eq]
  generalize s.announced cue cause = a at ha
  rw [hs] at ha
  have hid : (s.makeRoom.entryFor cue cause).id = s.seq.nextId := State.makeRoom_nextId s
  have hwa : a.waitingArm = .waiting 0 d.base := by simp [State.waitingArm, ha, hw]
  split
  · rw [((a.setArm (a.firingArm s.seq.nextId)).completeFiring_show _ rfl).1, hid]
    show (if a.firingArm s.seq.nextId = .await s.seq.nextId then a.waitingArm
      else a.firingArm s.seq.nextId) = _
    rcases ht with ht | ⟨ht, _⟩ <;> simp [State.firingArm, ha, ht, hw, hwa]
  · rename_i hm
    rcases ht with ht | ⟨_, hm'⟩
    · show a.firingArm s.seq.nextId = _
      simp [State.firingArm, ha, ht, hw]
    · simp [hm'] at hm

/-- After the first firing of a chain the second cue is next, and no chain follows it. -/
theorem State.fire_chained_next {s : State} {cue d : Cue} (cause : Cause) (h : s.NextChained cue d) :
    (s.fire cause).NextAlone d := by
  obtain ⟨hi, hs, _, _, hp, he⟩ := h
  obtain ⟨_, hnx, hni, _, _, hch⟩ := State.fire_fired cause hi
  have hc : (s.fire cause).cues = s.cues := (State.ShowFrame.fire s cause).cues
  obtain ⟨k, hk, hd⟩ := Option.bind_eq_some_iff.mp hs
  have hkd : k = d.number := by
    have := List.find?_some (show s.cues.find? (fun c => c.number == k) = some d from hd)
    exact (beq_iff_eq.mp this).symm
  subst hkd
  refine ⟨⟨hnx.trans hk, by rw [hc]; exact hd, ?_⟩, ?_⟩
  · intro c p hw
    rw [hni]
    rw [hch c] at hw
    split at hw
    · have hm : p ∈ pendingFor cue s.seq.nextId c := by
        unfold Channel.started at hw
        have hfold : ∀ (l : List PendingMove) (r : Channel),
            (l.foldl Channel.starting r).waiting = r.waiting := by
          intro l
          induction l with
          | nil => intro r; rfl
          | cons q l ih => intro r; rw [List.foldl_cons, ih, Channel.starting_waiting]
        rw [hfold] at hw
        exact (List.dropWhile_sublist _).subset hw
      obtain ⟨_, _, _, rfl⟩ := mem_pendingFor.mp hm
      exact (idAfter_ne _).symm
    · exact hp c p (s.channelKept_waiting c p hw)
  · intro e hsucc
    refine he e ?_
    rw [← hsucc]
    unfold State.successor
    rw [hc]

/-- One link of a chain (R77). -/
theorem State.fireChain_chained {s : State} {cue d : Cue} (cause : Cause) (hst : s.seq.state = .running)
    (h : s.NextChained cue d) : s.FiredChained (s.fireChain cause) cue d cause := by
  have hn := State.fire_chained_next cause h
  have ha := State.fire_chained_arm cause h
  have hF := State.ShowFrame.fire s cause
  have hfd := State.fire_fired cause h.1
  have hta := State.fire_table cause h.1
  have hev := State.fire_events cause h.1
  have hto := fun k => State.fire_told (s := s) cause h.1 k
  have hhe := State.held_fire cause h.1
  unfold State.fireChain
  generalize s.fire cause = u at hn ha hF hfd hto hhe hta hev
  have hd : u.waitDue = true := by
    unfold State.waitDue
    rw [hF.state, hst, ha]
    rfl
  have hw : u.waitCause = if d.trigger = .follow then .follow else .withCue := by
    unfold State.waitCause State.nextCue
    rw [hn.1.1]
    simp [hn.1.2.1]
  have hlen : u.cues ≠ [] := by
    intro he
    have := hn.1.2.1
    rw [he] at this
    simp [findCue] at this
  obtain ⟨m, hm⟩ : ∃ m, u.cues.length = m + 1 :=
    ⟨u.cues.length - 1, by have := List.length_pos_iff.mpr hlen; omega⟩
  have hset : u.settled = u.fire (if d.trigger = .follow then .follow else .withCue) := by
    unfold State.settled
    rw [State.settle, if_pos hd, hw, hm]
    exact State.settle_of_not_due _ _ (State.fire_not_due _ (.inl hn))
  rw [hset]
  refine ⟨⟨u, hfd, hta, hev, ha, hF.cues, hn, State.fire_alone _ hn, State.fire_events _ hn.1⟩, fun hk => ?_⟩
  have hk : s.held ≤ 11 := hk
  obtain ⟨b₁, a₁, h₁⟩ := hto (by omega)
  obtain ⟨b₂, a₂, h₂⟩ := State.fire_told (s := u)
    (if d.trigger = .follow then Cause.follow else Cause.withCue) hn.1 (by omega)
  rw [h₂, h₁, show u.seq.nextId = idAfter s.seq.nextId from hfd.2.2.1]
  simp only [List.append_assoc, List.cons_append]
  refine List.Sublist.trans ?_ (List.sublist_append_right _ _)
  refine List.Sublist.trans ?_ (List.sublist_append_right _ _)
  refine List.Sublist.cons_cons _ ?_
  refine List.Sublist.trans ?_ (List.sublist_append_right _ _)
  refine List.Sublist.trans ?_ (List.sublist_append_right _ _)
  simp

end Sys2Proof.Machine
end

