-- ==== Sys2Proof/Laws/Closed.lean ====
section
/-!
SUPPORT. A property of the state that the elementary updates of the show keep is kept by ends, starts,
firings and clearing. Each invariant about the show is proved for the elementary updates alone.
-/

namespace Sys2Proof.Machine

/-- The elementary updates of the show operations keep `P`. Each field gives what the operation knows
where it makes its update. -/
structure ShowClosed (P : State → Prop) : Prop where
  raise : ∀ {s : State} (e : Event), P s → P (s.raise e)
  notify : ∀ {s : State} (n : Notice), P s → P (s.notify n)
  /-- Firings leave the flight table, or their counts fall. -/
  flight : ∀ {s : State} (l : List Firing), P s → l.length ≤ s.seq.flight.length →
    P (s.setSeq { s.seq with flight := l })
  /-- The arm is emptied, or set in SHOW, or an arm that is set gives way to another. -/
  arm : ∀ {s : State} (a : Arm), P s → a = .empty ∨ s.seq.state = .running ∨ s.seq.arm ≠ .empty →
    P (s.setArm a)
  /-- In SHOW a firing joins the flight table once room has been made. -/
  enter : ∀ {s : State} (cue : Cue) (cause : Cause), P s → P s.makeRoom →
    s.seq.state = .running → P (s.makeRoom.enterFiring cue cause)
  /-- The playhead moves on past a cue of the list. -/
  playhead : ∀ {s : State} (cue : Cue), P s → cue ∈ s.cues →
    P (s.setSeq { s.seq with standing := some cue.number, next := cueAfter s.cues cue.number })
  /-- A channel takes another level, CUE source, active move or pending list. -/
  chan : ∀ {s : State} (c : Chan) (level : Int) (cue : Bool) (active : Option ActiveMove)
    (waiting : List PendingMove), P s →
      P (s.setChan c { s.chan c with level, cue, active, waiting })
  /-- The cue that a crossing has fired in SHOW is noted, or no longer. -/
  crossed : ∀ {s : State} (n : Option Nat), P s → n = none ∨ s.seq.state = .running →
    P (s.setSeq { s.seq with crossed := n })
  /-- A firing's moves leave every channel. -/
  without : ∀ {s : State} (id : Nat), P s →
    P (s.setChannels (s.channels.map fun r => r.withoutFiring id))

variable {P : State → Prop}

/-- What each step of a fold keeps, the fold keeps. -/
theorem foldl_closed {α : Type} (f : State → α → State) (h : ∀ t a, P t → P (f t a)) (l : List α)
    (s : State) (hs : P s) : P (l.foldl f s) := by
  induction l generalizing s with
  | nil => exact hs
  | cons a l ih => exact ih _ (h s a hs)

theorem ShowClosed.completeFiring (k : ShowClosed P) {s : State} (f : Firing) (h : P s) :
    P (s.completeFiring f) := by
  have h1 := k.raise .cueComplete (k.notify
    { kind := .complete, cue := f.cue, firing := f.id, cause := none }
    (k.flight (s.seq.flight.filter (fun g => g.id != f.id)) h (List.length_filter_le _ _)))
  unfold State.completeFiring
  dsimp only
  split
  · rename_i e
    exact k.arm _ h1 (.inr (.inr (by rw [e]; simp)))
  · exact h1

theorem ShowClosed.countEnd (k : ShowClosed P) {s : State} (id : Nat) (h : P s) :
    P (s.countEnd id) := by
  unfold State.countEnd
  split
  · exact h
  · split
    · exact k.completeFiring _ h
    · exact k.flight _ h (by simp)

theorem ShowClosed.reportEnd (k : ShowClosed P) {s : State} (o : Owner) (h : P s) :
    P (s.reportEnd o) := by
  cases o
  · exact k.countEnd _ h
  · exact h
  · exact h

theorem ShowClosed.reportActive (k : ShowClosed P) {s : State} (c : Chan) (h : P s) :
    P (s.reportActive c) := by
  unfold State.reportActive
  split
  · exact h
  · exact k.reportEnd _ h

theorem ShowClosed.completeMove (k : ShowClosed P) {s : State} (c : Chan) (h : P s) :
    P (s.completeMove c) := by
  unfold State.completeMove
  split
  · exact h
  · exact k.reportEnd _ (k.chan c _ _ _ _ h)

theorem ShowClosed.startLevel (k : ShowClosed P) {s : State} (c : Chan) (target : Int)
    (duration : Nat) (curve : Curve) (base : Timebase) (owner : Owner) (h : P s) :
    P (s.startLevel c target duration curve base owner) := by
  have h1 := k.reportActive c h
  unfold State.startLevel
  dsimp only
  split
  · exact k.reportEnd _ (k.chan c _ _ _ _ h1)
  · exact k.chan c _ _ _ _ h1

theorem ShowClosed.startMove (k : ShowClosed P) {s : State} (c : Chan) (p : PendingMove) (h : P s) :
    P (s.startMove c p) := by
  unfold State.startMove
  split
  · exact k.startLevel c _ _ _ _ _ h
  · exact k.countEnd _ (k.chan c _ _ _ _ h)
  · exact k.countEnd _ (k.chan c _ _ _ _ h)

theorem ShowClosed.startHead (k : ShowClosed P) {s : State} (c : Chan) (h : P s) :
    P (s.startHead c) := by
  unfold State.startHead
  split
  · exact h
  · exact k.startMove c _ (k.chan c _ _ _ _ h)

theorem ShowClosed.startDue (k : ShowClosed P) (n : Nat) {s : State} (c : Chan) (h : P s) :
    P (State.startDue n s c) := by
  induction n generalizing s with
  | zero => exact h
  | succ n ih =>
    unfold State.startDue
    split
    · exact ih (k.startHead c h)
    · exact h

theorem ShowClosed.startOwn (k : ShowClosed P) {s : State} (id : Nat) (c : Chan) (h : P s) :
    P (s.startOwn id c) := by
  unfold State.startOwn
  split
  · exact h
  · split
    · exact k.startDue _ c h
    · exact h

theorem ShowClosed.placeOn (k : ShowClosed P) {s : State} (cue : Cue) (id : Nat) (c : Chan)
    (h : P s) : P (s.placeOn cue id c) := by
  unfold State.placeOn
  split
  · exact k.chan c _ _ _ _ (foldl_closed _ (fun _ p => k.countEnd p.firing) _ s h)
  · exact h

theorem ShowClosed.retireOldest (k : ShowClosed P) {s : State} (h : P s) : P s.retireOldest := by
  unfold State.retireOldest
  split
  · exact h
  · rename_i e
    exact k.raise _ (k.notify _ (k.flight _ (k.without _ h) (by rw [State.setChannels_seq, e]; simp)))

/-- The oldest firing has left a full table, so that the next finds room (R73). -/
theorem State.makeRoom_flight (s : State) (h : s.seq.flight.length ≤ 8) :
    s.makeRoom.seq.flight.length < 8 := by
  have e : (s.setArm .empty).seq.flight = s.seq.flight := rfl
  have n : ∀ (t : State) (x : Notice), (t.notify x).seq.flight = t.seq.flight := by
    intro t x
    unfold State.notify
    split <;> rfl
  unfold State.makeRoom
  dsimp only
  split
  · assumption
  · unfold State.retireOldest
    split
    · rename_i hf
      rw [hf]
      decide
    · rename_i f rest hf
      rw [State.raise_seq, n]
      show rest.length < 8
      rw [e] at hf
      rw [hf] at h
      simpa using h

theorem ShowClosed.makeRoom (k : ShowClosed P) {s : State} (h : P s) : P s.makeRoom := by
  unfold State.makeRoom
  dsimp only
  split
  · exact k.arm _ h (.inl rfl)
  · exact k.retireOldest (k.arm _ h (.inl rfl))

theorem ShowClosed.fireSteps (k : ShowClosed P) {s : State} (cue : Cue) (cause : Cause)
    (hc : cue ∈ s.cues) (hr : s.seq.state = .running) (h : P s) :
    P (s.fireSteps cue cause) := by
  have fr := State.ShowFrame.makeRoom s
  have h1 := k.enter cue cause h (k.makeRoom h) hr
  have h2 : P ((s.makeRoom.enterFiring cue cause).placeFiring cue s.makeRoom.seq.nextId) :=
    foldl_closed _ (fun _ c => k.placeOn cue _ c) _ _ h1
  have f2 := (fr.trans (State.ShowFrame.enterFiring _ cue cause)).trans
    (State.ShowFrame.placeFiring _ cue s.makeRoom.seq.nextId)
  have h3 := k.raise .cueFired (k.notify
    { kind := .fired, cue := cue.number, firing := s.makeRoom.seq.nextId, cause := some cause }
    (k.playhead cue h2 (by rw [f2.cues]; exact hc)))
  have f3 := f2.trans (State.ShowFrame.announce _ cue s.makeRoom.seq.nextId cause)
  have h4 := k.arm ((((s.makeRoom.enterFiring cue cause).placeFiring cue
    s.makeRoom.seq.nextId).announce cue s.makeRoom.seq.nextId cause).firingArm s.makeRoom.seq.nextId)
      h3 (.inr (.inl (by rw [← hr]; exact f3.state)))
  unfold State.fireSteps
  dsimp only
  split
  · exact k.completeFiring _ h4
  · exact h4

/-- The next cue is a cue of the list. -/
theorem State.nextCue_mem {s : State} {cue : Cue} (h : s.nextCue = some cue) : cue ∈ s.cues := by
  unfold State.nextCue findCue at h
  cases e : s.seq.next with
  | none => rw [e] at h; exact absurd h (by simp)
  | some n => rw [e] at h; exact List.mem_of_find?_eq_some h

theorem ShowClosed.fire (k : ShowClosed P) {s : State} (cause : Cause) (hr : s.seq.state = .running)
    (h : P s) : P (s.fire cause) := by
  unfold State.fire
  split
  · exact h
  · rename_i hc
    exact foldl_closed _ (fun _ c => k.startOwn _ c) _ _
      (k.fireSteps _ cause (State.nextCue_mem hc) hr h)

theorem ShowClosed.clearShow (k : ShowClosed P) {s : State} (h : P s)
    (clear : ∀ {t : State}, P t → P (t.setChannels (t.channels.map Channel.cleared))) :
    P s.clearShow := by
  unfold State.clearShow
  dsimp only
  exact k.arm _ (k.crossed none
    (k.flight [] (foldl_closed _ (fun _ f => k.notify _) _ _ (clear h)) (by simp)) (.inl rfl)) (.inl rfl)

/-- Waits of 0 expire one after another, and each firing keeps `P` (R77). -/
theorem ShowClosed.settle (k : ShowClosed P) (n : Nat) {s : State} (h : P s) : P (State.settle n s) := by
  induction n generalizing s with
  | zero => exact h
  | succ n ih =>
    unfold State.settle
    split
    · rename_i hw
      have hr : s.seq.state = .running := by
        unfold State.waitDue at hw
        simp only [Bool.and_eq_true, beq_iff_eq] at hw
        exact hw.1
      exact ih (k.fire _ hr h)
    · exact h

theorem ShowClosed.settled (k : ShowClosed P) {s : State} (h : P s) : P s.settled := k.settle _ h

theorem ShowClosed.settledFrom (k : ShowClosed P) {s : State} (u : State) (h : P s) :
    P (s.settledFrom u) := by
  unfold State.settledFrom
  split
  · exact h
  · exact k.settled h

theorem ShowClosed.fireChain (k : ShowClosed P) {s : State} (cause : Cause)
    (hr : s.seq.state = .running) (h : P s) : P (s.fireChain cause) :=
  k.settled (k.fire _ hr h)

theorem ShowClosed.takeCrossing (k : ShowClosed P) {s : State} (h : P s) :
    P s.takeCrossing := by
  unfold State.takeCrossing
  split
  · rename_i hr
    exact k.crossed _ (k.fireChain _ hr h) (.inr ((State.ShowFrame.fireChain s _).state.trans hr))
  · exact h

theorem ShowClosed.movesTick (k : ShowClosed P) {s : State} (c : Chan) (h : P s) :
    P (s.movesTick c) := by
  have h1 : P (s.activeTick c) := by
    unfold State.activeTick
    dsimp only
    repeat' split
    · exact h
    · exact k.completeMove c h
    · exact k.chan c _ _ _ _ h
    · exact h
  unfold State.movesTick State.pendingTick
  repeat' split
  · exact h1
  · exact k.startDue _ c (k.chan c _ _ _ _ h1)
  · exact h1

theorem ShowClosed.allMoves (k : ShowClosed P) {s : State} (h : P s) : P s.allMoves :=
  foldl_closed _ (fun _ c => k.movesTick c) _ _ h

end Sys2Proof.Machine
end

