-- ==== Sys2Proof/Laws/CueList.lean ====
section
/-!
SUPPORT. What the functions that look into the cue list answer while it is in order (R42, R67).
-/

namespace Sys2Proof.Machine

/-- The list in strictly ascending order of number. -/
abbrev Ascending (cues : List Cue) : Prop := (cues.map Cue.number).Pairwise (· < ·)

theorem Ascending.tail {q : Cue} {l : List Cue} (h : Ascending (q :: l)) : Ascending l :=
  (List.pairwise_cons.mp h).2

theorem Ascending.head_lt {q : Cue} {l : List Cue} (h : Ascending (q :: l)) :
    ∀ p ∈ l, q.number < p.number := fun p hp =>
  (List.pairwise_cons.mp h).1 p.number (List.mem_map_of_mem hp)

theorem firstCue_eq_some {cues : List Cue} (h : Ascending cues) {k : Nat} :
    firstCue cues = some k ↔ (∃ q ∈ cues, q.number = k) ∧ ∀ q ∈ cues, k ≤ q.number := by
  cases cues with
  | nil => simp [firstCue]
  | cons a l =>
    have hl := h.head_lt
    constructor
    · intro e
      obtain rfl : a.number = k := Option.some.inj e
      refine ⟨⟨a, List.mem_cons_self, rfl⟩, fun q hq => ?_⟩
      rcases List.mem_cons.mp hq with rfl | hq
      · exact Nat.le_refl _
      · exact (hl q hq).le
    · rintro ⟨⟨q, hq, rfl⟩, hk⟩
      rcases List.mem_cons.mp hq with rfl | hq
      · rfl
      · exact absurd (hk a List.mem_cons_self) (Nat.not_le.mpr (hl q hq))

theorem lastCue_eq_some {cues : List Cue} (h : Ascending cues) {k : Nat} :
    lastCue cues = some k ↔ (∃ q ∈ cues, q.number = k) ∧ ∀ q ∈ cues, q.number ≤ k := by
  induction cues using List.reverseRecOn with
  | nil => simp [lastCue]
  | append_singleton l a _ =>
    have hl : ∀ p ∈ l, p.number < a.number := by
      intro p hp
      have h' : (l.map Cue.number ++ [a.number]).Pairwise (· < ·) := by simpa [Ascending] using h
      exact (List.pairwise_append.mp h').2.2 _ (List.mem_map_of_mem hp) _ (by simp)
    have e : lastCue (l ++ [a]) = some a.number := by simp [lastCue]
    rw [e]
    constructor
    · intro e
      obtain rfl : a.number = k := Option.some.inj e
      refine ⟨⟨a, by simp, rfl⟩, fun q hq => ?_⟩
      rcases List.mem_append.mp hq with hq | hq
      · exact (hl q hq).le
      · rw [List.mem_singleton.mp hq]
    · rintro ⟨⟨q, hq, rfl⟩, hk⟩
      rcases List.mem_append.mp hq with hq | hq
      · exact absurd (hk a (by simp)) (Nat.not_le.mpr (hl q hq))
      · rw [List.mem_singleton.mp hq]

theorem cueAfter_eq_first (cues : List Cue) (n : Nat) :
    cueAfter cues n = firstCue (cues.filter fun c => decide (n < c.number)) := by
  unfold cueAfter firstCue
  rw [List.head?_filter]

theorem Ascending.filter {cues : List Cue} (h : Ascending cues) (p : Cue → Bool) :
    Ascending (cues.filter p) := h.sublist (List.filter_sublist.map _)

/-- The cue after a number: the least number greater (R67). -/
theorem cueAfter_eq_some {cues : List Cue} (h : Ascending cues) {n k : Nat} :
    cueAfter cues n = some k ↔
      (∃ q ∈ cues, q.number = k) ∧ n < k ∧ ∀ q ∈ cues, n < q.number → k ≤ q.number := by
  rw [cueAfter_eq_first, firstCue_eq_some (h.filter _)]
  simp only [List.mem_filter, decide_eq_true_eq]
  constructor
  · rintro ⟨⟨q, ⟨hq, hn⟩, rfl⟩, hk⟩
    exact ⟨⟨q, hq, rfl⟩, hn, fun p hp h => hk p ⟨hp, h⟩⟩
  · rintro ⟨⟨q, hq, rfl⟩, hn, hk⟩
    exact ⟨⟨q, ⟨hq, hn⟩, rfl⟩, fun p hp => hk p hp.1 hp.2⟩

/-- The cue before a number: the greatest number smaller (R67). -/
theorem cueBefore_eq_some {cues : List Cue} (h : Ascending cues) {n k : Nat} :
    cueBefore cues n = some k ↔
      (∃ q ∈ cues, q.number = k) ∧ k < n ∧ ∀ q ∈ cues, q.number < n → q.number ≤ k := by
  show lastCue (cues.filter fun c => decide (c.number < n)) = some k ↔ _
  rw [lastCue_eq_some (h.filter _)]
  simp only [List.mem_filter, decide_eq_true_eq]
  constructor
  · rintro ⟨⟨q, ⟨hq, hn⟩, rfl⟩, hk⟩
    exact ⟨⟨q, hq, rfl⟩, hn, fun p hp h => hk p ⟨hp, h⟩⟩
  · rintro ⟨⟨q, hq, rfl⟩, hn, hk⟩
    exact ⟨⟨q, ⟨hq, hn⟩, rfl⟩, fun p hp => hk p hp.1 hp.2⟩

theorem cueAfter_eq_none {cues : List Cue} {n : Nat} :
    cueAfter cues n = none ↔ ∀ q ∈ cues, q.number ≤ n := by
  simp [cueAfter]

theorem cueBefore_eq_none {cues : List Cue} {n : Nat} :
    cueBefore cues n = none ↔ ∀ q ∈ cues, n ≤ q.number := by
  simp [cueBefore]

theorem firstCue_eq_none {cues : List Cue} : firstCue cues = none ↔ cues = [] := by simp [firstCue]

theorem lastCue_eq_none {cues : List Cue} : lastCue cues = none ↔ cues = [] := by simp [lastCue]

/-- The record of a number: the one cue that bears it. -/
theorem findCue_eq_some {cues : List Cue} (h : Ascending cues) {n : Nat} {q : Cue} :
    findCue cues n = some q ↔ q ∈ cues ∧ q.number = n := by
  constructor
  · intro e
    exact ⟨List.mem_of_find?_eq_some e, by simpa using List.find?_some e⟩
  · rintro ⟨hq, rfl⟩
    induction cues with
    | nil => cases hq
    | cons a l ih =>
      rcases List.mem_cons.mp hq with rfl | hm
      · simp [findCue]
      · have hne : a.number ≠ q.number := (h.head_lt q hm).ne
        have := ih h.tail hm
        unfold findCue at this ⊢
        rw [List.find?_cons_of_neg (by simpa using hne)]
        exact this

end Sys2Proof.Machine
end

