-- ==== Sys2Proof/Laws/Levels.lean ====
section
/-!
SUPPORT. What the roundings of chapter 2 do, said once, and the bits of a channel's set of mute sources (R7
to R9, R21, R24, R26, R36, R37, R198).
-/

namespace Sys2Proof.Machine

/-! ### Roundings -/

/-- Rounding half up (R21). -/
theorem roundHalfUp_rounded (x : Nat) {d : Nat} (h : 0 < d) : RoundedUp x d (roundHalfUp x d) := by
  unfold RoundedUp roundHalfUp
  have h2 : 0 < 2 * d := by omega
  have e := Nat.div_add_mod (2 * x + d) (2 * d)
  have hm := Nat.mod_lt (2 * x + d) h2
  generalize (2 * x + d) / (2 * d) = q at *
  have e1 : 2 * d * q = 2 * q * d := by ring
  have e2 : 2 * (q + 1) * d = 2 * q * d + 2 * d := by ring
  omega

/-- Rounding to nearest, halves away from zero (R21, R24). -/
theorem roundAway_rounded (x : Int) {d : Nat} (h : 0 < d) : RoundedAway x d (roundAway x d) := by
  have up : ∀ y : Int, 0 ≤ y → RoundedAway y d ((2 * y + d) / (2 * d)) := by
    intro y hy
    have e := Int.mul_ediv_add_emod (2 * y + d) (2 * d)
    have h0 := Int.emod_nonneg (2 * y + d) (by omega : (2 * d : Int) ≠ 0)
    have hm := Int.emod_lt_of_pos (2 * y + d) (by omega : 0 < (2 * d : Int))
    have hq : 0 ≤ (2 * y + d) / (2 * (d : Int)) := Int.ediv_nonneg (by omega) (by omega)
    generalize (2 * y + d) / (2 * (d : Int)) = q at *
    have e1 : 2 * (d : Int) * q = 2 * (q * d) := by ring
    have hqd : 0 ≤ q * (d : Int) := mul_nonneg hq (by omega)
    rw [e1] at e
    unfold RoundedAway
    rw [abs_of_nonneg hy, abs_of_nonneg hqd]
    generalize q * (d : Int) = w at *
    refine ⟨?_, fun he => ?_⟩
    · rcases abs_cases (y - w) with ⟨ha, _⟩ | ⟨ha, _⟩ <;> rw [ha] <;> omega
    · rcases abs_cases (y - w) with ⟨ha, _⟩ | ⟨ha, _⟩ <;> rw [ha] at he <;> omega
  unfold roundAway
  split
  · exact up x ‹_›
  · obtain ⟨h1, h2⟩ := up (-x) (by omega)
    generalize (2 * -x + d) / (2 * (d : Int)) = q at *
    unfold RoundedAway
    rw [show x - -q * (d : Int) = -(-x - q * d) by ring, show -q * (d : Int) = -(q * d) by ring, abs_neg,
      abs_neg (q * (d : Int))]
    rw [abs_neg x] at h2
    exact ⟨h1, h2⟩

/-- A level at a shaped progress (R24, R26). -/
theorem levelAt_rounded (a b q : Int) :
    ∃ n, levelAt a b q = a + n ∧ RoundedAway ((b - a) * q) 65536 n :=
  ⟨_, rfl, roundAway_rounded _ (by decide)⟩

/-! ### Mute sources -/

/-- GROUP is set exactly on a strip whose group master has a source set (R8). -/
theorem State.groupSource_iff (s : State) (c : Chan) : s.groupSource c = true ↔
    c.val < 48 ∧ ∃ (g : Fin 8) (m : Chan), (s.chan c).cfg.group = some g ∧ m.val = 48 + g.val ∧
      ((s.chan m).cue = true ∨ (s.chan m).operator = true ∨ (s.chan m).remote = true ∨
        s.seq.state = .safe) := by
  have e (m : Chan) : ((s.chan m).storedMute || s.safeSource) = true ↔
      (s.chan m).cue = true ∨ (s.chan m).operator = true ∨ (s.chan m).remote = true ∨
        s.seq.state = .safe := by
    simp [Channel.storedMute, State.safeSource, or_assoc]
  unfold State.groupSource
  rw [Bool.and_eq_true]
  refine and_congr (by simp [isStrip]) ?_
  cases (s.chan c).cfg.group with
  | none => simp
  | some g =>
    dsimp only
    rw [e]
    refine ⟨fun h => ⟨g, masterChan g, rfl, rfl, h⟩, ?_⟩
    rintro ⟨k, m, hk, hm, h⟩
    obtain rfl : g = k := Option.some.inj hk
    obtain rfl : m = masterChan g := Fin.ext hm
    exact h

/-- The bits of a channel's set of mute sources (R7 to R9, R198). -/
theorem State.muteSources_bits (s : State) (c : Chan) :
    (s.muteSources c).testBit 0 = (s.chan c).cue ∧ (s.muteSources c).testBit 1 = (s.chan c).operator ∧
      (s.muteSources c).testBit 2 = (s.chan c).remote ∧ (s.muteSources c).testBit 3 = s.groupSource c ∧
        (s.muteSources c).testBit 4 = s.safeSource ∧ s.muteSources c < 32 := by
  unfold State.muteSources
  dsimp only
  generalize s.groupSource c = g
  generalize s.safeSource = k
  cases (s.chan c).cue <;> cases (s.chan c).operator <;> cases (s.chan c).remote <;> cases g <;>
    cases k <;> decide

end Sys2Proof.Machine
end

