-- ==== Sys2Proof/Laws/Link.lean ====
section
/-!
SUPPORT. The operations on the show neither read nor write the link: each commutes with writing it. So
a request may be served first and heard afterwards.
-/

namespace Sys2Proof.Machine

variable (s : State) (x : Link)

@[simp] theorem State.setLink_nextCue : (s.setLink x).nextCue = s.nextCue := rfl
@[simp] theorem State.setLink_clockArm : (s.setLink x).clockArm = s.clockArm := rfl
@[simp] theorem State.setLink_waitingArm : (s.setLink x).waitingArm = s.waitingArm := rfl
@[simp] theorem State.setLink_firingArm (id : Nat) :
    (s.setLink x).firingArm id = s.firingArm id := rfl
@[simp] theorem State.setLink_releaseArm : (s.setLink x).releaseArm = s.releaseArm := rfl
@[simp] theorem State.setLink_waitDue : (s.setLink x).waitDue = s.waitDue := rfl
@[simp] theorem State.setLink_waitCause : (s.setLink x).waitCause = s.waitCause := rfl
@[simp] theorem State.setLink_live : (s.setLink x).live = s.live := rfl
@[simp] theorem State.setLink_scanning : (s.setLink x).scanning = s.scanning := rfl
@[simp] theorem State.setLink_gateOpen : (s.setLink x).gateOpen = s.gateOpen := rfl
@[simp] theorem State.setLink_backTarget : (s.setLink x).backTarget = s.backTarget := rfl

@[simp] theorem State.setLink_setArm (a : Arm) :
    (s.setLink x).setArm a = (s.setArm a).setLink x := rfl
@[simp] theorem State.setLink_setChan (c : Chan) (r : Channel) :
    (s.setLink x).setChan c r = (s.setChan c r).setLink x := rfl
@[simp] theorem State.setLink_raise (e : Event) :
    (s.setLink x).raise e = (s.raise e).setLink x := rfl
@[simp] theorem State.setLink_setSeq (q : Sequencer) :
    (s.setLink x).setSeq q = (s.setSeq q).setLink x := rfl
@[simp] theorem State.setLink_setChannels (q : Tab 56 Channel) :
    (s.setLink x).setChannels q = (s.setChannels q).setLink x := rfl

@[simp] theorem State.setLink_notify (n : Notice) :
    (s.setLink x).notify n = (s.notify n).setLink x := by
  by_cases h : s.seq.notices.length < 16 <;> simp [State.notify, h]

@[simp] theorem State.setLink_completeFiring (f : Firing) :
    (s.setLink x).completeFiring f = (s.completeFiring f).setLink x := by
  unfold State.completeFiring
  simp only [State.setLink_seq, State.setLink_setSeq, State.setLink_notify, State.setLink_raise,
    State.setLink_waitingArm]
  split <;> simp_all

@[simp] theorem State.setLink_countEnd (id : Nat) :
    (s.setLink x).countEnd id = (s.countEnd id).setLink x := by
  unfold State.countEnd
  simp only [State.setLink_seq]
  split
  · rfl
  · split
    · exact State.setLink_completeFiring s x _
    · rfl

@[simp] theorem State.setLink_reportEnd (o : Owner) :
    (s.setLink x).reportEnd o = (s.reportEnd o).setLink x := by
  cases o
  · exact State.setLink_countEnd s x _
  · rfl
  · rfl

@[simp] theorem State.setLink_reportActive (c : Chan) :
    (s.setLink x).reportActive c = (s.reportActive c).setLink x := by
  unfold State.reportActive
  simp only [State.setLink_chan]
  split
  · rfl
  · exact State.setLink_reportEnd s x _

@[simp] theorem State.setLink_startLevel (c : Chan) (target : Int) (duration : Nat) (curve : Curve)
    (base : Timebase) (owner : Owner) : (s.setLink x).startLevel c target duration curve base owner =
      (s.startLevel c target duration curve base owner).setLink x := by
  unfold State.startLevel
  simp only [State.setLink_chan, State.setLink_reportActive]
  split
  · simp
  · simp

@[simp] theorem State.setLink_startMove (c : Chan) (p : PendingMove) :
    (s.setLink x).startMove c p = (s.startMove c p).setLink x := by
  unfold State.startMove
  split <;> simp

@[simp] theorem State.setLink_startHead (c : Chan) :
    (s.setLink x).startHead c = (s.startHead c).setLink x := by
  unfold State.startHead
  simp only [State.setLink_chan]
  split
  · rfl
  · simp

@[simp] theorem State.setLink_startDue (n : Nat) (c : Chan) :
    State.startDue n (s.setLink x) c = (State.startDue n s c).setLink x := by
  induction n generalizing s with
  | zero => rfl
  | succ n ih =>
    unfold State.startDue
    simp only [State.setLink_chan, State.setLink_startHead]
    split
    · exact ih _
    · rfl

@[simp] theorem State.setLink_retireOldest :
    (s.setLink x).retireOldest = s.retireOldest.setLink x := by
  unfold State.retireOldest
  simp only [State.setLink_seq]
  split
  · rfl
  · simp

/-- What commutes with writing the link at each step of a fold commutes with it over the fold. -/
theorem State.setLink_foldl {α : Type} (f : State → α → State)
    (h : ∀ (t : State) (a : α), f (t.setLink x) a = (f t a).setLink x) (l : List α) :
    l.foldl f (s.setLink x) = (l.foldl f s).setLink x := by
  induction l generalizing s with
  | nil => rfl
  | cons a l ih => rw [List.foldl_cons, List.foldl_cons, h, ih]

@[simp] theorem State.setLink_placeOn (cue : Cue) (id : Nat) (c : Chan) :
    (s.setLink x).placeOn cue id c = (s.placeOn cue id c).setLink x := by
  unfold State.placeOn
  simp only [State.setLink_chan]
  split
  · rw [State.setLink_foldl s x _ (fun t p => by simp)]
    rfl
  · rfl

@[simp] theorem State.setLink_makeRoom : (s.setLink x).makeRoom = s.makeRoom.setLink x := by
  unfold State.makeRoom
  simp only [State.setLink_setArm, State.setLink_seq, State.setLink_retireOldest]
  split <;> simp_all

@[simp] theorem State.setLink_enterFiring (cue : Cue) (cause : Cause) :
    (s.setLink x).enterFiring cue cause = (s.enterFiring cue cause).setLink x := rfl

@[simp] theorem State.setLink_placeFiring (cue : Cue) (id : Nat) :
    (s.setLink x).placeFiring cue id = (s.placeFiring cue id).setLink x :=
  State.setLink_foldl s x _ (fun t c => State.setLink_placeOn t x cue id c) _

@[simp] theorem State.setLink_announce (cue : Cue) (id : Nat) (cause : Cause) :
    (s.setLink x).announce cue id cause = (s.announce cue id cause).setLink x := by
  unfold State.announce
  simp

@[simp] theorem State.setLink_fireSteps (cue : Cue) (cause : Cause) :
    (s.setLink x).fireSteps cue cause = (s.fireSteps cue cause).setLink x := by
  unfold State.fireSteps
  simp only [State.setLink_makeRoom, State.setLink_enterFiring, State.setLink_seq,
    State.setLink_placeFiring, State.setLink_announce, State.setLink_firingArm, State.setLink_setArm]
  split
  · exact State.setLink_completeFiring _ x _
  · rfl

@[simp] theorem State.setLink_startOwn (id : Nat) (c : Chan) :
    (s.setLink x).startOwn id c = (s.startOwn id c).setLink x := by
  unfold State.startOwn
  simp only [State.setLink_chan]
  split
  · rfl
  · split
    · exact State.setLink_startDue s x _ c
    · rfl

@[simp] theorem State.setLink_fire (cause : Cause) :
    (s.setLink x).fire cause = (s.fire cause).setLink x := by
  unfold State.fire
  simp only [State.setLink_nextCue]
  split
  · rfl
  · rw [State.setLink_fireSteps]
    exact State.setLink_foldl _ x _ (fun t c => State.setLink_startOwn t x _ c) _

@[simp] theorem State.setLink_settle (n : Nat) :
    State.settle n (s.setLink x) = (State.settle n s).setLink x := by
  induction n generalizing s with
  | zero => rfl
  | succ n ih =>
    unfold State.settle
    simp only [State.setLink_waitDue, State.setLink_waitCause, State.setLink_fire]
    split
    · exact ih _
    · rfl

@[simp] theorem State.setLink_settled : (s.setLink x).settled = s.settled.setLink x :=
  State.setLink_settle s x _

@[simp] theorem State.setLink_settledFrom (u : State) :
    (s.setLink x).settledFrom u = (s.settledFrom u).setLink x := by
  unfold State.settledFrom
  split
  · rfl
  · exact State.setLink_settled s x

@[simp] theorem State.settledFrom_setLink (u : State) :
    s.settledFrom (u.setLink x) = s.settledFrom u := rfl

@[simp] theorem State.setLink_fireChain (cause : Cause) :
    (s.setLink x).fireChain cause = (s.fireChain cause).setLink x := by
  unfold State.fireChain
  simp

@[simp] theorem State.setLink_clearShow : (s.setLink x).clearShow = s.clearShow.setLink x := by
  unfold State.clearShow
  dsimp only [State.setLink_channels, State.setLink_seq, State.setLink_setChannels]
  rw [State.setLink_foldl _ x _ (fun t f => by simp)]
  rfl

@[simp] theorem State.setLink_setShow (st : ShowState) :
    (s.setLink x).setShow st = (s.setShow st).setLink x := by
  unfold State.setShow
  simp only [State.setLink_seq]
  split <;> simp_all

@[simp] theorem State.setLink_holdShow : (s.setLink x).holdShow = s.holdShow.setLink x := by
  unfold State.holdShow
  simp only [State.setLink_seq, State.setLink_setShow]
  split <;> simp_all

@[simp] theorem State.setLink_enterSafe : (s.setLink x).enterSafe = s.enterSafe.setLink x := by
  by_cases h : s.seq.state = .safe
  · simp [State.enterSafe, h]
  · simp [State.enterSafe, h]
    rfl

@[simp] theorem State.setLink_resumeShow : (s.setLink x).resumeShow = s.resumeShow.setLink x := by
  unfold State.resumeShow
  simp only [State.setLink_setShow, State.setLink_seq, State.setLink_clockArm, State.setLink_setArm]
  split <;> simp

@[simp] theorem State.setLink_leaveSafe : (s.setLink x).leaveSafe = s.leaveSafe.setLink x := by
  unfold State.leaveSafe
  simp only [State.setLink_setShow, State.setLink_seq, State.setLink_setSeq, State.setLink_releaseArm,
    State.setLink_setArm]
  split <;> simp_all

/-- A GO is judged and taken alike whatever the link holds (R69). -/
theorem State.setLink_go (cause : Cause) (expected : Nat) :
    (s.setLink x).go cause expected =
      { state := (s.go cause expected).state.setLink x, result := (s.go cause expected).result
        fired := (s.go cause expected).fired } := by
  unfold State.go
  simp only [State.setLink_scanning, State.setLink_seq, State.setLink_gateOpen, State.setLink_setSeq,
    State.setLink_resumeShow, State.setLink_fireChain, State.setLink_raise]
  repeat' split
  all_goals simp_all

end Sys2Proof.Machine
end

