-- ==== Sys2Proof/Laws/Notices.lean ====
section
/-!
SUPPORT. What queueing notices one after another leaves of the queue, the overflow count and the flags
(R86).
-/

namespace Sys2Proof.Machine

/-- An event that is raised already is raised again to no effect. -/
theorem State.raise_raise (s : State) (e : Event) : (s.raise e).raise e = s.raise e := by
  simp [State.raise, BitVec.or_assoc]

/-- Notices join the queue while there is room; the others are lost, each counted up to 255, and
NOTICE_OVERFLOW is raised (R86). -/
theorem State.notify_all (l : List Notice) (s : State) (room lost : Nat)
    (hr : room = 16 - s.seq.notices.length) (hl : lost = l.length - room) :
    l.foldl State.notify s =
      if lost = 0 then
        s.setSeq { s.seq with
          notices := s.seq.notices ++ l.take room
          overflow := max s.seq.overflow (min 255 (s.seq.overflow + lost)) }
      else
        (s.setSeq { s.seq with
          notices := s.seq.notices ++ l.take room
          overflow := max s.seq.overflow (min 255 (s.seq.overflow + lost)) }).raise .noticeOverflow := by
  induction l generalizing s room lost with
  | nil =>
    subst hl
    simp only [List.foldl_nil, List.take_nil, List.append_nil, List.length_nil, Nat.zero_sub, if_true,
      Nat.add_zero, Nat.max_eq_left (Nat.min_le_right 255 s.seq.overflow)]
    rfl
  | cons n l ih =>
    rw [List.foldl_cons]
    simp only [List.length_cons] at hl
    by_cases h : s.seq.notices.length < 16
    · have e : s.notify n = s.setSeq { s.seq with notices := s.seq.notices ++ [n] } := by
        unfold State.notify
        exact if_pos h
      obtain ⟨k, rfl⟩ : ∃ k, room = k + 1 := ⟨room - 1, by omega⟩
      rw [e, ih _ k lost (by simp; omega) (by omega)]
      simp
    · have e : s.notify n =
          (s.setSeq { s.seq with overflow := countUp 255 s.seq.overflow }).raise .noticeOverflow := by
        unfold State.notify
        exact if_neg h
      have hroom : room = 0 := by omega
      subst hroom
      have hc : max (countUp 255 s.seq.overflow) (min 255 (countUp 255 s.seq.overflow + l.length)) =
          max s.seq.overflow (min 255 (s.seq.overflow + lost)) := by
        unfold countUp
        split <;> omega
      have hlen : (State.raise (s.setSeq { s.seq with overflow := countUp 255 s.seq.overflow })
          .noticeOverflow).seq.notices.length = s.seq.notices.length := rfl
      rw [e, ih _ 0 l.length (by omega) (by omega), if_neg (show lost ≠ 0 by omega)]
      have key : ∀ t : State, t = (s.setSeq { s.seq with
          overflow := countUp 255 s.seq.overflow }).raise .noticeOverflow →
          t.setSeq { t.seq with
            notices := t.seq.notices ++ l.take 0
            overflow := max t.seq.overflow (min 255 (t.seq.overflow + l.length)) } =
          (s.setSeq { s.seq with
            notices := s.seq.notices ++ (n :: l).take 0
            overflow := max s.seq.overflow (min 255 (s.seq.overflow + lost)) }).raise
              .noticeOverflow := by
        rintro t rfl
        rw [← hc]
        rfl
      rw [key _ rfl]
      split
      · rfl
      · exact State.raise_raise _ _

end Sys2Proof.Machine
end

