-- ==== Sys2Proof/Laws/PerInstr.lean ====
section
/-!
SUPPORT. A family of statements about each command as syntax: the type code of a request names that
request again (R178, R197).
-/

namespace Sys2Proof.Laws

/-- A code in no row of the type table names no request (R178). -/
theorem requestOf_unknown {code : Byte} (h : typeCodes.contains code = false) (d : Dest)
    (body : List Byte) : requestOf code d body = .unknownType d code body := by
  unfold requestOf
  split <;> first | rfl | exact absurd h (by decide)

/-- What a well-formed request carries is read back as the same request (R178, R197). -/
def Messages.Statement (i : Instr) : Prop :=
  i.wellFormed = true → ∀ d code body, i.request = some (d, code, body) → requestOf code d body = i

theorem Messages.nop (dest : Dest) (body : List Byte) : Messages.Statement (.nop dest body) := by
  rintro _ d code b ⟨⟩
  rfl

theorem Messages.linkSetup (dest : Dest) (body : List Byte) :
    Messages.Statement (.linkSetup dest body) := by
  rintro _ d code b ⟨⟩
  rfl

theorem Messages.linkQuery (dest : Dest) (body : List Byte) :
    Messages.Statement (.linkQuery dest body) := by
  rintro _ d code b ⟨⟩
  rfl

theorem Messages.eventsSetup (dest : Dest) (body : List Byte) :
    Messages.Statement (.eventsSetup dest body) := by
  rintro _ d code b ⟨⟩
  rfl

theorem Messages.eventsRead (dest : Dest) (body : List Byte) :
    Messages.Statement (.eventsRead dest body) := by
  rintro _ d code b ⟨⟩
  rfl

theorem Messages.restart (dest : Dest) (body : List Byte) :
    Messages.Statement (.restart dest body) := by
  rintro _ d code b ⟨⟩
  rfl

theorem Messages.restartQuery (dest : Dest) (body : List Byte) :
    Messages.Statement (.restartQuery dest body) := by
  rintro _ d code b ⟨⟩
  rfl

theorem Messages.channelSetup (dest : Dest) (body : List Byte) :
    Messages.Statement (.channelSetup dest body) := by
  rintro _ d code b ⟨⟩
  rfl

theorem Messages.trim (dest : Dest) (body : List Byte) : Messages.Statement (.trim dest body) := by
  rintro _ d code b ⟨⟩
  rfl

theorem Messages.muteRemote (dest : Dest) (body : List Byte) :
    Messages.Statement (.muteRemote dest body) := by
  rintro _ d code b ⟨⟩
  rfl

theorem Messages.channelQuery (dest : Dest) (body : List Byte) :
    Messages.Statement (.channelQuery dest body) := by
  rintro _ d code b ⟨⟩
  rfl

theorem Messages.level (dest : Dest) (body : List Byte) :
    Messages.Statement (.level dest body) := by
  rintro _ d code b ⟨⟩
  rfl

theorem Messages.cuePut (dest : Dest) (body : List Byte) :
    Messages.Statement (.cuePut dest body) := by
  rintro _ d code b ⟨⟩
  rfl

theorem Messages.movesAdd (dest : Dest) (body : List Byte) :
    Messages.Statement (.movesAdd dest body) := by
  rintro _ d code b ⟨⟩
  rfl

theorem Messages.cueDelete (dest : Dest) (body : List Byte) :
    Messages.Statement (.cueDelete dest body) := by
  rintro _ d code b ⟨⟩
  rfl

theorem Messages.listClear (dest : Dest) (body : List Byte) :
    Messages.Statement (.listClear dest body) := by
  rintro _ d code b ⟨⟩
  rfl

theorem Messages.cueQuery (dest : Dest) (body : List Byte) :
    Messages.Statement (.cueQuery dest body) := by
  rintro _ d code b ⟨⟩
  rfl

theorem Messages.movesQuery (dest : Dest) (body : List Byte) :
    Messages.Statement (.movesQuery dest body) := by
  rintro _ d code b ⟨⟩
  rfl

theorem Messages.listQuery (dest : Dest) (body : List Byte) :
    Messages.Statement (.listQuery dest body) := by
  rintro _ d code b ⟨⟩
  rfl

theorem Messages.showStart (dest : Dest) (body : List Byte) :
    Messages.Statement (.showStart dest body) := by
  rintro _ d code b ⟨⟩
  rfl

theorem Messages.showEnd (dest : Dest) (body : List Byte) :
    Messages.Statement (.showEnd dest body) := by
  rintro _ d code b ⟨⟩
  rfl

theorem Messages.go (dest : Dest) (body : List Byte) : Messages.Statement (.go dest body) := by
  rintro _ d code b ⟨⟩
  rfl

theorem Messages.back (dest : Dest) (body : List Byte) : Messages.Statement (.back dest body) := by
  rintro _ d code b ⟨⟩
  rfl

theorem Messages.hold (dest : Dest) (body : List Byte) : Messages.Statement (.hold dest body) := by
  rintro _ d code b ⟨⟩
  rfl

theorem Messages.resume (dest : Dest) (body : List Byte) :
    Messages.Statement (.resume dest body) := by
  rintro _ d code b ⟨⟩
  rfl

theorem Messages.stop (dest : Dest) (body : List Byte) : Messages.Statement (.stop dest body) := by
  rintro _ d code b ⟨⟩
  rfl

theorem Messages.safe (dest : Dest) (body : List Byte) : Messages.Statement (.safe dest body) := by
  rintro _ d code b ⟨⟩
  rfl

theorem Messages.safeRelease (dest : Dest) (body : List Byte) :
    Messages.Statement (.safeRelease dest body) := by
  rintro _ d code b ⟨⟩
  rfl

theorem Messages.gotoCue (dest : Dest) (body : List Byte) :
    Messages.Statement (.gotoCue dest body) := by
  rintro _ d code b ⟨⟩
  rfl

theorem Messages.noticesRead (dest : Dest) (body : List Byte) :
    Messages.Statement (.noticesRead dest body) := by
  rintro _ d code b ⟨⟩
  rfl

theorem Messages.showQuery (dest : Dest) (body : List Byte) :
    Messages.Statement (.showQuery dest body) := by
  rintro _ d code b ⟨⟩
  rfl

theorem Messages.clockSetup (dest : Dest) (body : List Byte) :
    Messages.Statement (.clockSetup dest body) := by
  rintro _ d code b ⟨⟩
  rfl

theorem Messages.clockQuery (dest : Dest) (body : List Byte) :
    Messages.Statement (.clockQuery dest body) := by
  rintro _ d code b ⟨⟩
  rfl

theorem Messages.surfaceSetup (dest : Dest) (body : List Byte) :
    Messages.Statement (.surfaceSetup dest body) := by
  rintro _ d code b ⟨⟩
  rfl

theorem Messages.bankPut (dest : Dest) (body : List Byte) :
    Messages.Statement (.bankPut dest body) := by
  rintro _ d code b ⟨⟩
  rfl

theorem Messages.bankSelect (dest : Dest) (body : List Byte) :
    Messages.Statement (.bankSelect dest body) := by
  rintro _ d code b ⟨⟩
  rfl

theorem Messages.surfaceQuery (dest : Dest) (body : List Byte) :
    Messages.Statement (.surfaceQuery dest body) := by
  rintro _ d code b ⟨⟩
  rfl

theorem Messages.contactSetup (dest : Dest) (body : List Byte) :
    Messages.Statement (.contactSetup dest body) := by
  rintro _ d code b ⟨⟩
  rfl

theorem Messages.contactQuery (dest : Dest) (body : List Byte) :
    Messages.Statement (.contactQuery dest body) := by
  rintro _ d code b ⟨⟩
  rfl

theorem Messages.outputSetup (dest : Dest) (body : List Byte) :
    Messages.Statement (.outputSetup dest body) := by
  rintro _ d code b ⟨⟩
  rfl

theorem Messages.routePut (dest : Dest) (body : List Byte) :
    Messages.Statement (.routePut dest body) := by
  rintro _ d code b ⟨⟩
  rfl

theorem Messages.routeQuery (dest : Dest) (body : List Byte) :
    Messages.Statement (.routeQuery dest body) := by
  rintro _ d code b ⟨⟩
  rfl

theorem Messages.outputQuery (dest : Dest) (body : List Byte) :
    Messages.Statement (.outputQuery dest body) := by
  rintro _ d code b ⟨⟩
  rfl

theorem Messages.unknownType (dest : Dest) (code : Byte) (body : List Byte) :
    Messages.Statement (.unknownType dest code body) := by
  rintro h d c b ⟨⟩
  simp only [Instr.wellFormed, Instr.codeFits, Bool.and_eq_true, Bool.not_eq_true'] at h
  exact requestOf_unknown h.1 _ _

theorem Messages.requestOverrun : Messages.Statement (.requestOverrun) := by
  rintro _ d code b ⟨⟩

theorem Messages.linkFramingFault : Messages.Statement (.linkFramingFault) := by
  rintro _ d code b ⟨⟩

theorem Messages.linkGapFault : Messages.Statement (.linkGapFault) := by
  rintro _ d code b ⟨⟩

theorem Messages.linkFormFault (how : FormFault) : Messages.Statement (.linkFormFault how) := by
  rintro _ d code b ⟨⟩

theorem Messages.linkCheckFault : Messages.Statement (.linkCheckFault) := by
  rintro _ d code b ⟨⟩

theorem Messages.replySend : Messages.Statement (.replySend) := by
  rintro _ d code b ⟨⟩

theorem Messages.replyEnd : Messages.Statement (.replyEnd) := by
  rintro _ d code b ⟨⟩

theorem Messages.linkSilence : Messages.Statement (.linkSilence) := by
  rintro _ d code b ⟨⟩

theorem Messages.restartWindowLapse : Messages.Statement (.restartWindowLapse) := by
  rintro _ d code b ⟨⟩

theorem Messages.powerOn (straps : BitVec 5) : Messages.Statement (.powerOn straps) := by
  rintro _ d code b ⟨⟩

theorem Messages.resetPin (straps : BitVec 5) : Messages.Statement (.resetPin straps) := by
  rintro _ d code b ⟨⟩

theorem Messages.resetPinRelease : Messages.Statement (.resetPinRelease) := by
  rintro _ d code b ⟨⟩

theorem Messages.timeMark (song : Byte) (position : BitVec 32) (flags : Byte) (check : Byte) :
    Messages.Statement (.timeMark song position flags check) := by
  rintro _ d code b ⟨⟩

theorem Messages.markFramingFault : Messages.Statement (.markFramingFault) := by
  rintro _ d code b ⟨⟩

theorem Messages.markGapFault : Messages.Statement (.markGapFault) := by
  rintro _ d code b ⟨⟩

theorem Messages.markTimeout : Messages.Statement (.markTimeout) := by
  rintro _ d code b ⟨⟩

theorem Messages.freewheelLimit : Messages.Statement (.freewheelLimit) := by
  rintro _ d code b ⟨⟩

theorem Messages.clockAdvance : Messages.Statement (.clockAdvance) := by
  rintro _ d code b ⟨⟩

theorem Messages.waitExpiry : Messages.Statement (.waitExpiry) := by
  rintro _ d code b ⟨⟩

theorem Messages.gotoComplete : Messages.Statement (.gotoComplete) := by
  rintro _ d code b ⟨⟩

theorem Messages.moveStart (channel : Chan) : Messages.Statement (.moveStart channel) := by
  rintro _ d code b ⟨⟩

theorem Messages.moveComplete (channel : Chan) : Messages.Statement (.moveComplete channel) := by
  rintro _ d code b ⟨⟩

theorem Messages.passEnd (readings : Tab 16 (BitVec 10)) :
    Messages.Statement (.passEnd readings) := by
  rintro _ d code b ⟨⟩

theorem Messages.qualifiedTouch (slot : Slot) : Messages.Statement (.qualifiedTouch slot) := by
  rintro _ d code b ⟨⟩

theorem Messages.qualifiedRelease (slot : Slot) : Messages.Statement (.qualifiedRelease slot) := by
  rintro _ d code b ⟨⟩

theorem Messages.keyPress (slot : Slot) : Messages.Statement (.keyPress slot) := by
  rintro _ d code b ⟨⟩

theorem Messages.keyRelease (slot : Slot) : Messages.Statement (.keyRelease slot) := by
  rintro _ d code b ⟨⟩

theorem Messages.contactGoPress : Messages.Statement (.contactGoPress) := by
  rintro _ d code b ⟨⟩

theorem Messages.contactBackPress : Messages.Statement (.contactBackPress) := by
  rintro _ d code b ⟨⟩

theorem Messages.contactHoldPress : Messages.Statement (.contactHoldPress) := by
  rintro _ d code b ⟨⟩

theorem Messages.contactSafePress : Messages.Statement (.contactSafePress) := by
  rintro _ d code b ⟨⟩

theorem Messages.contactRelease (line : ContactLine) :
    Messages.Statement (.contactRelease line) := by
  rintro _ d code b ⟨⟩

theorem Messages.frameEvent : Messages.Statement (.frameEvent) := by
  rintro _ d code b ⟨⟩

theorem Messages.sendEnd (line : OutLine) : Messages.Statement (.sendEnd line) := by
  rintro _ d code b ⟨⟩

theorem Messages.trafficForOtherParts : Messages.Statement (.trafficForOtherParts) := by
  rintro _ d code b ⟨⟩

end Sys2Proof.Laws
end

