-- ==== Sys2Proof/Laws/Samples.lean ====
section
/-!
SUPPORT. What one sample of the touch lines, keys and contact lines can do, said once (R132, R138 to
R141, R143, R149 to R153).
-/

namespace Sys2Proof.Machine

/-! ### The frame of a sample -/

/-- What the acts of a sample leave as it was: everything but the show, the channels' running state, the
states and mappings of the faders, the count of ignored presses, the clock point and the event flags. -/
structure State.SampleFrame (s t : State) : Prop where
  cues : t.cues = s.cues
  link : t.link = s.link
  output : t.output = s.output
  restart : t.restart = s.restart
  resetLow : t.resetLow = s.resetLow
  pending : t.pending = s.pending
  clock : t.clock = { s.clock with point := t.clock.point }
  events : t.events = { s.events with flags := t.events.flags }
  surface : t.surface = { s.surface with faders := t.surface.faders }
  contacts : t.contacts = { s.contacts with ignored := t.contacts.ignored }
  cfg : ∀ c, (t.chan c).cfg = (s.chan c).cfg

theorem State.SampleFrame.refl (s : State) : s.SampleFrame s := by
  constructor <;> intros <;> rfl

theorem State.SampleFrame.trans {s t u : State} (h : s.SampleFrame t) (k : t.SampleFrame u) :
    s.SampleFrame u := by
  constructor
  case clock => rw [k.clock, h.clock]
  case events => rw [k.events, h.events]
  case surface => rw [k.surface, h.surface]
  case contacts => rw [k.contacts, h.contacts]
  case cfg => intro c; rw [k.cfg, h.cfg]
  all_goals simp [k.1, k.2, k.3, k.4, k.5, k.6, h.1, h.2, h.3, h.4, h.5, h.6]

/-- An operation on the show alone keeps the frame of a sample. -/
theorem State.PlayFrame.sample {s t : State} (h : s.PlayFrame t) : s.SampleFrame t where
  cues := h.cues
  link := h.link
  output := h.output
  restart := h.restart
  resetLow := h.resetLow
  pending := h.pending
  clock := h.clock
  events := h.events
  surface := by rw [h.surface]
  contacts := by rw [h.contacts]
  cfg := fun c => by rw [h.chan c]

theorem State.SampleFrame.setFader (s : State) (f : Slot) (d : Fader) : s.SampleFrame (s.setFader f d) := by
  constructor <;> intros <;> rfl

theorem State.SampleFrame.raise (s : State) (e : Event) : s.SampleFrame (s.raise e) := by
  constructor <;> intros <;> rfl

theorem State.SampleFrame.setChan (s : State) (c : Chan) (r : Channel) (h : r.cfg = (s.chan c).cfg) :
    s.SampleFrame (s.setChan c r) := by
  constructor
  case cfg =>
    intro d
    rw [State.setChan_chan]
    split
    · rename_i e
      subst e
      exact h
    · rfl
  all_goals rfl

theorem State.SampleFrame.takeTouch (s : State) (f : Slot) : s.SampleFrame (s.takeTouch f) := by
  unfold State.takeTouch
  split
  · exact SampleFrame.refl s
  · split
    · exact (SampleFrame.setFader s f _).trans (SampleFrame.raise _ _)
    · exact (SampleFrame.setFader s f _).trans (SampleFrame.setChan _ _ _ rfl)
    · exact (SampleFrame.setFader s f _).trans (SampleFrame.setChan _ _ _ rfl)

theorem State.SampleFrame.handBack (s : State) (c : Chan) (h : Int) :
    s.SampleFrame (s.handBack c h) := by
  unfold State.handBack
  split
  · exact SampleFrame.setChan s c _ rfl
  · exact ((ShowFrame.reportActive s c).play.sample).trans (SampleFrame.setChan _ c _ rfl)

theorem State.SampleFrame.remap (s : State) (f : Slot) : s.SampleFrame (s.remap f) := by
  unfold State.remap
  split
  · exact SampleFrame.refl s
  · exact (SampleFrame.setFader s f _).trans (SampleFrame.raise _ _)

theorem State.SampleFrame.releaseFader (s : State) (f : Slot) : s.SampleFrame (s.releaseFader f) := by
  unfold State.releaseFader
  split
  · exact SampleFrame.refl s
  · exact (SampleFrame.setFader s f _).trans (SampleFrame.remap _ f)
  · dsimp only
    split
    · exact (SampleFrame.setFader s f _).trans (SampleFrame.remap _ f)
    · exact ((SampleFrame.setFader s f _).trans (SampleFrame.handBack _ _ _)).trans
        (SampleFrame.remap _ f)

theorem State.SampleFrame.handOn (s : State) (f : Slot) : s.SampleFrame (s.handOn f) := by
  unfold State.handOn
  split
  · exact SampleFrame.takeTouch s f
  · exact SampleFrame.refl s

theorem State.SampleFrame.handOff (s : State) (f : Slot) : s.SampleFrame (s.handOff f) := by
  unfold State.handOff
  split
  · exact (SampleFrame.releaseFader s f).trans (ShowFrame.settledFrom _ s).play.sample
  · exact SampleFrame.refl s

theorem State.SampleFrame.touchActs (s : State) (f : Slot) (old : Bool) :
    s.SampleFrame (s.touchActs f old) := by
  unfold State.touchActs
  split
  · exact SampleFrame.handOn s f
  · exact SampleFrame.handOff s f
  · exact SampleFrame.refl s
  · exact SampleFrame.refl s

theorem State.SampleFrame.keyActs (s : State) (f : Slot) (old : Bool) :
    s.SampleFrame (s.keyActs f old) := by
  unfold State.keyActs State.keyOn State.toggleOperator
  repeat' split
  all_goals first | exact SampleFrame.refl s | exact SampleFrame.setChan s _ _ rfl

/-- What a GO or BACK press leaves when it has been judged. -/
theorem State.judgedPress_frame (s : State) (r : Result) : s.SampleFrame (s.judgedPress r) := by
  unfold State.judgedPress
  split
  · exact SampleFrame.refl s
  · constructor <;> intros <;> rfl

theorem State.SampleFrame.contactRequest (s : State) (l : ContactLine) :
    s.SampleFrame (s.contactRequest l) := by
  cases l
  · exact (PlayFrame.go s .goContact 0).sample.trans (State.judgedPress_frame _ _)
  · exact (PlayFrame.back s).sample.trans (State.judgedPress_frame _ _)
  · exact (PlayFrame.holdShow s).sample
  · exact (PlayFrame.enterSafe s).sample

theorem State.SampleFrame.contactActs (s : State) (l : ContactLine) (old : Bool) :
    s.SampleFrame (s.contactActs l old) := by
  unfold State.contactActs
  split
  · exact SampleFrame.contactRequest s l
  · exact SampleFrame.refl s

theorem State.SampleFrame.foldl {α : Type} (f : State → α → State)
    (h : ∀ (t : State) (a : α), t.SampleFrame (f t a)) (l : List α) (s : State) :
    s.SampleFrame (l.foldl f s) := by
  induction l generalizing s with
  | nil => exact SampleFrame.refl s
  | cons a l ih => exact (h s a).trans (ih _)

/-- The touch lines' part of a sample, after which the keys' part and then the contacts' part follow. -/
def State.touched (s : State) (x : Pins) : State :=
  allSlots.foldl (fun t f => t.touchActs f (s.surface.touch.get f).qualified) (s.sampled x)

/-- The keys' part of a sample. -/
def State.keyed (s : State) (x : Pins) : State :=
  allSlots.foldl (fun t f => t.keyActs f (s.surface.keys.get f).qualified) (s.touched x)

theorem State.sampleAll_eq (s : State) (x : Pins) : s.sampleAll x =
    allContacts.foldl (fun t l => t.contactActs l (s.contact l).qualified) (s.keyed x) := rfl

theorem State.touched_frame (s : State) (x : Pins) : (s.sampled x).SampleFrame (s.touched x) :=
  State.SampleFrame.foldl _ (fun t f => State.SampleFrame.touchActs t f _) _ _

theorem State.keyed_frame (s : State) (x : Pins) : (s.touched x).SampleFrame (s.keyed x) :=
  State.SampleFrame.foldl _ (fun t f => State.SampleFrame.keyActs t f _) _ _

theorem State.sampleAll_frame (s : State) (x : Pins) : (s.sampled x).SampleFrame (s.sampleAll x) :=
  ((s.touched_frame x).trans (s.keyed_frame x)).trans
    (State.SampleFrame.foldl _ (fun t l => State.SampleFrame.contactActs t l _) _ _)

/-! ### Lines that do not change -/

/-- A fold in which every step does nothing does nothing. -/
theorem foldl_still {α : Type} (P : State → Prop) (f : State → α → State) (l : List α)
    (h : ∀ a ∈ l, ∀ t, P t → f t a = t) (s : State) (hs : P s) : l.foldl f s = s := by
  induction l with
  | nil => rfl
  | cons a l ih =>
    rw [List.foldl_cons, h a List.mem_cons_self s hs]
    exact ih fun b hb => h b (List.mem_cons_of_mem _ hb)

/-- A fold in which one step alone does something does that. -/
theorem foldl_alone {α : Type} (P : State → Prop) (f : State → α → State) (l : List α) (a : α)
    (hl : l.Nodup) (ha : a ∈ l) (hP : ∀ t, P t → P (f t a))
    (h : ∀ b ∈ l, b ≠ a → ∀ t, P t → f t b = t) (s : State) (hs : P s) : l.foldl f s = f s a := by
  induction l with
  | nil => cases ha
  | cons b l ih =>
    rw [List.nodup_cons] at hl
    rw [List.foldl_cons]
    by_cases e : b = a
    · subst e
      exact foldl_still P f l (fun c hc => h c (List.mem_cons_of_mem _ hc)
        (by rintro rfl; exact hl.1 hc)) _ (hP s hs)
    · rw [h b List.mem_cons_self e s hs]
      exact ih hl.2 ((List.mem_cons.mp ha).resolve_left (Ne.symm e))
        fun c hc => h c (List.mem_cons_of_mem _ hc)

theorem mem_allSlots (f : Slot) : f ∈ allSlots := List.mem_finRange f

theorem allSlots_nodup : allSlots.Nodup := List.nodup_finRange 16

/-- The qualified state of a line after a sample (R132). -/
theorem TouchLine.sample_qualified (l : TouchLine) (q : Nat) (v : Bool) :
    (l.sample q v).qualified =
      if (v != l.qualified) && decide (q ≤ l.count + 1) then v else l.qualified := by
  unfold TouchLine.sample
  split
  · rename_i e; simp [e]
  · rename_i e
    split <;> rename_i k
    · simp [e, k]
    · simp [k]

/-- The qualified state of a contact line after a sample (R149). -/
theorem Contact.sample_qualified (l : Contact) (q : Nat) (p : Polarity) (v : Bool) :
    (l.sample q p v).qualified =
      if (p.active v != l.qualified) && decide (q ≤ l.count + 1) then p.active v else l.qualified := by
  unfold Contact.sample
  split
  · rename_i e; simp [e]
  · rename_i e
    split <;> rename_i k
    · simp [e, k]
    · simp [k]

/-- A state that has sampled these pins: its lines stand as the sample left them. -/
def State.SampledFrom (s : State) (x : Pins) (t : State) : Prop :=
  t.surface.touch = (s.sampled x).surface.touch ∧ t.surface.keys = (s.sampled x).surface.keys ∧
    t.contacts.lines = (s.sampled x).contacts.lines

theorem State.SampleFrame.sampledFrom {s t : State} {x : Pins} (h : (s.sampled x).SampleFrame t) :
    s.SampledFrom x t := by
  refine ⟨?_, ?_, ?_⟩
  · rw [h.surface]
  · rw [h.surface]
  · rw [h.contacts]

/-- A touch line that keeps its qualified state does nothing. -/
theorem State.touchActs_rest {s t : State} {x : Pins} (h : s.SampledFrom x t) (f : Slot)
    (hf : (x.touch.get f != (s.surface.touch.get f).qualified &&
      decide (s.surface.cfg.qualify ≤ (s.surface.touch.get f).count + 1)) = false) :
    t.touchActs f (s.surface.touch.get f).qualified = t := by
  have : (t.surface.touch.get f).qualified = (s.surface.touch.get f).qualified := by
    rw [h.1]
    show TouchLine.qualified ((Tab.build 16 _).get f) = _
    rw [Tab.get_build, TouchLine.sample_qualified, hf]
    rfl
  unfold State.touchActs
  rw [this]
  cases (s.surface.touch.get f).qualified <;> rfl

/-- A key that keeps its qualified state does nothing. -/
theorem State.keyActs_rest {s t : State} {x : Pins} (h : s.SampledFrom x t) (f : Slot)
    (hf : (x.keys.get f != (s.surface.keys.get f).qualified &&
      decide (s.surface.cfg.qualify ≤ (s.surface.keys.get f).count + 1)) = false) :
    t.keyActs f (s.surface.keys.get f).qualified = t := by
  have : (t.surface.keys.get f).qualified = (s.surface.keys.get f).qualified := by
    rw [h.2.1]
    show TouchLine.qualified ((Tab.build 16 _).get f) = _
    rw [Tab.get_build, TouchLine.sample_qualified, hf]
    rfl
  unfold State.keyActs
  rw [this]
  cases (s.surface.keys.get f).qualified <;> rfl

/-- A contact line that keeps its qualified state does nothing. -/
theorem State.contactActs_rest {s t : State} {x : Pins} (h : s.SampledFrom x t) (l : ContactLine)
    (hl : ((s.polarity l).active (x.contacts.get l.index) != (s.contact l).qualified &&
      decide (s.contacts.cfg.qualify ≤ (s.contact l).count + 1)) = false) :
    t.contactActs l (s.contact l).qualified = t := by
  have : (t.contact l).qualified = (s.contact l).qualified := by
    unfold State.contact at hl ⊢
    rw [h.2.2]
    show Contact.qualified ((Tab.build 4 _).get l.index) = _
    rw [Tab.get_build, Contact.sample_qualified]
    unfold State.polarity at hl
    rw [hl]
    rfl
  unfold State.contactActs
  rw [this]
  cases (s.contact l).qualified <;> rfl

end Sys2Proof.Machine
end

