-- ==== Sys2Proof/Laws/Raises.lean ====
section
/-!
SUPPORT. A raised event stays raised until EVENTS_READ clears it: no operation on the show, and no act of
a sample, clears a flag (R187).
-/

namespace Sys2Proof.Machine

/-- Every event raised before is raised after. -/
def State.Keeps (s t : State) : Prop := ∀ e, s.flagged e = true → t.flagged e = true

theorem State.Keeps.refl (s : State) : s.Keeps s := fun _ h => h

theorem State.Keeps.trans {s t u : State} (h : s.Keeps t) (k : t.Keeps u) : s.Keeps u :=
  fun e p => k e (h e p)

theorem State.Keeps.raise (s : State) (e : Event) : s.Keeps (s.raise e) := by
  intro d h
  rw [State.raise_flagged, h]
  rfl

theorem State.raise_raised (s : State) (e : Event) : (s.raise e).Raised e := by
  unfold State.Raised
  rw [State.raise_flagged]
  simp

theorem State.Keeps.setSeq (s : State) (x : Sequencer) : s.Keeps (s.setSeq x) := fun _ h => h

theorem State.Keeps.setArm (s : State) (a : Arm) : s.Keeps (s.setArm a) := fun _ h => h

theorem State.Keeps.setChannels (s : State) (x : Tab 56 Channel) : s.Keeps (s.setChannels x) :=
  fun _ h => h

theorem State.Keeps.setContacts (s : State) (x : Contacts) : s.Keeps (s.setContacts x) := fun _ h => h

theorem State.Quiet.keeps {s t : State} (h : s.Quiet t) : s.Keeps t := h.flags

theorem State.Keeps.foldl {α : Type} (f : State → α → State)
    (h : ∀ (t : State) (a : α), t.Keeps (f t a)) (l : List α) (s : State) : s.Keeps (l.foldl f s) := by
  induction l generalizing s with
  | nil => exact Keeps.refl s
  | cons a l ih => exact (h s a).trans (ih _)

theorem State.Keeps.fire (s : State) (cause : Cause) : s.Keeps (s.fire cause) := by
  unfold State.fire
  split
  · exact Keeps.refl s
  · refine State.Keeps.trans ?_ (State.Quiet.foldl _ (fun t c => State.Quiet.startOwn t _ c) _ _).keeps
    unfold State.fireSteps
    dsimp only
    have hr : s.Keeps s.makeRoom := by
      unfold State.makeRoom
      dsimp only
      split
      · exact Keeps.setArm s _
      · exact (Keeps.setArm s _).trans (State.Quiet.retireOldest _).keeps
    rename_i cue _
    have ha : ∀ t : State, t.Keeps
        (((t.enterFiring cue cause).placeFiring cue t.seq.nextId).announce cue t.seq.nextId cause) := by
      intro t
      have he : t.Keeps (t.enterFiring cue cause) := Keeps.setSeq t _
      refine (he.trans (State.Quiet.placeFiring _ cue t.seq.nextId).keeps).trans ?_
      unfold State.announce
      dsimp only
      exact ((Keeps.setSeq _ _).trans (State.Quiet.notify _ _).keeps).trans (Keeps.raise _ _)
    generalize s.makeRoom = r at hr
    have hb := (hr.trans (ha r)).trans (Keeps.setArm _ ((((r.enterFiring cue cause).placeFiring cue
      r.seq.nextId).announce cue r.seq.nextId cause).firingArm r.seq.nextId))
    split
    · exact hb.trans (State.Quiet.completeFiring _ _).keeps
    · exact hb

theorem State.Keeps.settle (n : Nat) (s : State) : s.Keeps (State.settle n s) := by
  induction n generalizing s with
  | zero => exact Keeps.refl s
  | succ n ih =>
    unfold State.settle
    split
    · exact (Keeps.fire s _).trans (ih _)
    · exact Keeps.refl s

theorem State.Keeps.settled (s : State) : s.Keeps s.settled := Keeps.settle _ s

theorem State.Keeps.settledFrom (s u : State) : s.Keeps (s.settledFrom u) := by
  unfold State.settledFrom
  split
  · exact Keeps.refl s
  · exact Keeps.settled s

theorem State.Keeps.fireChain (s : State) (cause : Cause) : s.Keeps (s.fireChain cause) :=
  (Keeps.fire s cause).trans (Keeps.settled _)

theorem State.Keeps.setShow (s : State) (st : ShowState) : s.Keeps (s.setShow st) := by
  unfold State.setShow
  split
  · exact Keeps.refl s
  · exact (Keeps.setSeq s _).trans (Keeps.raise _ _)

theorem State.Keeps.clearShow (s : State) : s.Keeps s.clearShow := by
  unfold State.clearShow
  dsimp only
  exact (((Keeps.setChannels s _).trans
    (State.Quiet.foldl _ (fun t f => State.Quiet.notify t _) _ _).keeps).trans
      (Keeps.setSeq _ _)).trans (Keeps.setArm _ _)

theorem State.Keeps.holdShow (s : State) : s.Keeps s.holdShow := by
  unfold State.holdShow
  split
  · exact Keeps.setShow s _
  · exact Keeps.refl s

theorem State.Keeps.enterSafe (s : State) : s.Keeps s.enterSafe := by
  unfold State.enterSafe
  split
  · exact Keeps.refl s
  · dsimp only
    exact ((Keeps.setSeq s _).trans (Keeps.setShow _ _)).trans (Keeps.clearShow _)

theorem State.Keeps.resumeShow (s : State) : s.Keeps s.resumeShow := by
  unfold State.resumeShow
  dsimp only
  refine State.Keeps.trans ?_ (Keeps.settled _)
  split
  · exact (Keeps.setShow s _).trans (Keeps.setArm _ _)
  · exact Keeps.setShow s _

theorem State.Keeps.apply (s : State) (a : Act) : s.Keeps (s.apply a) := by
  cases a
  · exact Keeps.refl s
  · exact Keeps.holdShow s
  · exact Keeps.enterSafe s

theorem State.Keeps.raiseWithAct (s : State) (e : Event) : s.Keeps (s.raiseWithAct e) :=
  (Keeps.raise s e).trans (Keeps.apply _ _)

theorem State.raiseWithAct_raised (s : State) (e : Event) : (s.raiseWithAct e).Raised e :=
  Keeps.apply _ _ e (s.raise_raised e)

theorem State.Keeps.takeCrossing (s : State) : s.Keeps s.takeCrossing := by
  unfold State.takeCrossing
  split
  · exact (Keeps.fireChain s .clock).trans (Keeps.setSeq _ _)
  · exact Keeps.refl s

theorem State.Keeps.go (s : State) (cause : Cause) (n : Nat) : s.Keeps (s.go cause n).state := by
  unfold State.go
  split
  · exact Keeps.refl s
  · split
    · exact Keeps.refl s
    · exact Keeps.refl s
    · split
      · have := (Keeps.setSeq s { s.seq with gateTime := 0 }).trans (Keeps.resumeShow _)
        exact this
      · exact Keeps.refl s
    · split
      · split
        · exact Keeps.raise s _
        · split
          · exact Keeps.refl s
          · have := (Keeps.setSeq s { s.seq with gateTime := 0 }).trans (Keeps.fireChain _ cause)
            exact this
      · exact Keeps.refl s

theorem State.Keeps.back (s : State) : s.Keeps s.back.1 := by
  unfold State.back
  repeat' split
  all_goals first | exact Keeps.refl s | exact Keeps.raise s _

theorem State.Keeps.judgedPress (s : State) (r : Result) : s.Keeps (s.judgedPress r) := by
  unfold State.judgedPress
  split
  · exact Keeps.refl s
  · exact (Keeps.setContacts s _).trans (Keeps.raise _ _)

theorem State.Keeps.contactRequest (s : State) (l : ContactLine) : s.Keeps (s.contactRequest l) := by
  cases l
  · exact (Keeps.go s .goContact 0).trans (Keeps.judgedPress _ _)
  · exact (Keeps.back s).trans (Keeps.judgedPress _ _)
  · exact Keeps.holdShow s
  · exact Keeps.enterSafe s

theorem State.Keeps.contactActs (s : State) (l : ContactLine) (old : Bool) :
    s.Keeps (s.contactActs l old) := by
  unfold State.contactActs
  split
  · exact Keeps.contactRequest s l
  · exact Keeps.refl s

end Sys2Proof.Machine
end

