-- ==== Sys2Proof/Laws/Reports.lean ====
section
/-!
SUPPORT. Every reply layout of the part is the fields that the spec lists for it, in their order and widths
(R12 to R18, R57 to R59, R87, R88, R128, R147, R156, R164, R171, R185, R194, R196, R197).
-/

namespace Sys2Proof.Machine

/-! ### Fields -/

theorem fieldBytes_nat (n v : Nat) : fieldBytes n (v : Int) = bytesOf n v := by
  have hb : ∀ k : Nat, BitVec.ofInt 8 ((v : Int) / 256 ^ k) = BitVec.ofNat 8 (v / 256 ^ k) := by
    intro k
    rw [show ((v : Int) / 256 ^ k) = ((v / 256 ^ k : Nat) : Int) by push_cast; rfl]
    exact BitVec.ofInt_natCast _ _
  induction n with
  | zero => rfl
  | succ n ih =>
    rw [bytesOf, ← ih]
    unfold fieldBytes
    rw [List.range_succ_eq_map, List.map_cons, List.map_map]
    simp only [hb]
    refine congrArg₂ List.cons (by simp) (List.map_congr_left fun i _ => ?_)
    simp only [Function.comp_apply]
    congr 3
    omega

theorem fieldBytes_byte (v : Nat) : fieldBytes 1 (v : Int) = [byte v] := by
  simp [fieldBytes_nat, bytesOf, byte]

theorem fieldBytes_code (b : Byte) : fieldBytes 1 (b.toNat : Int) = [b] := by
  simp [fieldBytes_byte, byte]

@[simp] theorem byte_toNat (b : Byte) : byte b.toNat = b := by simp [byte]

@[simp] theorem byte_flag (b : Bool) : byte b.toNat = flag b := by cases b <;> rfl

theorem fieldBytes_flag (b : Bool) : fieldBytes 1 (b.toNat : Int) = [flag b] := by
  cases b <;> rfl

theorem fieldBytes_int2 (v : Int) : fieldBytes 2 v = int2 v := by
  simp only [fieldBytes, int2, bytesOf, List.range, List.range.loop, List.map_cons, List.map_nil]
  congr 1
  · apply BitVec.eq_of_toNat_eq
    simp
    omega
  · congr 1
    apply BitVec.eq_of_toNat_eq
    simp
    omega

theorem fields_append (a b : Layout) : fields (a ++ b) = fields a ++ fields b := List.flatMap_append

theorem fields_cons (n : Nat) (v : Int) (l : Layout) :
    fields ((n, v) :: l) = fieldBytes n v ++ fields l := rfl

theorem fields_flatMap {α : Type} (l : List α) (f : α → Layout) :
    fields (l.flatMap f) = l.flatMap fun a => fields (f a) := List.flatMap_assoc

theorem fields_nil : fields [] = [] := rfl

theorem fields_map {α : Type} (l : List α) (f : α → Nat × Int) :
    fields (l.map f) = l.flatMap fun a => fieldBytes (f a).1 (f a).2 := by
  simp [fields, List.flatMap_map]

/-! ### Parts that several replies share -/

theorem chanField_eq (c : Option Chan) : fields [channelField c] = [chanField c] := by
  cases c with
  | none => rfl
  | some k => exact fieldBytes_byte (k.val + 1)

theorem cueField_eq (n : Option Nat) : fields [(2, n.getD 0)] = cueField n := by
  simp [fields_cons, fields_nil, fieldBytes_nat, cueField]

theorem ownerField_eq (o : Option Owner) : fields (ownerFields o) = ownerField o := by
  rcases o with _ | (_ | _ | _)
  · rfl
  · rename_i id _
    have e : fieldBytes 2 (id : Int) = bytesOf 2 id := fieldBytes_nat 2 id
    simp only [ownerFields, ownerField, fields_cons, fields_nil, e, List.append_nil]
    rfl
  · rfl
  · rfl

theorem configBytes_eq (k : ChannelConfig) : fields k.fields = configBytes k := by
  have e (v : Nat) : fieldBytes 1 ((v : Int) + 1) = [byte (v + 1)] := fieldBytes_byte (v + 1)
  have z : fieldBytes 1 (0 : Int) = [0] := rfl
  obtain ⟨_ | g, base, trim, ramp, release, time⟩ := k <;>
    simp [ChannelConfig.fields, configBytes, fields_cons, fields_nil, e, z, fieldBytes_int2,
      fieldBytes_nat 2, fieldBytes_byte]

theorem clockSettings_eq (k : ClockConfig) : fields k.fields = clockSettings k := by
  simp [ClockConfig.fields, clockSettings, fields_cons, fields_nil, fieldBytes_byte, fieldBytes_nat 2]

theorem surfaceSettings_eq (k : SurfaceConfig) : fields k.fields = surfaceSettings k := by
  simp [SurfaceConfig.fields, surfaceSettings, fields_cons, fields_nil, fieldBytes_byte]

theorem contactSettings_eq (k : ContactConfig) : fields k.fields = contactSettings k := by
  have e : k.polarity.data = [k.polarity.get 0, k.polarity.get 1, k.polarity.get 2, k.polarity.get 3] :=
    k.polarity.data_eq_map_get
  simp [ContactConfig.fields, contactSettings, e, fields_cons, fields_nil, fieldBytes_byte,
    fieldBytes_nat 2]

theorem outputSettings_eq (k : OutputConfig) : fields k.fields = outputSettings k := by
  have e : k.dividers.data = [k.dividers.get 0, k.dividers.get 1, k.dividers.get 2, k.dividers.get 3] :=
    k.dividers.data_eq_map_get
  simp [OutputConfig.fields, outputSettings, e, fields_cons, fields_nil, fieldBytes_byte]

theorem eventSettings_eq (v : Events) : fields v.fields = eventSettings v := by
  have e : ((v.enables.toNat : Int) + 2 ^ 21 * (v.noticeEnable.toNat : Int)) =
      ((v.enables.toNat + if v.noticeEnable then 2097152 else 0 : Nat) : Int) := by
    cases v.noticeEnable <;> simp
  simp only [Events.fields, eventSettings, fields_cons, fields_nil, e, fieldBytes_nat 4, fieldBytes_code,
    List.append_nil, List.singleton_append]

theorem headerBytes_eq (q : Cue) : fields q.fields = headerBytes q := by
  have e : fieldBytes 1 0 = [0] := rfl
  simp [Cue.fields, headerBytes, fields_cons, fields_nil, fieldBytes_byte, fieldBytes_nat 2,
    fieldBytes_nat 3, e]

theorem moveBytes_eq (b : Timebase) (m : StoredMove) : fields (m.fields b) = moveBytes b m := by
  have e : fieldBytes 1 ((m.channel.val : Int) + 1) = [byte (m.channel.val + 1)] :=
    fieldBytes_byte (m.channel.val + 1)
  have e' : fieldBytes 1 ((m.action.code.toNat : Int) + 4 * m.curve.code.toNat + 32 * b.code.toNat) =
      [byte (m.action.code.toNat + 4 * m.curve.code.toNat + 32 * b.code.toNat)] := by
    have := fieldBytes_byte (m.action.code.toNat + 4 * m.curve.code.toNat + 32 * b.code.toNat)
    push_cast at this
    exact this
  simp [StoredMove.fields, moveBytes, fields_cons, fields_nil, e, e', fieldBytes_int2, fieldBytes_nat 3]

theorem noticeBytes_eq (n : Notice) : fields n.fields = noticeBytes n := by
  have e : fieldBytes 1 (n.cause.elim (0 : Int) fun c => c.code.toNat) = [causeField n.cause] := by
    cases n.cause with
    | none => rfl
    | some c => exact fieldBytes_code c.code
  simp [Notice.fields, noticeBytes, fields_cons, fields_nil, fieldBytes_code, fieldBytes_nat 2, e]

theorem bankBytes_eq (b : Bank) : fields (bankFields b) = bankBytes b := by
  have e (f : Slot) : fieldBytes (channelField (b.get f)).1 (channelField (b.get f)).2 =
      [chanField (b.get f)] := by
    have := chanField_eq (b.get f)
    simpa [fields] using this
  simp only [bankFields, bankBytes, fields_map, e, b.data_eq_map_get, List.map_map]
  exact List.map_eq_flatMap.symm

theorem routeBytes_eq (r : Option (GainNo × Fin 64)) : fields (routeFields r) = routeBytes r := by
  rcases r with _ | ⟨n, k⟩
  · rfl
  · have e (v : Nat) : fieldBytes 1 ((v : Int) + 1) = [byte (v + 1)] := fieldBytes_byte (v + 1)
    simp [routeFields, routeBytes, fields_cons, fields_nil, e]

/-! ### The reports -/

theorem linkReport_eq (s : State) : fields s.link.fields = linkReport s.heard := by
  have e (v : Nat) : fieldBytes 1 (if v = 0 then (0 : Int) else 1) =
      [(if v = 0 then Watchdog.off else .running).code] := by split <;> rfl
  have e' : fieldBytes 2 (0 : Int) = bytesOf 2 0 := rfl
  simp [Link.fields, linkReport, State.heard, fields_cons, fields_nil, fieldBytes_byte, fieldBytes_nat 2,
    e, e']

theorem restartReport_eq (s : State) : fields s.restart.fields = restartReport s := by
  simp [RestartRecord.fields, restartReport, fields_cons, fields_nil, fieldBytes_byte, fieldBytes_nat 2,
    cueField]

theorem moveSummary_eq (s : State) (c : Chan) :
    fields (s.moveFields (s.chan c).active) = moveSummary s c := by
  unfold moveSummary
  cases (s.chan c).active with
  | none => rfl
  | some m =>
    rw [State.moveFields, fields_append, ownerField_eq]
    simp only [fields_cons, fields_nil, fieldBytes_int2, fieldBytes_nat 3, fieldBytes_flag, List.append_nil,
      List.append_assoc]

theorem channelReport_eq (s : State) (c : Chan) : fields (s.channelFields c) = channelReport s c := by
  have e : (s.chan c).hand.level = handField (s.chan c).hand := by cases (s.chan c).hand <;> rfl
  unfold State.channelFields channelReport
  rw [fields_append, fields_append, moveSummary_eq, fields_append, configBytes_eq]
  simp [fields_cons, fields_nil, fieldBytes_byte, fieldBytes_int2, fieldBytes_nat 2, e]

theorem armBytes_eq (a : Arm) : fields a.fields = armBytes a := by
  have e1 : fieldBytes 1 (0 : Int) = [0] := rfl
  have e2 : fieldBytes 2 (0 : Int) = bytesOf 2 0 := rfl
  have e3 : fieldBytes 3 (0 : Int) = bytesOf 3 0 := rfl
  have c1 : fieldBytes 1 (1 : Int) = [1] := rfl
  have c2 : fieldBytes 1 (2 : Int) = [2] := rfl
  have c3 : fieldBytes 1 (3 : Int) = [3] := rfl
  cases a <;> simp only [Arm.fields, armBytes, Arm.code, fields_cons, fields_nil, e1, e2, e3, c1, c2, c3,
    fieldBytes_nat 2, fieldBytes_nat 3, fieldBytes_byte, List.append_nil, List.append_assoc]

theorem showReport_eq (s : State) : fields s.seq.fields = showReport s := by
  have ef (f : Firing) : fields f.fields = firingBytes f := by
    simp [Firing.fields, firingBytes, fields_cons, fields_nil, fieldBytes_byte, fieldBytes_nat 2]
  have es : fieldBytes 2 (s.seq.scan.elim (0 : Int) fun k => k.cue) = cueField (s.seq.scan.map Scan.cue) := by
    cases s.seq.scan with
    | none => rfl
    | some k => exact fieldBytes_nat 2 k.cue
  unfold Sequencer.fields showReport
  simp [fields_append, fields_flatMap, ef, armBytes_eq, fields_cons, fields_nil, fieldBytes_byte,
    fieldBytes_nat 2, es, cueField]

theorem clockReport_eq (s : State) : fields s.clock.fields = clockReport s := by
  have ep : fields (pointFields s.clock.point) = pointBytes s.clock.point := by
    have e1 : fieldBytes 1 (0 : Int) = [flag false] := rfl
    rcases s.clock.point with _ | ⟨song, x⟩
    · rfl
    · simp only [pointFields, pointBytes, fields_cons, fields_nil, e1, fieldBytes_byte, fieldBytes_nat 3,
        List.append_nil, List.append_assoc]
  unfold Clock.fields clockReport
  rw [fields_append, fields_append, ep, clockSettings_eq]
  simp [fields_cons, fields_nil, fieldBytes_byte, fieldBytes_nat 3, fieldBytes_nat 4]

theorem contactReport_eq (s : State) : fields s.contacts.fields = contactReport s := by
  unfold Contacts.fields contactReport
  simp [fields_append, fields_flatMap, fields_cons, fields_nil, fieldBytes_byte,
    fieldBytes_nat 2]

theorem slotReport_eq (s : State) (f : Slot) : fields (s.slotFields f) = slotReport s f := by
  have ep : fields (pendingFields (s.fader f).pending) = pendingBytes (s.fader f).pending := by
    cases (s.fader f).pending with
    | none => rfl
    | some m =>
      rw [pendingFields, ← List.singleton_append, fields_append, chanField_eq]
      rfl
  have ec : fields ([(2, (s.fader f).position), (1, (s.fader f).state.code.toNat),
      channelField (s.fader f).mapping] : Layout) =
      bytesOf 2 (s.fader f).position ++ [(s.fader f).state.code, chanField (s.fader f).mapping] := by
    rw [fields_cons, fields_cons, chanField_eq, fieldBytes_nat, fieldBytes_code]
    rfl
  unfold State.slotFields slotReport
  rw [fields_append, fields_append, ep, ec]
  simp [fields_cons, fields_nil, fieldBytes_flag]

theorem surfaceReport_eq (s : State) : fields s.surfaceFields =
    surfaceSettings s.surface.cfg ++ [byte (s.surface.activeBank.val + 1)] ++
      allSlots.flatMap (slotReport s) := by
  have e : fields ([(1, s.surface.activeBank.val + 1)] : Layout) =
      [byte (s.surface.activeBank.val + 1)] := fieldBytes_byte (s.surface.activeBank.val + 1)
  unfold State.surfaceFields
  rw [fields_append, fields_append, fields_flatMap, surfaceSettings_eq, e]
  simp only [slotReport_eq]
  rfl

theorem lineReport_eq (l : GainLine) : fields l.fields = lineReport l := by
  have f0 : fieldBytes 1 (0 : Int) = [flag false] := rfl
  have f1 : fieldBytes 1 (1 : Int) = [flag true] := rfl
  have z : fieldBytes 2 (0 : Int) = bytesOf 2 0 := rfl
  obtain ⟨_ | h, _ | f, late⟩ := l <;>
    simp [GainLine.fields, lineReport, fields_cons, fields_nil, fieldBytes_nat 2, z, f0, f1]

theorem outputReport_eq (s : State) : fields s.output.fields = outputReport s := by
  unfold Output.fields outputReport
  simp [fields_append, fields_flatMap, outputSettings_eq, fields_cons, fields_nil, fieldBytes_flag,
    fieldBytes_nat 2, lineReport_eq, s.output.lines.data_eq_map_get, List.flatMap_map]

end Sys2Proof.Machine
end

