-- ==== Sys2Proof/Laws/Requests.lean ====
section
/-!
SUPPORT. What receiving a request can do, once for every request of the link.
-/

namespace Sys2Proof.Machine

theorem State.Open.serves {s : State} (h : s.Open) : s.Serves := h.1

theorem State.Open.stepping {s : State} (h : s.Open) : s.stepping = false := by
  obtain ⟨-, h1, h2⟩ := h
  simp [State.stepping, h1, h2]

theorem State.Hears.hears {s : State} (h : s.Hears) : s.hears = true := by
  simp [State.hears, h.1, h.2]

theorem State.goodRequest_eq_heard (s : State) : s.goodRequest = s.heard := rfl

@[simp] theorem State.heard_link_buffer (s : State) : s.heard.link.buffer = s.link.buffer := rfl

@[simp] theorem State.heard_link_address (s : State) : s.heard.link.address = s.link.address := rfl

@[simp] theorem State.heard_events (s : State) : s.heard.events = s.events := rfl

@[simp] theorem State.heard_stepping (s : State) : s.heard.stepping = s.stepping := rfl

/-- How a request counts here, told by the way it was sent and the part's address (R174). -/
theorem State.isBroadcast_iff (s : State) (d : Dest) : s.isBroadcast d = true ↔ s.Broadcast d := by
  unfold State.isBroadcast State.Broadcast
  rw [Bool.or_eq_true, beq_iff_eq, beq_iff_eq]

/-- A good request that finds room is served, and its answer joins the buffer unless it is a broadcast
(R178 to R180). -/
theorem State.receive_heard {s : State} (h : s.Hears) (hb : s.link.buffer.length < 2) (d : Dest)
    (code : Byte) (serve : Bool → State → Served) :
    s.receive d code serve =
      State.enqueue (serve (s.isBroadcast d) s.heard) code (s.isBroadcast d) := by
  have e : s.heard.isBroadcast d = s.isBroadcast d := rfl
  simp only [State.receive, h.hears, State.goodRequest_eq_heard, State.heard_link_buffer, hb, e, if_true]

/-- A request to the part's own address that is served: its block serves the state after a good
request, and the answer joins the buffer (R178 to R180). -/
theorem State.receive_own {s : State} (h : s.Serves) (code : Byte) (serve : Bool → State → Served) :
    s.receive .own code serve = State.enqueue (serve false s.heard) code false := by
  have hb : s.isBroadcast .own = false := by
    have ha := h.2.2
    simp_all [State.isBroadcast, show (Dest.own == Dest.broadcast) = false from rfl]
  rw [State.receive_heard h.1 h.2.1, hb]

/-- A request to the part's own address while no restart sequence is under way: a body of a wrong
length is answered BAD_LENGTH, any other is judged by its block (R178). -/
theorem State.request_own {α : Type} {s : State} (h : s.Open) (code : Byte) (parsed : Option α)
    (serve : α → Bool → State → Served) (carried : State → List Byte) :
    s.request .own code parsed serve carried =
      match parsed with
      | none => s.heard.replying code .badLength (carried s.heard)
      | some f => State.enqueue (serve f false s.heard) code false := by
  have hs : s.heard.stepping = false := h.stepping
  rw [State.request, State.receive_own h.serves]
  cases parsed with
  | none => simp [judge, State.sequenceIdle, hs]; rfl
  | some f => simp [judge, hs]

/-- An answer at once joins the buffer. -/
theorem enqueue_reply (s : State) (r : Result) (payload : List Byte) (code : Byte) :
    State.enqueue (s.reply r payload) code false = s.replying code r payload := rfl

theorem enqueue_refuse (s : State) (r : Result) (code : Byte) :
    State.enqueue (s.refuse r) code false = s.replying code r [] := rfl

theorem enqueue_query {α : Type} (answer : α → State → Answer) (f : α) (s : State) (code : Byte)
    (r : Result) (payload : List Byte) (h : answer f s = Answer.mk' r payload) :
    State.enqueue (query answer f false s) code false = s.replying code r payload := by
  simp [query, h, Answer.mk', State.enqueue, State.replying, State.setLink]

end Sys2Proof.Machine
end

