-- ==== Sys2Proof/Laws/Resets.lean ====
section
/-!
SUPPORT. What the resets leave, once for every reset (R89, R148, R157, R172, R186, R192 to R195).
-/

namespace Sys2Proof.Machine

theorem restartedOnly_flagged (e : Event) :
    restartedOnly.getLsbD e.index.val = decide (e = .restarted) := by cases e <;> decide

/-- The reset pin and a link restart set every block's running state afresh. -/
theorem State.takeReset_afresh (s : State) (cause : ResetCause) : (s.takeReset cause).Afresh where
  chan c := by
    cases h : s.live <;>
      simp [State.takeReset, State.chan, Channel.afterReset, Sequencer.afterReset, h]
  seq := by cases h : s.live <;> simp [State.takeReset, Sequencer.afterReset, h]
  clock := by simp [State.takeReset, Clock.afterReset]
  fader f := by
    simp [State.takeReset, State.fader, Surface.afterReset, Fader.fresh, State.slotUsed, State.bankSlot]
  lines f := by simp [State.takeReset, Surface.afterReset, TouchLine.afterReset]
  pass := rfl
  contacts := ⟨rfl, fun l => by simp [State.takeReset, State.contact, Contact.afterReset]⟩
  output := ⟨rfl, rfl, rfl, rfl, rfl, fun n => by simp [State.takeReset, Output.afterReset]⟩
  pins := ⟨rfl, fun n => by simp [State.takeReset, State.gainPins, Output.afterReset, linePins]⟩
  link := ⟨rfl, rfl, rfl, rfl, rfl, rfl, rfl, rfl, rfl, rfl, rfl, rfl⟩
  events := ⟨rfl, restartedOnly_flagged⟩

/-- What they leave the show, and the restart record they write. -/
theorem State.takeReset_restarted (s : State) (cause : ResetCause) :
    s.RestartedBy (s.takeReset cause) cause := by
  cases h : s.live <;> simp [State.RestartedBy, State.takeReset, Sequencer.afterReset, h]

/-- They keep the retained memory (R195). -/
theorem State.takeReset_retained (s : State) (cause : ResetCause) :
    (s.takeReset cause).retained = s.retained := by
  have h : (s.takeReset cause).channels.map Channel.cfg = s.channels.map Channel.cfg :=
    Tab.ext_get fun c => by simp [State.takeReset, Channel.afterReset, State.chan]
  simp only [State.retained, h]
  rfl

/-- Power-on sets every block's running state afresh. -/
theorem State.takePowerOn_afresh (s : State) (x : BitVec 5) : (s.takePowerOn x).Afresh where
  chan c := by
    have h : (s.takePowerOn x).chan c = Channel.afterReset ChannelConfig.powerOn 1024 :=
      Tab.get_replicate _ c
    have k : (s.takePowerOn x).seq.state = .edit := rfl
    rw [h, k]
    simp [Channel.afterReset]
  seq := ⟨rfl, rfl, rfl, rfl, rfl, rfl, rfl⟩
  clock := ⟨rfl, rfl, rfl, rfl, rfl, rfl, rfl, rfl, rfl, rfl, rfl⟩
  fader f := by
    simp [State.takePowerOn, State.reset, State.fader, Fader.fresh, State.slotUsed, State.bankSlot]
  lines f := by simp [State.takePowerOn, TouchLine.afterReset]
  pass := rfl
  contacts := ⟨rfl, fun l => by simp [State.takePowerOn, State.contact, Contact.afterReset]⟩
  output := ⟨rfl, rfl, rfl, rfl, rfl, fun n => by
    simp [State.takePowerOn, State.reset, Output.afterReset]⟩
  pins := ⟨rfl, fun n => by
    simp [State.takePowerOn, State.reset, State.gainPins, Output.afterReset, linePins]⟩
  link := ⟨rfl, rfl, rfl, rfl, rfl, rfl, rfl, rfl, rfl, rfl, rfl, rfl⟩
  events := ⟨rfl, restartedOnly_flagged⟩

end Sys2Proof.Machine
end

