-- ==== Sys2Proof/Laws/Schedule.lean ====
section
/-!
SUPPORT. What the part's own next event can be, and what it then knows of LRX and LTX.
-/

namespace Sys2Proof.Machine

/-- A timer's own event is the row of that timer, and a gap is one that `Link.gapped` finds. -/
theorem State.dueTimer_cases {s : State} {i : Instr} (h : s.dueTimer = some i) :
    i = .waitExpiry ∨ i = .markTimeout ∨ i = .freewheelLimit ∨ i = .linkSilence ∨
      i = .restartWindowLapse ∨ i = .gotoComplete ∨ i = .linkGapFault ∧ s.link.gapped = true ∨
        i = .markGapFault := by
  unfold State.dueTimer at h
  repeat' split at h
  all_goals simp_all

/-- An output's own event is the end of a send, the end of a scan pass or a frame event. -/
theorem State.dueOutput_cases {s : State} {i : Instr} (h : s.dueOutput = some i) :
    (∃ l, i = .sendEnd l) ∨ (∃ x, i = .passEnd x) ∨ i = .frameEvent := by
  unfold State.dueOutput at h
  repeat' split at h
  · exact .inl ⟨_, (Option.some.inj h).symm⟩
  · exact .inl ⟨_, (Option.some.inj h).symm⟩
  · exact .inr (.inl ⟨_, (Option.some.inj h).symm⟩)
  · exact .inr (.inr (Option.some.inj h).symm)
  · cases h

/-- The link's own event is the end of a reply, or the send of a ready one whose waits are over
(R180). -/
theorem State.dueReply_cases {s : State} {i : Instr} (h : s.dueReply = some i) :
    i = .replyEnd ∨ i = .replySend ∧ s.link.turned = true := by
  unfold State.dueReply at h
  repeat' split at h
  all_goals simp_all

/-- The part's own event is a timer's, an output's, the link's, or a wall millisecond. -/
theorem State.ownEvent_cases {s : State} {i : Instr} (h : s.ownEvent = some i) :
    s.dueTimer = some i ∨ s.dueOutput = some i ∨ s.dueReply = some i ∨ i = .clockAdvance := by
  unfold State.ownEvent at h
  cases ht : s.dueTimer <;> cases ho : s.dueOutput <;> cases hr : s.dueReply <;> simp_all

/-- Of its own accord the part sends a reply only when its waits are over (R180). -/
theorem State.turned_of_ownEvent {s : State} (h : s.ownEvent = some .replySend) :
    s.link.turned = true := by
  rcases State.ownEvent_cases h with k | k | k | k
  · simpa using State.dueTimer_cases k
  · simpa using State.dueOutput_cases k
  · simpa using State.dueReply_cases k
  · cases k

/-- Of its own accord the part takes a gap fault only when the gap has passed (R177). -/
theorem State.gapped_of_ownEvent {s : State} (h : s.ownEvent = some .linkGapFault) :
    s.link.gapped = true := by
  rcases State.ownEvent_cases h with k | k | k | k
  · simpa using State.dueTimer_cases k
  · simpa using State.dueOutput_cases k
  · simpa using State.dueReply_cases k
  · cases k

end Sys2Proof.Machine
end

