-- ==== Sys2Proof/Laws/Surface.lean ====
section
/-!
SUPPORT. The fader surface: reads of a fader after an update, and that ends of moves neither read nor
write the surface, so that each commutes with writing it.
-/

namespace Sys2Proof.Machine

variable (s : State) (x : Surface)

@[simp] theorem State.setFader_fader_self (f : Slot) (d : Fader) :
    (s.setFader f d).fader f = d := by simp [State.fader, State.setFader]

theorem State.setFader_fader (f g : Slot) (d : Fader) :
    (s.setFader f d).fader g = if f = g then d else s.fader g := by
  simp [State.fader, State.setFader, Tab.get_set]

@[simp] theorem State.setFader_fader_ne {f g : Slot} (d : Fader) (h : f ≠ g) :
    (s.setFader f d).fader g = s.fader g := by simp [State.setFader_fader, h]

@[simp] theorem State.setFader_chan (f : Slot) (d : Fader) : (s.setFader f d).chan = s.chan := rfl
@[simp] theorem State.setFader_seq (f : Slot) (d : Fader) : (s.setFader f d).seq = s.seq := rfl
@[simp] theorem State.raise_fader (e : Event) : (s.raise e).fader = s.fader := rfl
@[simp] theorem State.setChan_fader (c : Chan) (r : Channel) : (s.setChan c r).fader = s.fader := rfl

theorem State.setSurface_notify (n : Notice) :
    (s.setSurface x).notify n = (s.notify n).setSurface x := by
  unfold State.notify
  rw [State.setSurface_seq]
  split <;> rfl

theorem State.setSurface_completeFiring (f : Firing) :
    (s.setSurface x).completeFiring f = (s.completeFiring f).setSurface x := by
  have e : ∀ q, (s.setSurface x).setSeq q = (s.setSeq q).setSurface x := fun _ => rfl
  have r : ∀ (t : State) (e : Event), (t.setSurface x).raise e = (t.raise e).setSurface x :=
    fun _ _ => rfl
  unfold State.completeFiring
  simp only [State.setSurface_seq, e, State.setSurface_notify, r]
  split <;> rfl

/-- Counting an end of a move neither reads nor writes the surface. -/
theorem State.setSurface_countEnd (id : Nat) :
    (s.setSurface x).countEnd id = (s.countEnd id).setSurface x := by
  unfold State.countEnd
  simp only [State.setSurface_seq]
  split
  · rfl
  · split
    · exact State.setSurface_completeFiring s x _
    · rfl

/-- Reporting the end of an active move neither reads nor writes the surface. -/
theorem State.setSurface_reportActive (c : Chan) :
    (s.setSurface x).reportActive c = (s.reportActive c).setSurface x := by
  unfold State.reportActive
  simp only [State.setSurface_chan]
  split
  · rfl
  · rename_i m _
    cases m.owner
    · exact State.setSurface_countEnd s x _
    · rfl
    · rfl

end Sys2Proof.Machine
end

