-- ==== Sys2Proof/Tests/Slice0.lean ====
section
/-!
SUPPORT. Tests: the checks of WellFormed on ill-formed terms, the manual's worked examples, one step of
a small state for commands of every family, and for each statement with hypotheses a named witness that
meets them. Expected values come from the manual, not from the model; each section names its chapter.
-/

namespace Sys2Proof.Tests

open Sys2Proof.Machine

/-- The state after a command. -/
def after (i : Instr) (s : State) : State :=
  match exec i s with
  | .next t => t
  | .fault _ => s
  | .refused _ => s

/-- The last reply that waits: result code and payload. -/
def answerOf (s : State) : Option (Byte × List Byte) :=
  s.link.buffer.getLast?.bind fun e => e.reply.map fun r => (r.result, r.payload)

/-! ### Well-formed commands (R175, R178) -/

theorem test_body_of_249_refused :
    (Instr.nop .own (List.replicate 249 0)).wellFormed = false := by decide +kernel

theorem test_unknown_type_of_listed_code_refused :
    (Instr.unknownType .own 0x32 []).wellFormed = false := by decide

theorem test_wrong_length_is_well_formed : (Instr.go .own [1]).wellFormed = true := by decide

theorem test_word_spells_nothing : decodeTableWord 32 0 = none := by decide

/-! ### Characters, marks and frames (chapter 12) -/

theorem test_nop_to_address_4 : encodeRequest 4 .own 0x01 [] = marked 0x04 [0x01, 0x01, 0xFE] := by
  decide

theorem test_length_character_0_is_a_form_fault :
    decodeMessage 4 (marked 0x04 [0x00]) = some (.linkFormFault .length) := by decide

theorem test_reply_character_is_traffic :
    decodeMessage 4 (marked 0x84 [0x02]) = some .trafficForOtherParts := by decide

theorem test_crc_of_nothing : crc16 [] = 0xFFFF := by decide

/-- A part on whose LRX these characters wait. -/
def onLrx (cs : List LinkHeard) : State :=
  State.reset.setLink { State.reset.link with line := cs }

/-- A part on whose TMIN these characters wait, good and without a gap. -/
def onTmin (bs : List Byte) : State :=
  State.reset.setClock { State.reset.clock with
    line := bs.map fun b => { quiet := 0, data := b, stop := true } }

/-- The receiver of the link is taking the type and body characters (R176). -/
def collecting (cs : List LinkHeard) : State :=
  (onLrx cs).setLink { (onLrx cs).link with receiver := .body .own 1 [] }

theorem test_nop_heard_in_four_characters :
    ((onLrx (onLine (encodeRequest 0 .own 0x01 []))).stepped 4).bind answerOf = some (0, []) := by
  decide +kernel

theorem test_character_after_a_gap :
    ((collecting [⟨7040, ⟨0x01, false⟩, true, 0⟩]).stepped 1).map (fun t => t.link.gap) = some 0 ∧
      ((collecting [⟨7041, ⟨0x01, false⟩, true, 0⟩]).stepped 1).map (fun t => t.link.gap) = some 1 := by
  decide +kernel

theorem test_bad_stop_bit_in_a_collection :
    ((collecting [⟨0, ⟨0x01, false⟩, false, 0⟩]).stepped 1).map (fun t => t.link.framing) = some 1 := by
  decide +kernel

theorem test_mark_heard_in_eight_characters :
    ((onTmin (encodeMark 3 60000 1)).stepped 8).map (fun t => (t.clock.whole, t.clock.state)) =
      some (60000, .locking) := by decide +kernel

theorem test_hunt_skips_what_is_no_sync :
    ((onTmin [0x03, 0xA5]).stepped 2).map (fun t => t.clock.receiver) = some (.collect []) := by
  decide +kernel

/-! ### Level arithmetic (chapter 2, its worked cases) -/

theorem test_fade_on_five_curves :
    [Curve.linear, .easeIn, .easeOut, .scurve, .snapEnd, .snapStart].map
      (fun k => moveLevel (-200) (-60) 3000 k 750) = [-165, -191, -139, -178, -200, -60] := by decide

theorem test_scurve_quarters :
    [0, 1500, 2250, 3000].map (moveLevel (-200) (-60) 3000 .scurve) = [-200, -130, -82, -60] := by
  decide

theorem test_half_on_falling_fade :
    [1, 2, 3, 4].map (moveLevel 0 (-5) 4 .linear) = [-1, -3, -4, -5] ∧
      moveLevel (-5) 0 4 .linear 2 = -2 := by decide

theorem test_three_strips :
    effectiveLevel (-178) 100 (some (20, -2)) = (-60, false) ∧
      effectiveLevel 80 50 none = (100, true) ∧ effectiveLevel (-700) (-150) none = (-800, false) ∧
        effectiveLevel (-178) 100 (some (-800, -2)) = (-800, false) := by decide

theorem test_mute_steps :
    muteStep 2 10 0 1024 = 819 ∧ muteStep 2 50 0 1024 = 983 ∧ muteStep 2 50 0 983 = 942 ∧
      muteStep 2 8 1024 256 = 512 := by decide

theorem test_gain_words :
    [100, 0, -60, -200, -400, -600, -799, -800].map (fun e => gainWord e 1024) =
      [3315888, 1048576, 525533, 104858, 10486, 1049, 106, 0] := by decide

theorem test_gain_word_scaled :
    gainWord (-60) 512 = 262766 ∧ gainWord (-60) 768 = 394149 ∧ gainWord (-60) 256 = 131383 := by
  decide

theorem test_fader_law :
    [0, 15, 16, 22, 255, 256, 320, 767, 768, 1023].map faderLaw =
      [-800, -800, -800, -787, -302, -300, -262, -1, 0, 100] := by decide

theorem test_motor_targets :
    [-800, -799, -301, -300, -60, -40, 0, 10, 100].map motorTarget =
      [0, 16, 256, 256, 666, 700, 768, 794, 1023] := by decide

/-! ### One step of a small state -/

/-- A MANUAL cue with one move of 1 s on channel 1. -/
def cue10 : Cue :=
  { number := 10, trigger := .manual, wait := 0, base := .wall, song := 0, position := 0
    moves := [{ channel := 0, action := .level, target := -60, delay := 0, duration := 1000
                curve := .linear }] }

/-- A FOLLOW cue without moves. -/
def cue20 : Cue :=
  { number := 20, trigger := .follow, wait := 500, base := .wall, song := 0, position := 0
    moves := [] }

/-- A CLOCK cue. -/
def cue30 : Cue :=
  { number := 30, trigger := .clock, wait := 0, base := .wall, song := 3, position := 60000
    moves := [] }

/-- A MANUAL cue without moves. -/
def cue40 : Cue :=
  { number := 40, trigger := .manual, wait := 0, base := .wall, song := 0, position := 0
    moves := [] }

/-- A part whose list is `cues` and whose show is in `state` at `next`. -/
def showing (cues : List Cue) (state : ShowState) (next : Option Nat) : State :=
  { State.reset with
    cues, seq := { State.reset.seq with state, next, standing := none } }

/-- A show in SHOW at cue 10, with cue 40 after it. -/
def running : State := showing [cue10, cue40] .running (some 10)

theorem test_link_setup_rounds_up_to_100 :
    (after (.linkSetup .own [9, 0, 99]) State.reset).link.limit = 100 ∧
      (after (.linkSetup .own [9, 0x27, 0x6F]) State.reset).link.limit = 10000 := by decide

theorem test_events_setup_refuses_act_3 :
    answerOf (after (.eventsSetup .own [0, 0, 0, 0, 3, 0, 0]) State.reset) = some (3, []) := by decide

theorem test_events_read_clears_restarted :
    State.reset.flagged .restarted = true ∧
      (after (.eventsRead .own [1]) State.reset).flagged .restarted = false := by decide

theorem test_restart_step_1 : (after (.restart .own [1]) State.reset).events.sequence = .step1 := by
  decide

theorem test_channel_setup_clamps :
    ((after (.channelSetup .own [12, 2, 0xFC, 0x7C, 0x00, 0x96, 0x01, 0x2C, 1, 0x17, 0x70])
      State.reset).chan 11).cfg =
        { group := some 1, base := -800, trim := 100, muteRamp := 250, release := .keep
          returnTime := 5000 } := by decide +kernel

theorem test_trim_negative :
    ((after (.trim .own [1, 0xFF, 0xC4]) State.reset).chan 0).cfg.trim = -60 := by decide

theorem test_mute_remote_mutes_the_group :
    let s := State.reset.setChan 4 { State.reset.chan 4 with
      cfg := { (State.reset.chan 4).cfg with group := some 2 } }
    (after (.muteRemote .own [51, 1]) s).muteGoal 4 = 0 ∧ s.muteGoal 4 = 1024 := by decide

theorem test_level_at_once :
    ((after (.level .own [7, 0xFF, 0xC4, 0, 0, 0, 0]) State.reset).chan 6).level = -60 := by decide

theorem test_level_over_time :
    ((after (.level .own [7, 0xFF, 0xC4, 0, 0, 100, 0]) State.reset).chan 6).level = -800 := by decide

theorem test_cue_put_creates :
    (after (.cuePut .own [0, 10, 0, 0, 0, 0, 0, 0, 0, 0, 0, 0]) State.reset).cues =
      [{ cue10 with moves := [] }] := by decide

theorem test_moves_add_without_cue :
    (answerOf (after (.movesAdd .own [0, 10, 1, 0, 0xFF, 0xC4, 0, 0, 0, 0, 0, 0]) State.reset)).map Prod.fst =
      some 5 := by decide

theorem test_show_start_needs_a_cue :
    answerOf (after (.showStart .own []) State.reset) = some (14, []) := by decide

theorem test_go_in_edit_is_wrong_state :
    answerOf (after (.go .own [0, 0]) State.reset) = some (11, [0, 0, 0, 0, 0, 0]) := by decide

theorem test_go_fires :
    (after (.go .own [0, 10]) running).seq.standing = some 10 ∧
      (after (.go .own [0, 10]) running).seq.next = some 40 := by decide +kernel

theorem test_go_arms_follow_after_completion :
    (after (.go .own [0, 0]) (showing [cue40, { cue20 with number := 50 }] .running (some 40))).seq.arm =
      .waiting (500 * 65536) .wall := by decide +kernel

theorem test_hold_then_no_advance :
    (after (.hold .own []) running).seq.state = .hold := by decide

theorem test_safe_press :
    (after .contactSafePress running).seq.state = .safe := by decide

theorem test_correction_of_6 :
    let s := State.reset.setClock { State.reset.clock with state := .locked, whole := 60000, song := 3 }
    (after (.timeMark 3 60006 1 (markCheck 3 60006 1)) s).clock.whole = 60001 ∧
      (after (.timeMark 3 60006 1 (markCheck 3 60006 1)) s).clock.rate = 65542 := by decide

theorem test_correction_of_minus_3 :
    let s := State.reset.setClock { State.reset.clock with state := .locked, whole := 60003, song := 3 }
    (after (.timeMark 3 60000 1 (markCheck 3 60000 1)) s).clock.whole = 60003 ∧
      (after (.timeMark 3 60000 1 (markCheck 3 60000 1)) s).clock.rate = 65533 := by decide

theorem test_clock_advance_runs_the_clock :
    (after .clockAdvance (State.reset.setClock { State.reset.clock with
      state := .locked, rate := 66847 })).clock.frac = 1311 := by decide +kernel

theorem test_key_press_toggles :
    let s := State.reset.setFader 0 (Fader.fresh (some 4))
    ((after (.keyPress 0) s).chan 4).operator = true := by decide

theorem test_route_put_duplicate :
    let s := after (.routePut .own [1, 1, 1]) State.reset
    answerOf (after (.routePut .own [2, 1, 1]) s) = some (10, [0, 0, 1]) := by decide

/-- R163, R180: a strip's refusal carries its entry as stored, and strip 49 has none. -/
theorem test_route_put_refused_carries_the_entry :
    let s := after (.routePut .own [17, 1, 5]) State.reset
    answerOf (after (.routePut .own [17, 5, 1]) s) = some (3, [1, 5]) ∧
      answerOf (after (.routePut .own [17, 2, 65]) s) = some (3, [1, 5]) ∧
        answerOf (after (.routePut .own [49, 1, 5]) s) = some (3, []) := by decide +kernel

theorem test_first_frame_count :
    (after .frameEvent State.reset).output.frameCount = 1 := by decide

theorem test_reset_pin_in_show_comes_up_safe :
    (after (.resetPin 5) running).seq.state = .safe ∧ (after (.resetPin 5) running).link.address = 5 := by
  decide

theorem test_last_millisecond_of_a_move_ends_it :
    let s := running.setChan 0 { running.chan 0 with
      active := some { target := -60, duration := 1000, curve := .linear, base := .wall
                       owner := .remote, start := -800, elapsed := 999 * 65536 } }
    ((after .clockAdvance s).chan 0).level = -60 ∧ ((after .clockAdvance s).chan 0).active = none := by
  decide +kernel

theorem test_third_active_sample_is_a_touch :
    let s := (State.reset.setFader 0 (Fader.fresh (some 4))).setInputs [{ State.reset.pins with
      touch := (Tab.replicate 16 false).set 0 true }]
    let count (n : Nat) := s.setSurface { s.surface with
      touch := s.surface.touch.set 0 { level := true, qualified := false, count := n } }
    ((after .clockAdvance (count 2)).fader 0).state = .holding ∧
      ((after .clockAdvance (count 1)).fader 0).state = .free := by decide +kernel

theorem test_bounce_clears_the_count :
    let s := State.reset.setContacts { State.reset.contacts with
      lines := State.reset.contacts.lines.set 0 { high := false, qualified := false, count := 4 } }
    let pins (high : Bool) := { s.pins with contacts := (Tab.replicate 4 true).set 0 high }
    ((after .clockAdvance (s.setInputs [pins true])).contact .cgo).count = 0 ∧
      ((after .clockAdvance (s.setInputs [pins false])).contact .cgo).qualified = true := by
  decide +kernel

theorem test_second_bit_of_a_frame_at_its_rising_edge :
    let s := after .frameEvent State.reset
    let at12 := s.setOutput { s.output with
      surfaceShift := s.output.surfaceShift.map fun h => { h with left := 2496 - 12 } }
    at12.surfacePins = (true, true) ∧ s.surfacePins = (false, false) := by decide +kernel

theorem test_idle_part_lets_a_millisecond_pass :
    step State.reset = exec .clockAdvance State.reset := by rfl

/-! ### Witnesses: states and operands that meet the hypotheses of each statement -/

/-- The link, the restart sequence and RESETn as after power-on. -/
def Fresh (s : State) : Prop :=
  s.link = State.reset.link ∧ s.events = State.reset.events ∧ s.resetLow = false

theorem Fresh.serves {s : State} (h : Fresh s) : s.Serves := by
  obtain ⟨h1, h2, h3⟩ := h
  refine ⟨⟨h3, ?_⟩, ?_, ?_⟩ <;> rw [h1] <;> decide

theorem Fresh.open {s : State} (h : Fresh s) : s.Open := by
  refine ⟨h.serves, ?_, ?_⟩ <;> rw [h.2.1] <;> decide

theorem test_reset_open : State.reset.Open := Fresh.open ⟨rfl, rfl, rfl⟩

theorem test_running_open : running.Open := Fresh.open ⟨rfl, rfl, rfl⟩

theorem showing_open (cues : List Cue) (state : ShowState) (next : Option Nat) :
    (showing cues state next).Open := Fresh.open ⟨rfl, rfl, rfl⟩

/-! #### The queue, the reset level, messages -/

theorem test_witness_StepTakesNext :
    (State.reset.setPending [.clockAdvance]).pending = .clockAdvance :: [] ∧
      ((State.reset.setResetLow true).pending = [] ∧ (State.reset.setResetLow true).resetLow = true) ∧
      ((onLrx (onLine [⟨0, true⟩])).pending = [] ∧ (onLrx (onLine [⟨0, true⟩])).resetLow = false ∧
        (onLrx (onLine [⟨0, true⟩])).link.line = ⟨0, ⟨0, true⟩, true, 0⟩ :: [] ∧
        ((onLrx []).judgeLink ⟨0, ⟨0, true⟩, true, 0⟩ []).2 = none ∧
        ((onLrx []).judgeLink ⟨0, ⟨1, true⟩, true, 0⟩ []).2 = some .trafficForOtherParts) ∧
      ((onTmin [0xA5]).pending = [] ∧ (onTmin [0xA5]).link.line = [] ∧
        (onTmin [0xA5]).clock.line = ⟨0, 0xA5, true⟩ :: [] ∧
        ((onTmin []).judgeMark ⟨0, 0xA5, true⟩ []).2 = none ∧
        (((onTmin []).setClock { (onTmin []).clock with receiver := .collect [] }).judgeMark
          ⟨0, 0, false⟩ []).2 = some .markFramingFault) ∧
      State.reset.pending = [] ∧ State.reset.link.line = [] ∧ State.reset.clock.line = [] := by decide

theorem test_witness_StepTakesNext_due :
    let s := showing [cue20] .running (some 20)
    (s.setSeq { s.seq with arm := .waiting 0 .wall }).waitDue = true ∧
      ({ s.clock with state := .locked, markTimer := 100 } : Clock).overdue = true ∧
      ({ s.clock with state := .freewheel, freewheelTimer := 2000 } : Clock).spent = true ∧
      ({ s.link with limit := 100, timer := 100, watchdog := .running } : Link).silent = true ∧
      (s.setEvents { s.events with sequence := .step2, window := 1000 }).events.window = 1000 ∧
      (s.setSeq { s.seq with
        scan := some { cue := 20, loadTime := 0, clamped := false, age := 40 } }).seq.scan =
          some { cue := 20, loadTime := 0, clamped := false, age := 40 } ∧
      ({ s.link with receiver := .length .own, rxQuiet := 7041 } : Link).gapped = true ∧
      ({ s.clock with receiver := .collect [], quiet := 2950 } : Clock).gapped = true := by decide

theorem test_witness_HeldInReset :
    (State.reset.setResetLow true).resetLow = true ∧ (∀ x, Instr.clockAdvance ≠ .powerOn x) ∧
      Instr.clockAdvance ≠ .resetPinRelease := by simp

theorem test_witness_MessagesReadBack :
    ((Instr.movesAdd .broadcast (List.replicate 242 0)).wellFormed = true ∧
      (Instr.movesAdd .broadcast (List.replicate 242 0)).request =
        some (.broadcast, 0x21, List.replicate 242 0) ∧ (Dest.broadcast = .own → (31#5) ≠ 31)) ∧
      ((Instr.unknownType .own 0xFF []).wellFormed = true ∧
        (Instr.unknownType .own 0xFF []).request = some (.own, 0xFF, []) ∧
          (Dest.own = .own → (0#5) ≠ 31)) ∧
      ∀ rest, (onLrx (onLine (encodeRequest 0 .own 0xFF []) ++ rest)).pending = [] ∧
        (onLrx (onLine (encodeRequest 0 .own 0xFF []) ++ rest)).Hears ∧
        (onLrx (onLine (encodeRequest 0 .own 0xFF []) ++ rest)).link.receiver = .unaddressed ∧
        (onLrx (onLine (encodeRequest 0 .own 0xFF []) ++ rest)).link.address = 0 ∧
        (onLrx (onLine (encodeRequest 0 .own 0xFF []) ++ rest)).link.line =
          onLine (encodeRequest 0 .own 0xFF []) ++ rest :=
  ⟨by decide +kernel, by decide, fun _ => ⟨rfl, ⟨rfl, rfl⟩, rfl, rfl, rfl⟩⟩

/-! #### The link -/

theorem test_witness_QueriesAnswer :
    let s := showing [{ cue40 with number := 1 }, { cue40 with number := 9999 }] .edit none
    s.Open ∧ s.cues = [] ++ { cue40 with number := 1 } :: [{ cue40 with number := 9999 }] ∧
      s.cues = [{ cue40 with number := 1 }] ++ { cue40 with number := 9999 } :: [] ∧
      (∀ p ∈ [{ cue40 with number := 1 }], p.number ≠ 9999) ∧ 1 ≤ 9999 ∧ 9999 ≤ 9999 ∧
        (1 ≤ 64 ∧ 64 ≤ 64) ∧ (1 ≤ 24 ∧ 24 ≤ 24) ∧ 0 ≤ 9999 ∧ (1 ≤ 100 ∧ 100 ≤ 100) :=
  ⟨showing_open _ _ _, rfl, rfl, by decide⟩

theorem test_witness_QueriesAnswer_refused :
    let s := showing [{ cue40 with number := 1 }] .edit none
    s.Open ∧ (0 : Byte).toNat = 0 ∧ 56 < (57 : Byte).toNat ∧ 8 < (9 : Byte).toNat ∧ 4 < (5 : Byte).toNat ∧
      65535 < 65536 ∧ 9999 < 10000 ∧ (∀ q ∈ s.cues, q.number ≠ 9999) ∧ 64 < (65 : Byte).toNat ∧
        24 < (25 : Byte).toNat ∧ 100 < (101 : Byte).toNat :=
  ⟨showing_open _ _ _, by decide⟩

/-- A part whose restart sequence is in `q`. -/
def sequenced (q : RestartSequence) : State :=
  State.reset.setEvents { State.reset.events with sequence := q }

theorem sequenced_serves (q : RestartSequence) : (sequenced q).Serves :=
  ⟨⟨rfl, rfl⟩, (by decide : (0 : Nat) < 2), (by decide : (0 : BitVec 5) ≠ 31)⟩

theorem sequenced_broadcast (q : RestartSequence) :
    (sequenced q).Broadcast .broadcast ∧ ¬ (sequenced q).Broadcast .own :=
  ⟨.inl rfl, fun h => h.elim (fun e => by cases e) fun e => absurd e (by decide : (0#5) ≠ 31)⟩

/-- R176, R192: behind a broadcast step 3 the next message of the same millisecond is still judged. -/
theorem test_nop_behind_a_broadcast_restart :
    let s := (sequenced .step2).setLink { State.reset.link with
      line := onLine (encodeRequest 0 .broadcast 0x0A [3] ++ encodeRequest 0 .own 0x01 []) }
    (s.stepped 5).map (fun t => (t.restart.cause, t.link.line.length)) = some (.linkRestart, 4) ∧
      (s.stepped 9).bind answerOf = some (0, []) := by decide +kernel

theorem test_witness_RequestsJudged (q : RestartSequence) :
    (sequenced q).Hears ∧ (sequenced q).link.buffer.length < 2 ∧ ¬ (sequenced q).Broadcast .own ∧
      (sequenced q).Broadcast .broadcast ∧
      ∀ d, (Instr.go d [1]).codeFits = true ∧ (Instr.go d [1]).request = some (d, 0x32, [1]) ∧
        typeCodes.contains 0x32 = true ∧ lengthAllowed 0x32 [(1 : Byte)].length = false :=
  ⟨⟨rfl, rfl⟩, (sequenced_serves q).2.1, (sequenced_broadcast q).2, (sequenced_broadcast q).1,
    fun d => ⟨rfl, rfl, by decide⟩⟩

theorem test_witness_RestartSteps :
    (∀ q, (sequenced q).Serves ∧ (sequenced q).events.sequence = q ∧
      (sequenced q).Broadcast .broadcast) ∧
      ((0 : Byte).toNat = 0 ∨ 3 < (0 : Byte).toNat) ∧ ((4 : Byte).toNat = 0 ∨ 3 < (4 : Byte).toNat) ∧
        (1 ≤ (1 : Byte).toNat ∧ (1 : Byte).toNat ≤ 3) ∧ (1 ≤ (3 : Byte).toNat ∧ (3 : Byte).toNat ≤ 3) ∧
          State.reset.resetLow = false ∧ State.reset.events.window < 1000 ∧
            1000 ≤ (State.reset.setEvents { State.reset.events with window := 1000 }).events.window :=
  ⟨fun q => ⟨sequenced_serves q, rfl, (sequenced_broadcast q).1⟩, by decide⟩

theorem test_witness_RestartInterrupted (q : RestartSequence) (h : q = .step1 ∨ q = .step2) :
    (sequenced q).Hears ∧ (sequenced q).link.buffer.length < 2 ∧
      ((sequenced q).events.sequence = .step1 ∨ (sequenced q).events.sequence = .step2) ∧
        ¬ (sequenced q).Broadcast .own ∧ (sequenced q).Broadcast .broadcast ∧
          ∀ d, (Instr.trim d [1, 0, 0]).codeFits = true ∧
            (Instr.trim d [1, 0, 0]).request = some (d, 0x11, [1, 0, 0]) ∧
              typeCodes.contains 0x11 = true ∧ (0x11 : Byte) ≠ 0x0A ∧
                lengthAllowed 0x11 [(1 : Byte), 0, 0].length = true :=
  ⟨⟨rfl, rfl⟩, (sequenced_serves q).2.1, h, (sequenced_broadcast q).2, (sequenced_broadcast q).1,
    fun d => ⟨rfl, rfl, by decide⟩⟩

theorem test_witness_BroadcastsUnanswered :
    ((Instr.hold .broadcast []).request = some (.broadcast, 0x34, []) ∧
      ∃ t, exec (.hold .broadcast []) running = .next t) ∧
      running.Open ∧ (Instr.hold .own []).request = some (.own, 0x34, []) ∧
        (Instr.hold .own []).codeFits = true ∧ (Instr.hold .broadcast []).codeFits = true ∧
          (0x34 : Byte) ≠ 0x02 ∧ (0x34 : Byte) ≠ 0x09 ∧ (0x34 : Byte) ≠ 0x0A ∧ (0x34 : Byte) ≠ 0x3A :=
  ⟨⟨rfl, _, rfl⟩, test_running_open, by decide⟩

/-- A part that holds these requests in its buffer. -/
def holding (buffer : List Entry) (sending : Option Sending) : State :=
  State.reset.setLink { State.reset.link with buffer, sending }

/-- A served request with a reply of no payload. -/
def entry (after : AfterReply) : Entry := ⟨some ⟨0x01, 0, []⟩, after⟩

theorem test_witness_LinkErrorsCounted :
    (holding [entry .nothing, entry .nothing] none).Hears ∧
      2 ≤ (holding [entry .nothing, entry .nothing] none).link.buffer.length ∧
        (Instr.nop .own []).request = some (.own, 0x01, []) ∧
          (holding [entry .nothing, entry .nothing] none).link.receiver = .unaddressed ∧
            (collecting []).Hears ∧ (collecting []).link.receiver ≠ .unaddressed :=
  ⟨⟨rfl, rfl⟩, by decide, rfl, rfl, ⟨rfl, rfl⟩, by decide⟩

/-- A part in a collection, on whose LRX a character began after `quiet` cycles and has lasted `since`. -/
def begun (quiet since : Nat) : State :=
  (collecting []).setLink { (collecting []).link with
    begun := some { quiet, since }, rxQuiet := quiet + since }

theorem test_character_under_way_is_no_gap :
    (begun 7040 500).hears = true ∧ (begun 7040 500).dueTimer = none ∧
      (begun 7041 500).dueTimer = some .linkGapFault := by decide

/-- A part with a ready reply, LRX quiet for `rx` cycles and nothing sent for `tx`, with a character under
way or not. -/
def ready (rx tx : Nat) (begun : Option Begun) : State :=
  let s := holding [entry .nothing] none
  s.setLink { s.link with rxQuiet := rx, txQuiet := tx, begun }

theorem test_reply_waits_for_a_character_under_way :
    (ready 3520 3520 none).ownEvent = some .replySend ∧
      (ready 3519 9999 none).ownEvent = some .clockAdvance ∧
      (ready 9999 9999 (some { quiet := 3519, since := 6480 })).ownEvent = some .clockAdvance := by decide

theorem test_witness_LinkErrorsCounted_begun :
    (begun 7040 1).Hears ∧ (begun 7040 1).link.begun = some { quiet := 7040, since := 1 } ∧
      7040 ≤ 4 * (176 * ((begun 7040 1).link.divider + 1)) := ⟨⟨rfl, rfl⟩, rfl, by decide⟩

theorem test_witness_RepliesSent_own :
    (ready 3520 3520 none).ownEvent = some .replySend ∧
      (ready 3521 3521 (some { quiet := 3520, since := 1 })).ownEvent = some .replySend ∧
        (ready 3520 3520 none).link.buffer = [entry .nothing] := by decide

/-- A part whose reply ended 1000 cycles before the end of the millisecond, and on whose LRX a character
ended so many cycles before it. -/
def released (ago : Nat) : State :=
  let s := holding [entry .nothing] (some ⟨[], -1000⟩)
  s.setLink { s.link with line := [⟨0, ⟨0x00, true⟩, true, ago⟩] }

/-- R176, R181: a character that ended under LDE is lost, and one that ended after its release opens a
collection. -/
theorem test_characters_about_the_end_of_a_reply :
    ((released 1000).stepped 1).map (fun t => (t.link.line.length, t.link.sending.isSome)) =
      some (0, true) ∧
      ((released 999).stepped 1).map (fun t => (t.link.line.length, t.link.sending.isSome)) =
        some (1, false) ∧
      ((released 999).stepped 2).map (fun t => t.link.receiver) = some (.length .own) := by decide +kernel

theorem test_witness_RepliesSent_line (ago : Nat) :
    (released ago).pending = [] ∧ (released ago).resetLow = false ∧
      (released ago).link.sending = some ⟨[], -1000⟩ ∧
      (released ago).link.line = ⟨0, ⟨0x00, true⟩, true, ago⟩ :: [] ∧
      (0 : Int) ≤ -1000 + (1000 : Nat) ∧ (-1000 : Int) + (999 : Nat) < 0 :=
  ⟨rfl, rfl, rfl, rfl, by decide, by decide⟩

theorem test_witness_RepliesSent (after : AfterReply) :
    ((holding [entry after] none).resetLow = false ∧
      (holding [entry after] none).link.buffer = ⟨some ⟨0x01, 0, []⟩, after⟩ :: [] ∧
        (holding [entry after] none).link.sending = none) ∧
      (holding [entry after] (some ⟨[], 0⟩)).resetLow = false ∧
        (holding [entry after] (some ⟨[], 0⟩)).link.buffer = ⟨some ⟨0x01, 0, []⟩, after⟩ :: [] ∧
          (holding [entry after] (some ⟨[], 0⟩)).link.sending ≠ none :=
  ⟨⟨rfl, rfl, rfl⟩, rfl, rfl, by simp [holding]⟩

theorem test_witness_RepliesSent_bits :
    let x (left : Int) : Sending := { message := marked 0x84 [0x02, 0x01, 0x00, 0xFD], left }
    (holding [entry .nothing] (some (x 1))).link.sending = some (x 1) ∧
      (x 1).message[4]? = some ⟨0xFD, false⟩ ∧
      (x 1).left = ((x 1).message.length * (176 * (9 + 1)) : Nat) -
        ((11 * 4 + 10) * (16 * (9 + 1)) + 159 : Nat) ∧
      (holding [entry .nothing] (some (x 8800))).ltx = some false ∧
      (holding [entry .nothing] (some (x (8800 - 3 * 160)))).ltx = some true ∧
      (holding [entry .nothing] none).ltx = none := by decide

theorem test_witness_LinkSetupStores :
    State.reset.Open ∧
      (100 = let v := min (((0 : Byte) ++ (99 : Byte) : BitVec 16)).toNat 25500
        if v = 0 then 0 else if v < 100 then 100 else v - v % 100) ∧
      (25500 = let v := min (((0xFF : Byte) ++ (0xFF : Byte) : BitVec 16)).toNat 25500
        if v = 0 then 0 else if v < 100 then 100 else v - v % 100) := ⟨test_reset_open, by decide⟩

/-! #### Events and resets -/

theorem test_witness_EventRequests :
    State.reset.Open ∧ (2 < (3 : Byte).toNat ∨ 2 < (0 : Byte).toNat ∨ 2 < (0 : Byte).toNat) ∧
      0 ≤ 5 ∧ 5 ≤ 5 ∧ 5 < (6 : Byte).toNat ∧ (1 ≤ 5 ∧ 5 ≤ 5) := ⟨test_reset_open, by decide⟩

theorem test_witness_ResetPinTaken :
    (running.resetLow = false ∧ running.live = true ∧ running.link.restartDue = false) ∧
      (State.reset.resetLow = false ∧ State.reset.live = false) ∧
        (holding [entry .linkRestart] (some ⟨[], 0⟩)).link.restartDue = true ∧
          (holding [entry .linkRestart] (some ⟨[], 1⟩)).link.restartDue = false := by decide

theorem test_reset_pin_together_with_a_link_restart :
    (after (.resetPin 0) (holding [entry .linkRestart] (some ⟨[], 0⟩))).restart.count = 2 ∧
      (after (.resetPin 0) (holding [entry .linkRestart] (some ⟨[], 1⟩))).restart.count = 1 := by decide

/-! #### Channels -/

theorem test_witness_ChannelRequests :
    State.reset.Open ∧ ((some 7 : Option (Fin 8)) ≠ none → isStrip 47 = true) ∧
      ((none : Option (Fin 8)) ≠ none → isStrip 55 = true) ∧
      ((-200 : Int) = max (-200) (min 100 (((0x80 : Byte) ++ (0x00 : Byte) : BitVec 16)).toInt)) ∧
      (0 : Byte).toNat = 0 ∧ 56 < (57 : Byte).toNat ∧ 8 < (9 : Byte).toNat ∧
        (48 < (49 : Byte).toNat ∧ (1 : Byte).toNat ≠ 0) ∧ 1 < (2 : Byte).toNat :=
  ⟨test_reset_open, by decide⟩

/-- A show in which channel 1 has an active move of firing 1, in flight, and a pending one, each in its
last millisecond. -/
def moving : State :=
  (running.setSeq { running.seq with
    flight := [{ id := 1, cue := 10, cause := .goLink, outstanding := 2 }], nextId := 2 }).setChan 0
      { running.chan 0 with
        active := some { target := -60, duration := 1000, curve := .linear, base := .wall
                         owner := .firing 1 10, start := -800, elapsed := 999 * 65536 }
        waiting := [{ action := .level, target := 0, duration := 500, curve := .linear, delay := 65536
                      base := .wall, firing := 1, cue := 10, counted := true }] }

theorem test_witness_LevelStartsMove :
    moving.Open ∧ (moving.reportActive 0).waitDue = false ∧
      (100 : Int) = max (-800) (min 100 (((0x7F : Byte) ++ (0xFF : Byte) : BitVec 16)).toInt) ∧
      600000 = min (((0x09 : Byte) ++ (0x27 : Byte) ++ (0xC1 : Byte) : BitVec 24)).toNat 600000 ∧
      (0 : Byte).toNat = 0 ∧ 56 < (57 : Byte).toNat ∧ 5 < (6 : Byte).toNat :=
  ⟨Fresh.open ⟨rfl, rfl, rfl⟩, by decide, by decide⟩

/-! #### The cue store -/

theorem running_in_order : running.ListInOrder := by unfold State.ListInOrder; decide +kernel

theorem not_armed {s : State} {n : Nat} (h : s.seq.arm = .empty) (h2 : s.seq.crossed = none) :
    ¬ s.Armed n := by
  rintro (⟨_, k⟩ | k)
  · exact k h
  · rw [h2] at k
    cases k

theorem test_witness_CuePutStores :
    running.Open ∧ running.ListInOrder ∧ running.seq.scan = none ∧
      CuePutGood 1 .clock 16777215 99 16777215 ∧ CuePutGood 9999 .follow 16777215 255 0 ∧
        (∀ n, ¬ running.Armed n) ∧ (findCue running.cues 1 = none → running.cues.length < 512) ∧
          findCue running.cues 10 = some cue10 :=
  ⟨test_running_open, running_in_order, rfl, by unfold CuePutGood; decide,
    by unfold CuePutGood; decide, fun _ => not_armed rfl rfl, by decide, by decide⟩

/-- A move at the ends of its fields' bytes. -/
def farMove (c : Chan) : StoredMove :=
  { channel := c, action := .level, target := -32768, delay := 16777215, duration := 16777215
    curve := .snapStart }

theorem farMove_fits (c : Chan) : (farMove c).Fits := by simp [StoredMove.Fits, farMove]

theorem test_witness_MovesAddAppends :
    running.Open ∧ (1 ≤ 10 ∧ 10 ≤ 9999) ∧ running.seq.scan = none ∧
      findCue running.cues 10 = some cue10 ∧ ¬ running.Armed 10 ∧ running.ListInOrder ∧
        1 ≤ [farMove 55].length ∧ [farMove 55].length ≤ 24 ∧
          cue10.moves.length + [farMove 55].length ≤ 64 ∧
            [farMove 55].length ≤ poolFree running.cues ∧
              (∀ c, namedMoves (cue10.moves ++ [farMove 55]) c ≤ 4) ∧ ∀ m ∈ [farMove 55], m.Fits :=
  ⟨test_running_open, by decide, rfl, by decide, not_armed rfl rfl, running_in_order, by decide,
    by decide, by decide, by decide, by decide +kernel, fun m h => by
      rw [List.mem_singleton.mp h]; exact farMove_fits _⟩

theorem test_witness_CuesRemoved :
    (running.Open ∧ running.seq.scan = none ∧ findCue running.cues 10 = some cue10 ∧
      ¬ running.Armed 10 ∧ running.seq.next = some 10 ∧ running.seq.state = .running ∧
        (after (.cueDelete .own [0, 10]) running).seq.next.bind
          (findCue (after (.cueDelete .own [0, 10]) running).cues) = some cue40) ∧
      (findCue running.cues 40 = some cue40 ∧ running.seq.next ≠ some 40 ∧ ¬ running.Armed 40) ∧
      State.reset.Open ∧ State.reset.seq.scan = none ∧ State.reset.seq.state = .edit :=
  ⟨⟨test_running_open, rfl, by decide, not_armed rfl rfl, rfl, rfl, by decide +kernel⟩,
    ⟨by decide, by decide, not_armed rfl rfl⟩, test_reset_open, by decide⟩

/-- A show with a scan to cue 10 in flight. -/
def scanning (state : ShowState) : State :=
  let s := showing [cue10, cue40] state (some 10)
  s.setSeq { s.seq with scan := some { cue := 10, loadTime := 0, clamped := false, age := 0 } }

theorem scanning_open (state : ShowState) : (scanning state).Open := Fresh.open ⟨rfl, rfl, rfl⟩

/-- A show at cue 20, whose wait stands at `left`. -/
def waiting (state : ShowState) (left : Nat) : State :=
  let s := showing [cue20, cue40] state (some 20)
  s.setSeq { s.seq with arm := .waiting left .wall }

theorem waiting_open (state : ShowState) (left : Nat) : (waiting state left).Open :=
  Fresh.open ⟨rfl, rfl, rfl⟩

/-- A show in whose present millisecond a crossing has fired cue 10. -/
def crossed10 : State := running.setSeq { running.seq with next := some 40, crossed := some 10 }

/-- A full list, of the cues 1 to 512. -/
def fullList : State :=
  showing ((List.range 512).map fun i => { cue40 with number := i + 1 }) .edit none

/-- A store of 2048 moves: 31 cues of 64 moves, one of 63 and cue 33 with one, all on channel 1. -/
def fullPool : State :=
  showing (((List.replicate 31 64) ++ [63, 1]).mapIdx fun i n =>
    { cue40 with number := i + 1, moves := List.replicate n { farMove 0 with delay := 0 } }) .edit none

theorem test_witness_EditsRefused_bad_fields :
    State.reset.Open ∧ 65535 < 65536 ∧ [(0 : Byte), 0, 0].length = 3 ∧ 9999 < 10000 ∧
      3 < (4 : Byte).toNat ∧ 1 < (2 : Byte).toNat ∧ ((3 : Byte).toNat = 3 ∧ 99 < (100 : Byte).toNat) ∧
      (List.replicate 8 (0 : Byte)).length = 8 ∧
      (List.replicate 230 (0 : Byte)).length = 10 * 23 ∧ ([] : List StoredMove).length + 1 + 23 ≤ 24 ∧
      (0 : Byte).toNat = 0 ∧ 56 < (57 : Byte).toNat ∧ (3 : Byte).toNat % 4 = 3 ∧
        ((24 : Byte).toNat % 4 = 0 ∧ 5 < (24 : Byte).toNat / 4 % 8) :=
  ⟨test_reset_open, by decide +kernel⟩

theorem test_witness_EditsRefused :
    CuePutGood 9999 .manual 0 0 0 ∧
      ((scanning .running).Open ∧ (scanning .running).seq.scan ≠ none) ∧
      ((waiting .running 1).Open ∧ (waiting .running 1).seq.scan = none ∧
        (waiting .running 1).Armed 20 ∧ findCue (waiting .running 1).cues 20 = some cue20) ∧
      (crossed10.Open ∧ crossed10.seq.scan = none ∧ crossed10.Armed 10 ∧
        findCue crossed10.cues 10 = some cue10) ∧
      (fullList.Open ∧ fullList.seq.scan = none ∧ ¬ fullList.Armed 9999 ∧
        findCue fullList.cues 9999 = none ∧ 512 ≤ fullList.cues.length) ∧
      running.Open ∧ running.seq.scan = none ∧ running.seq.state ≠ .edit ∧
        findCue running.cues 9999 = none :=
  ⟨by unfold CuePutGood; decide, ⟨scanning_open _, by decide⟩,
    ⟨waiting_open _ _, rfl, .inl ⟨rfl, by decide⟩, by decide⟩,
    ⟨Fresh.open ⟨rfl, rfl, rfl⟩, rfl, .inr rfl, by decide⟩,
    ⟨showing_open _ _ _, rfl, not_armed rfl rfl, by decide +kernel, by decide +kernel⟩,
    test_running_open, by decide⟩

/-- A list of one move has no move before it. -/
theorem before_one {m x : StoredMove} {l more : List StoredMove} (h : [m] = l ++ x :: more) :
    l = [] ∧ x = m := by
  cases l with
  | nil => simp only [List.nil_append, List.cons.injEq] at h; exact ⟨rfl, h.1.symm⟩
  | cons a as => simp at h

theorem test_witness_EditsRefused_moves :
    (∃ q, fullPool.Open ∧ fullPool.seq.scan = none ∧ ¬ fullPool.Armed 31 ∧
      findCue fullPool.cues 31 = some q ∧ 64 < q.moves.length + [farMove 1].length) ∧
    (∃ q, ¬ fullPool.Armed 32 ∧ findCue fullPool.cues 32 = some q ∧
      q.moves.length + [farMove 0].length ≤ 64 ∧ [farMove 0] = [] ++ farMove 0 :: [] ∧
        4 ≤ namedMoves (q.moves ++ []) (farMove 0).channel ∧
          ∀ l' m' more', ([] : List StoredMove) = l' ++ m' :: more' →
            namedMoves (q.moves ++ l') m'.channel < 4) ∧
    ∃ q, ¬ fullPool.Armed 33 ∧ findCue fullPool.cues 33 = some q ∧
      q.moves.length + [farMove 1].length ≤ 64 ∧ poolFree fullPool.cues < [farMove 1].length ∧
        (farMove 1).Fits ∧ ∀ l m more, [farMove 1] = l ++ m :: more →
          namedMoves (q.moves ++ l) m.channel < 4 := by
  refine ⟨⟨{ cue40 with number := 31, moves := List.replicate 64 { farMove 0 with delay := 0 } },
      showing_open _ _ _, rfl, not_armed rfl rfl, by decide +kernel, by decide +kernel⟩,
    ⟨{ cue40 with number := 32, moves := List.replicate 63 { farMove 0 with delay := 0 } },
      not_armed rfl rfl, by decide +kernel, by decide +kernel, rfl, by decide +kernel,
      fun l' _ _ h => by cases l' <;> simp at h⟩,
    { cue40 with number := 33, moves := List.replicate 1 { farMove 0 with delay := 0 } },
    not_armed rfl rfl, by decide +kernel, by decide, by decide +kernel, farMove_fits _,
    fun l m more h => ?_⟩
  obtain ⟨rfl, rfl⟩ := before_one h
  decide +kernel

/-! #### The show -/

theorem test_witness_ShowStates :
    ((showing [cue30] .edit none).Open ∧ (showing [cue30] .edit none).seq.scan = none ∧
      (showing [cue30] .edit none).seq.state = .edit ∧ (showing [cue30] .edit none).cues ≠ [] ∧
        (showing [cue30] .edit none).seq.next.or (firstCue (showing [cue30] .edit none).cues) = some 30 ∧
          findCue (showing [cue30] .edit none).cues 30 = some cue30) ∧
      (running.Open ∧ running.seq.scan = none ∧ running.seq.state = .running ∧
        running.seq.flight = [] ∧ running.seq.state ≠ .edit) ∧
      ((scanning .edit).Open ∧ (scanning .edit).seq.scan ≠ none) ∧
      (State.reset.Open ∧ State.reset.seq.state = .edit ∧ State.reset.cues = [] ∧
        State.reset.seq.state ≠ .running) ∧
      moving.Open ∧ moving.seq.scan = none ∧ moving.seq.state = .running ∧ moving.seq.flight ≠ [] :=
  ⟨⟨showing_open _ _ _, by decide⟩, ⟨test_running_open, by decide⟩, ⟨scanning_open _, by decide⟩,
    ⟨test_reset_open, by decide⟩, Fresh.open ⟨rfl, rfl, rfl⟩, by decide⟩

theorem showing_waiting (cues : List Cue) (state : ShowState) (next : Option Nat) (c : Chan) :
    ((showing cues state next).chan c).waiting = [] := by
  show ((Tab.replicate 56 (Channel.afterReset ChannelConfig.powerOn 1024)).get c).waiting = []
  rw [Tab.get_replicate]
  rfl

theorem waiting_next (state : ShowState) (left : Nat) : (waiting state left).NextAlone cue20 :=
  ⟨⟨rfl, rfl, fun c p h => by
    rw [show ((waiting state left).chan c).waiting = [] from
      showing_waiting [cue20, cue40] state (some 20) c] at h
    cases h⟩, fun d h => by
      have h : some cue40 = some d := h
      cases h
      decide⟩

theorem test_witness_HoldResumes_wait :
    (waiting .hold 0).resetLow = false ∧ (waiting .hold 0).seq.state = .hold ∧
      (waiting .hold 0).seq.arm = .waiting 0 .wall ∧ (waiting .hold 0).NextTold cue20 ∧
        cue20.trigger = .follow ∧ (waiting .hold 0).Open ∧ (waiting .hold 0).seq.scan = none ∧
          (waiting .hold 0).contacts.cfg.guard ≤ (waiting .hold 0).seq.gateTime ∧
            ((waiting .hold 0).contact .cgo).qualified = false :=
  ⟨rfl, rfl, rfl, .inl (waiting_next .hold 0), rfl, waiting_open _ _, rfl, by decide, by decide⟩

theorem test_wait_of_0_expires_at_the_return_to_SHOW :
    (after (.resume .own []) (waiting .hold 0)).seq.standing = some 20 ∧
      (after (.resume .own []) (waiting .hold 1)).seq.standing = none := by decide +kernel

theorem test_witness_HoldResumes_arms :
    let s := showing [cue30] .hold (some 30)
    (s.seq.arm = .empty ∧ s.seq.scan = none ∧ s.seq.next.bind (findCue s.cues) = some cue30) ∧
      (showing [] .hold none).seq.next.bind (findCue (showing [] .hold none).cues) = none ∧
        (scanning .hold).seq.scan ≠ none := by decide

theorem test_witness_HoldResumes :
    (showing [cue30] .hold (some 30)).Open ∧ (showing [cue30] .hold (some 30)).seq.state = .hold ∧
      (∀ b, (showing [cue30] .hold (some 30)).seq.arm ≠ .waiting 0 b) ∧
        (showing [cue30] .hold (some 30)).seq.scan = none ∧
          (showing [cue30] .hold (some 30)).contacts.cfg.guard ≤
            (showing [cue30] .hold (some 30)).seq.gateTime ∧
            ((showing [cue30] .hold (some 30)).contact .cgo).qualified = false ∧
            (((0x27 : Byte) ++ (0x0F : Byte) : BitVec 16)).toNat ≤ 9999 ∧
              (waiting .hold 1).seq.arm ≠ .empty ∧ (∀ b, (waiting .hold 1).seq.arm ≠ .waiting 0 b) ∧
                running.Open ∧ running.seq.state ≠ .hold :=
  ⟨showing_open _ _ _, rfl, fun _ => Arm.noConfusion, rfl, by decide, by decide, by decide, by decide,
    fun b h => by cases b <;> revert h <;> decide, test_running_open, by decide⟩

/-- `moving`, with `n` notices waiting. -/
def noticed (n : Nat) : State :=
  moving.setSeq { moving.seq with
    notices := List.replicate n { kind := .complete, cue := 40, firing := 9, cause := none } }

theorem test_witness_StopAndSafeClear :
    (∀ n, (noticed n).Open ∧ ((noticed n).seq.state = .running ∨ (noticed n).seq.state = .hold) ∧
      (noticed n).seq.state ≠ .safe) ∧
      (1 = 16 - (noticed 15).seq.notices.length ∧ 0 = (noticed 15).seq.flight.length - 1) ∧
      (0 = 16 - (noticed 16).seq.notices.length ∧ 1 = (noticed 16).seq.flight.length - 0) ∧
      ((showing [] .safe none).Open ∧ (showing [] .safe none).seq.state = .safe) ∧
        State.reset.Open ∧ State.reset.seq.state = .edit :=
  ⟨fun _ => ⟨Fresh.open ⟨rfl, rfl, rfl⟩, .inl rfl, ShowState.noConfusion⟩, by decide, by decide,
    ⟨showing_open _ _ _, rfl⟩, test_reset_open, rfl⟩

theorem test_cleared_notice_that_finds_16 :
    (after (.stop .own []) (noticed 16)).seq.overflow = 1 ∧
      (after (.stop .own []) (noticed 16)).flagged .noticeOverflow = true ∧
        (after (.stop .own []) (noticed 15)).flagged .noticeOverflow = false := by decide

/-- A part in SAFE that returns to `ret`, at cue 20. -/
def safeTo (ret : ShowState) (scan : Option Scan) : State :=
  let s := showing [cue20, cue40] .safe (some 20)
  s.setSeq { s.seq with ret, scan }

theorem safeTo_open (ret : ShowState) (scan : Option Scan) : (safeTo ret scan).Open :=
  Fresh.open ⟨rfl, rfl, rfl⟩

theorem test_witness_SafeReleased :
    ((safeTo .edit none).Open ∧ (safeTo .edit none).seq.state = .safe ∧
      (safeTo .edit none).seq.ret = .edit) ∧
      ((safeTo .hold (some ⟨20, 0, false, 0⟩)).Open ∧
        (safeTo .hold (some ⟨20, 0, false, 0⟩)).seq.state = .safe ∧
        (safeTo .hold (some ⟨20, 0, false, 0⟩)).seq.ret = .hold ∧
          (safeTo .hold (some ⟨20, 0, false, 0⟩)).seq.scan ≠ none) ∧
      ((safeTo .hold none).Open ∧ (safeTo .hold none).seq.state = .safe ∧
        (safeTo .hold none).seq.ret = .hold ∧ (safeTo .hold none).seq.scan = none ∧
          (safeTo .hold none).seq.next = some 20 ∧ findCue (safeTo .hold none).cues 20 = some cue20) ∧
      running.Open ∧ running.seq.state ≠ .safe :=
  ⟨⟨safeTo_open _ _, by decide⟩, ⟨safeTo_open _ _, by decide⟩, ⟨safeTo_open _ _, by decide⟩,
    test_running_open, by decide⟩

theorem showing_next {cues : List Cue} {q : Cue} (h : findCue cues q.number = some q) :
    (showing cues .running (some q.number)).NextIs q :=
  ⟨rfl, h, fun c p e => by rw [showing_waiting] at e; cases e⟩

theorem running_alone : running.NextAlone cue10 :=
  ⟨showing_next (cues := [cue10, cue40]) (q := cue10) (by decide), fun d h => by
    revert h; revert d; decide +kernel⟩

/-- A WITH cue whose wait is 0. -/
def cueWith : Cue := { cue20 with trigger := .withCue, wait := 0 }

/-- A show in SHOW at cue 10, with a cue of no wait after it, and cue 40. -/
def chained : State := showing [cue10, cueWith, cue40] .running (some 10)

theorem chained_next : chained.NextChained cue10 cueWith :=
  ⟨showing_next (cues := [cue10, cueWith, cue40]) (q := cue10) (by decide), by decide +kernel, rfl, .inl rfl,
    fun c p h => (by
      rw [show (chained.chan c).waiting = [] from
        showing_waiting [cue10, cueWith, cue40] .running (some 10) c] at h
      cases h),
    fun d h => by revert h; revert d; decide +kernel⟩

theorem test_witness_GoFires_chain :
    chained.seq.state = .running ∧ chained.seq.scan = none ∧
      chained.contacts.cfg.guard ≤ chained.seq.gateTime ∧ chained.NextChained cue10 cueWith ∧
        chained.Open ∧ chained.seq.notices.length + chained.seq.flight.length ≤ 11 :=
  ⟨rfl, rfl, by decide, chained_next, Fresh.open ⟨rfl, rfl, rfl⟩, by decide⟩

/-- `chained`, with seven firings in flight. -/
def chained7 : State := chained.setSeq { chained.seq with
  nextId := 8
  flight := (List.range 7).map fun i => { id := i + 1, cue := 40, cause := .goLink, outstanding := 1 } }

/-- No move ends at either firing of the chain, and the second finds eight in flight (R73). -/
theorem test_witness_GoFires_chain_retires :
    chained7.EndsNone cue10 ∧ (chained7.fire .goLink).EndsNone cueWith ∧
      8 ≤ (chained7.fire .goLink).seq.flight.length ∧ chained.EndsNone cue10 := by
  unfold State.EndsNone
  decide +kernel

theorem test_with_cue_fires_at_the_same_instant :
    (after (.go .own [0, 0]) chained).seq.standing = some 20 ∧
      (after (.go .own [0, 0]) chained).seq.nextId = 3 := by decide +kernel

theorem test_witness_GoFires_clock_after : (showing [cue10, cue30] .running (some 10)).NextAlone cue10 :=
  ⟨showing_next (cues := [cue10, cue30]) (q := cue10) (by decide), fun d h => by
    revert h; revert d; decide +kernel⟩

theorem slow_next : (showing [cue40, { cue20 with number := 50 }] .running (some 40)).NextSlow cue40 :=
  ⟨showing_next (cues := [cue40, { cue20 with number := 50 }]) (q := cue40) (by decide), by decide,
    fun d h => by revert h; revert d; decide +kernel⟩

theorem test_witness_GoFires :
    (running.seq.state = .running ∧ running.seq.scan = none ∧
      running.contacts.cfg.guard ≤ running.seq.gateTime ∧ running.NextTold cue10 ∧
        cue10.number ≤ 9999 ∧ (10 = 0 ∨ 10 = cue10.number) ∧ running.Open ∧ running.resetLow = false ∧
          (running.contact .cgo).qualified = false) ∧
      (showing [cue40, { cue20 with number := 50 }] .running (some 40)).NextTold cue40 :=
  ⟨⟨rfl, rfl, by decide, .inl running_alone, by decide, by decide, test_running_open, rfl, by decide⟩,
    .inr slow_next⟩

theorem test_witness_GoRefused :
    9999 < (((0x27 : Byte) ++ (0x10 : Byte) : BitVec 16)).toNat ∧
      ((scanning .running).Open ∧ (scanning .running).seq.scan ≠ none) ∧
      (State.reset.Open ∧ State.reset.seq.scan = none ∧ State.reset.seq.state = .edit) ∧
      ((running.setSeq { running.seq with gateTime := 499 }).Open ∧
        (running.setSeq { running.seq with gateTime := 499 }).seq.gateTime <
          (running.setSeq { running.seq with gateTime := 499 }).contacts.cfg.guard) ∧
      (running.Open ∧ running.contacts.cfg.guard ≤ running.seq.gateTime ∧ running.seq.next ≠ none ∧
        running.seq.next ≠ some (((0x27 : Byte) ++ (0x0F : Byte) : BitVec 16)).toNat) ∧
      (showing [] .running none).Open ∧ (showing [] .running none).seq.next = none :=
  ⟨by decide, ⟨scanning_open _, by decide⟩, ⟨test_reset_open, by decide⟩,
    ⟨Fresh.open ⟨rfl, rfl, rfl⟩, by decide⟩, ⟨test_running_open, by decide⟩, showing_open _ _ _, rfl⟩

theorem test_witness_BackMoves :
    ((showing [cue10, cue30] .hold none).Open ∧ running.ListInOrder ∧
      findCue (showing [cue10, cue30] .hold none).cues 30 = some cue30 ∧
        lastCue (showing [cue10, cue30] .hold none).cues = some 30 ∧
          ((showing [cue10, cue30] .hold none).contact .cback).qualified = false) ∧
      (findCue (showing [cue10, cue40] .running (some 40)).cues 10 = some cue10 ∧
        cueBefore (showing [cue10, cue40] .running (some 40)).cues 40 = some 10) ∧
        (running.seq.next = some 10 ∧ cueBefore running.cues 10 = none) ∧
          ((scanning .running).Open ∧ (scanning .running).seq.scan ≠ none) ∧
            State.reset.Open ∧ State.reset.seq.scan = none ∧ State.reset.seq.state = .edit :=
  ⟨⟨showing_open _ _ _, running_in_order, by decide⟩, by decide, by decide, ⟨scanning_open _, by decide⟩,
    test_reset_open, by decide⟩

theorem test_witness_GotoLoads :
    (running.Open ∧ (1 ≤ 10 ∧ 10 ≤ 9999) ∧ 65535 ≤ 65535 ∧ running.seq.scan = none ∧
      findCue running.cues 10 ≠ none ∧ findCue running.cues 9999 = none) ∧
      ((scanning .running).Open ∧ (scanning .running).seq.scan ≠ none) ∧
      ∀ state, (scanning state).resetLow = false ∧
        (scanning state).seq.scan = some { cue := 10, loadTime := 0, clamped := false, age := 0 } ∧
          (scanning state).seq.state = state ∧
            (scanning state).seq.notices.length + (scanning state).seq.flight.length ≤ 16 :=
  ⟨⟨test_running_open, by decide⟩, ⟨scanning_open _, by decide⟩,
    fun _ => ⟨rfl, rfl, rfl, Nat.zero_le _⟩⟩

theorem test_witness_WaitExpires :
    ((waiting .running 0).resetLow = false ∧ (waiting .running 0).seq.state = .running ∧
      (waiting .running 0).seq.arm = .waiting 0 .wall ∧ (waiting .running 0).NextTold cue20 ∧
        (cue20.trigger = .follow ∨ cue20.trigger = .withCue)) ∧
      ((waiting .running 65536).seq.arm = .waiting 65536 .wall ∧
        (waiting .running 65536).showAdvances .wall = true ∧
          65536 ≤ (waiting .running 65536).advance .wall ∧ 65536 < cue20.wait * 65536 ∧
            (waiting .running 65536).NextTold cue20) ∧
      ((waiting .running 65537).seq.arm = .waiting 65537 .wall ∧
        (waiting .running 65537).advance .wall < 65537) ∧ (waiting .hold 0).seq.state ≠ .running :=
  ⟨⟨rfl, rfl, rfl, .inl (waiting_next .running 0), .inl rfl⟩,
    ⟨rfl, rfl, by decide, by decide, .inl (waiting_next .running 65536)⟩, ⟨rfl, by decide⟩, by decide⟩

theorem test_witness_WaitExpires_just_set :
    let s := showing [{ cue20 with wait := 1 }] .running (some 20)
    let t := s.setSeq { s.seq with arm := .waiting 65536 .wall }
    t.seq.arm = .waiting 65536 .wall ∧ t.nextCue = some { cue20 with wait := 1 } ∧
      ({ cue20 with wait := 1 } : Cue).wait * 65536 ≤ 65536 := by decide

/-- A wait of whose 500 ms one is left, for a cue before a CLOCK cue whose point P reaches in the next
millisecond (R125). -/
def handingOver : State :=
  let s := showing [cue20, cue30] .running (some 20)
  (s.setSeq { s.seq with arm := .waiting 65536 .wall }).setClock
    { s.clock with state := .locked, whole := 59999, song := 3 }

theorem test_hand_over_before_and_after_the_advance :
    (after .clockAdvance (after .waitExpiry handingOver)).seq.standing = some 30 ∧
      (after .waitExpiry (after .clockAdvance handingOver)).seq.standing = some 20 ∧
        (after .waitExpiry (after .clockAdvance handingOver)).clock.point = some (3, 60000) := by
  decide +kernel

theorem test_witness_NoticesHandedOut :
    running.Open ∧ (1 ≤ 1 ∧ 1 ≤ 16) ∧ (1 ≤ 16 ∧ 16 ≤ 16) ∧ (0 : Byte).toNat = 0 ∧
      16 < (17 : Byte).toNat := ⟨test_running_open, by decide⟩

/-! #### Moves -/

/-- A pending mute of firing 1, some of whose delay has passed. -/
def mute1 (delay : Nat) : PendingMove :=
  { action := .mute, target := -800, duration := 0, curve := .linear, delay, base := .wall, firing := 1
    cue := 10, counted := true }

/-- A show whose firing 1 has one move left, a mute that waits alone on channel 1, and whose arm awaits
it. -/
def lastMove : State :=
  let s := showing [cue10, cue20, cue40] .running (some 20)
  (s.setSeq { s.seq with
    flight := [{ id := 1, cue := 10, cause := .goLink, outstanding := 1 }], arm := .await 1 }).setChan 0
      { s.chan 0 with waiting := [mute1 0] }

theorem test_witness_MovesStartAndEnd_counts :
    ((moving.seq.flight.find? fun g => g.id == 1) =
      some { id := 1, cue := 10, cause := .goLink, outstanding := 2 }) ∧
      (moving.seq.flight.find? fun g => g.id == 2) = none ∧
        ((lastMove.seq.flight.find? fun g => g.id == 1) =
          some { id := 1, cue := 10, cause := .goLink, outstanding := 1 }) ∧
          lastMove.seq.notices.length < 16 ∧ lastMove.seq.arm = .await 1 ∧
            lastMove.nextCue = some cue20 := by decide

theorem test_witness_MovesStartAndEnd_starts :
    (∃ p : PendingMove, (moving.chan 0).waiting = [p] ∧ moving.showAdvances p.base = true ∧
      p.counted = true ∧ p.delay ≤ moving.advance p.base ∧
      p.action = .level ∧ (((moving.reportActive 0).setChan 0 { moving.chan 0 with
        waiting := []
        level := (moving.chan 0).level
        active := some { target := p.target, duration := p.duration, curve := p.curve, base := p.base
                         owner := .firing p.firing p.cue, start := (moving.chan 0).level
                         elapsed := 0 } })).waitDue = false) ∧
      (∃ p : PendingMove, (lastMove.chan 0).waiting = [p] ∧ lastMove.showAdvances p.base = true ∧
        p.counted = true ∧ p.delay ≤ lastMove.advance p.base ∧
        p.action ≠ .level ∧ ((lastMove.setChan 0 { lastMove.chan 0 with
          waiting := [], cue := decide (p.action = .mute) }).countEnd p.firing).waitDue = false) ∧
      let s := running.setChan 0 { running.chan 0 with waiting := [mute1 5, mute1 5, mute1 65537] }
      (s.chan 0).waiting = mute1 5 :: [mute1 5, mute1 65537] ∧
        s.showAdvances (mute1 5).base = true ∧ (mute1 5).counted = true ∧
          (mute1 5).delay ≤ s.advance (mute1 5).base ∧ ∀ id, s.seq.arm ≠ .await id :=
  ⟨⟨_, rfl, by decide, rfl, by decide, by decide, by decide⟩,
    ⟨_, rfl, by decide, rfl, by decide, by decide, by decide⟩, rfl, by decide, rfl, by decide,
    fun _ => Arm.noConfusion⟩

theorem test_witness_MovesStartAndEnd_ends :
    (∃ m : ActiveMove, (moving.chan 0).active = some m ∧ moving.moveAdvances m = true ∧ 0 < m.elapsed ∧
      m.duration * 65536 ≤ m.elapsed + moving.advance m.counts ∧
      ((moving.setChan 0 { moving.chan 0 with level := m.target, active := none }).reportEnd
        m.owner).waitDue = false) ∧
      let held := moving.setSeq { moving.seq with state := .hold }
      (∀ p ∈ (held.chan 0).waiting, held.showAdvances p.base = false) ∧
        (∀ m, (held.chan 0).active = some m → held.moveAdvances m = false) :=
  ⟨⟨_, rfl, by decide, by decide, by decide, by decide⟩, by decide, fun m h => by cases h; decide⟩

theorem test_witness_MovesStartAndEnd_not_due :
    let placed := running.setChan 0 { running.chan 0 with waiting := pendingFor cue10 1 0 }
    let later := running.setChan 0 { running.chan 0 with waiting := [mute1 65537] }
    (∀ p ∈ (placed.chan 0).waiting, p.counted = false) ∧
      (∀ p ∈ (later.chan 0).waiting, later.advance p.base < p.delay) ∧
        (∀ m, ((after (.level .own [1, 0xFF, 0xC4, 0, 0, 100, 0]) running).chan 0).active = some m →
          m.elapsed = 0) ∧
          ({ moving with seq := { moving.seq with state := .running } } : State).advance .wall = 65536 :=
  ⟨by decide, by decide, by decide, rfl⟩

theorem test_witness_MovesStartAndEnd_placed :
    (∀ m ∈ cue40.moves, m.channel ≠ 0) ∧ (∃ m ∈ cue10.moves, m.channel = 0) ∧
      (∀ p ∈ (moving.chan 0).waiting, p.firing = 1) ∧
        (moving.seq.flight.find? fun g => g.id == 1) =
          some { id := 1, cue := 10, cause := .goLink, outstanding := 2 } ∧
            (moving.chan 0).waiting.length < 2 := by decide

theorem test_move_in_its_last_millisecond_ends :
    ((after (.moveComplete 0) moving).chan 0).level = -60 ∧
      ((after (.moveStart 0) moving).chan 0).waiting = [] := by decide

theorem test_level_leaves_no_end_due :
    let s := after (.level .own [1, 0xFF, 0xC4, 0, 0, 1, 0]) moving
    after (.moveComplete 0) s = s := by decide +kernel

/-! #### The show clock -/

/-- A clock in `state` at `whole` in song 3, with `good` good marks. -/
def clocked (state : ClockState) (whole good : Nat) : State :=
  State.reset.setClock { State.reset.clock with state, whole, song := 3, good }

theorem test_witness_MarksPlaceClock :
    State.reset.resetLow = false ∧ (99 : Byte).toNat ≤ 99 ∧ (5999999#32).toNat ≤ 5999999 ∧
      (1 : Byte).getLsbD 0 = true ∧ (0 : Byte).getLsbD 0 = false ∧ State.reset.clock.state = .none ∧
        (clocked .locked 0 0).clock.song ≠ (99 : Byte).toNat ∧
          ((clocked .locked 1000 0).clock.cfg.relocate : Int) <
            |((899 + (clocked .locked 1000 0).clock.cfg.markDelay : Nat) : Int) -
              (clocked .locked 1000 0).clock.whole| := by decide

theorem test_witness_MarksCorrectClock :
    (∀ state : ClockState, (clocked state 1000 3).resetLow = false ∧ (clocked state 1000 3).ClockInRange ∧
      (clocked state 1000 3).clock.state = state ∧
        (clocked state 1000 3).clock.song = (3 : Byte).toNat) ∧
      ((-100 : Int) = ((900 + 0 : Nat) : Int) - 1000 ∧ |(-100 : Int)| ≤ 100) ∧
        ((20 : Int) = ((1020 + 0 : Nat) : Int) - 1000 ∧ |(20 : Int)| ≤ 20) ∧
          ((21 : Int) = ((1021 + 0 : Nat) : Int) - 1000 ∧ (20 : Int) < |(21 : Int)|) :=
  ⟨fun state => ⟨rfl, by
    cases state <;> unfold State.ClockInRange ClockConfig.InRange <;> decide, rfl, rfl⟩, by decide⟩

/-- A show at cue 30 with its point armed, the locked clock just below it, and cue 40 or 20 after it. -/
def crossing (state : ShowState) (after : Cue) : State :=
  let s := showing [cue30, { after with number := 40 }] state (some 30)
  (s.setSeq { s.seq with arm := .clock 3 60000 }).setClock
    { s.clock with state := .locked, whole := 59999, song := 3, point := some (3, 60000) }

theorem crossing_next (after : Cue) : (crossing .running after).NextIs cue30 :=
  ⟨rfl, rfl, fun c p h => by
    rw [show ((crossing .running after).chan c).waiting = [] from
      showing_waiting [cue30, { after with number := 40 }] .running (some 30) c] at h
    cases h⟩

/-- The mark at 60,005 of song 3, 6 ms ahead of a clock at 59,999: a step of 1 ms (R117). -/
def mark60005 : Instr := .timeMark 3 60005 1 (markCheck 3 60005 1)

theorem test_witness_MarksCorrectClock_crossing (state : ShowState) :
    (crossing state cue40).resetLow = false ∧ (crossing state cue40).ClockInRange ∧
      (crossing state cue40).clock.song = (3 : Byte).toNat ∧
        (6 : Int) = ((60005 + (crossing state cue40).clock.cfg.markDelay : Nat) : Int) -
          (crossing state cue40).clock.whole ∧ |(6 : Int)| ≤ (crossing state cue40).clock.cfg.relocate ∧
          (crossing state cue40).clock.point = some ((3 : Byte).toNat, 60000) ∧
            (crossing state cue40).clock.whole < 60000 ∧ (crossing state cue40).seq.state = state :=
  ⟨rfl, by cases state <;> unfold State.ClockInRange ClockConfig.InRange <;> decide, rfl,
    by cases state <;> decide, by cases state <;> decide, rfl, by cases state <;> decide, rfl⟩

theorem test_witness_MarksCorrectClock_fires :
    60000 ≤ (after mark60005 (crossing .running cue40)).clock.whole ∧
      (after mark60005 (crossing .running cue40)).clock.state = .locked ∧
        (crossing .running cue40).NextTold cue30 :=
  ⟨by decide +kernel, by decide +kernel, .inl ⟨crossing_next _, fun d h => by
    revert h; revert d; decide +kernel⟩⟩

theorem test_phase_step_crosses :
    (after mark60005 (crossing .running cue40)).seq.standing = some 30 ∧
      (after mark60005 (crossing .hold cue40)).seq.standing = none := by decide +kernel

theorem test_show_end_ends_a_crossing :
    let s := after mark60005 (crossing .running cue40)
    let t := after (.showEnd .own []) { s with link := State.reset.link }
    s.seq.crossed = some 30 ∧ t.seq.state = .edit ∧ t.seq.crossed = none := by decide +kernel

theorem test_witness_BadMarksCounted :
    State.reset.resetLow = false ∧
      ((1 : Byte) ≠ markCheck 0 0 0 ∨ 99 < (0 : Byte).toNat ∨ 5999999 < (0#32).toNat) ∧
        (100 : Byte).toNat = 100 ∧ (6000000#32).toNat = 6000000 := by decide

/-- A clock in `state` whose two timers stand at `mark` and `free`. -/
def timed (state : ClockState) (mark free : Nat) : State :=
  running.setClock { running.clock with state, markTimer := mark, freewheelTimer := free }

theorem test_witness_TimersRunOut :
    ((timed .locking 99 0).clock.state = .locking ∧
      (timed .locking 99 0).clock.cfg.markTimeout ≤ (timed .locking 99 0).clock.markTimer + 1) ∧
      ((timed .locked 99 0).clock.cfg.markTimeout ≤ (timed .locked 99 0).clock.markTimer + 1 ∧
        (timed .locked 99 0).clock.cfg.freewheel ≠ 0) ∧
      ({ ClockConfig.powerOn with freewheel := 0 } : ClockConfig).freewheel = 0 ∧
      ((timed .freewheel 0 1999).clock.state = .freewheel ∧
        (timed .freewheel 0 1999).clock.cfg.freewheel ≤
          (timed .freewheel 0 1999).clock.freewheelTimer + 1) ∧
      ((holding [] none).setLink { State.reset.link with
        limit := 100, watchdog := .running, timer := 99 }).link.watchdog = .running ∧
      (timed .locked 98 0).clock.markTimer + 1 < (timed .locked 98 0).clock.cfg.markTimeout ∧
      (timed .freewheel 0 1998).clock.freewheelTimer + 1 <
        (timed .freewheel 0 1998).clock.cfg.freewheel ∧
        State.reset.link.watchdog ≠ .running ∧ running.seq.state = .running := by decide

theorem rests {s : State} (h : s.shown.touch = s.surface.touch.map TouchLine.qualified)
    (hk : s.shown.keys = s.surface.keys.map TouchLine.qualified)
    (hc : ∀ l, (s.polarity l).active (s.shown.contacts.get l.index) = (s.contact l).qualified) :
    s.LinesRest :=
  ⟨fun f => by simp [State.touchTurns, h, Tab.get_map], fun f => by simp [State.keyTurns, hk, Tab.get_map],
    fun l => by simp [State.contactTurns, hc l]⟩

/-- A clock in FREEWHEEL that reaches its limit and the clock point in the next millisecond (R125). -/
def losing : State :=
  let s := crossing .running cue40
  s.setClock { s.clock with state := .freewheel, freewheelTimer := 1999 }

theorem test_witness_TimersRunOut_loss_first :
    losing.resetLow = false ∧ losing.clock.state = .freewheel ∧
      losing.clock.cfg.freewheel ≤ losing.clock.freewheelTimer + 1 ∧ losing.events.actLost = .none ∧
        losing.LinesRest ∧ losing.PointMatches ∧ losing.clock.point ≠ none :=
  ⟨rfl, rfl, by decide, rfl, rests rfl rfl fun l => by cases l <;> rfl, rfl, by decide⟩

theorem test_freewheel_limit_before_and_after_the_advance :
    (after .clockAdvance (after .freewheelLimit losing)).seq.standing = none ∧
      (after .clockAdvance (after .freewheelLimit losing)).clock.whole = 59999 ∧
        (after .freewheelLimit (after .clockAdvance losing)).seq.standing = some 30 ∧
          (after .freewheelLimit (after .clockAdvance losing)).clock.state = .lost := by decide +kernel

theorem test_witness_ClockAdvances :
    ((clocked .locked 4294967294 0).resetLow = false ∧ (clocked .locked 4294967294 0).clock.state =
      .locked ∧ (clocked .locked 4294967294 0).clock.whole +
        ((clocked .locked 4294967294 0).clock.frac + (clocked .locked 4294967294 0).clock.rate) / 65536 ≤
          4294967295) ∧ (clocked .lost 0 0).clock.state = .lost ∧
      moving.LinesRest ∧ moving.clock.point = none ∧ ∀ id, moving.seq.arm ≠ .await id :=
  ⟨by decide, rfl, rests (by decide) (by decide) (fun l => by cases l <;> decide), rfl,
    fun _ => Arm.noConfusion⟩

/-- A part whose fader 1, on channel 5, is in `state`, its touch line active or not, and channel 5 in
hand state `hand`. -/
def touched (state : FaderState) (active : Bool) (hand : Hand) : State :=
  let s := State.reset.setFader 0 { Fader.fresh (some 4) with state }
  (s.setSurface { s.surface with
    touch := s.surface.touch.set 0 { level := active, qualified := active, count := 0 } }).setChan 4
      { s.chan 4 with hand }

/-- `touched`, with the touch line one sample short of a change. -/
def turning (state : FaderState) (active : Bool) (hand : Hand) : State :=
  let s := touched state active hand
  (s.setSurface { s.surface with
    touch := s.surface.touch.set 0 { level := active, qualified := active, count := 2 } }).setInputs
      [{ s.pins with touch := (Tab.replicate 16 false).set 0 (!active) }]

theorem test_witness_ClockAdvances_touch :
    ((turning .free false .free).touchTurns 0 = true ∧
      (∀ g, g ≠ 0 → (turning .free false .free).touchTurns g = false) ∧
      (turning .free false .free).slotUsed 0 = true ∧
      ((turning .free false .free).fader 0).mapping = some 4 ∧
      ((turning .free false .free).surface.touch.get 0).qualified = false ∧
      ((turning .free false .free).fader 0).state = .free) ∧
      (turning .holding true (.held (-800))).touchTurns 0 = true ∧
      (∀ g, g ≠ 0 → (turning .holding true (.held (-800))).touchTurns g = false) ∧
      ((turning .holding true (.held (-800))).surface.touch.get 0).qualified = true ∧
      ((turning .holding true (.held (-800))).fader 0).state = .holding ∧
      ((turning .holding true (.held (-800))).chan 4).hand = .held (-800) := by decide +kernel

theorem test_witness_ClockAdvances_keys :
    let s := touched .free false .free
    let t := (s.setSurface { s.surface with
      keys := s.surface.keys.set 0 { level := false, qualified := false, count := 2 } }).setInputs
        [{ s.pins with keys := (Tab.replicate 16 false).set 0 true }]
    t.keyTurns 0 = true ∧ (∀ g, g ≠ 0 → t.keyTurns g = false) ∧ t.touchTurns 0 = false ∧
      t.slotUsed 0 = true ∧ (t.fader 0).mapping = some 4 := by decide +kernel

theorem test_witness_ClockAdvances_contacts :
    let at4 (i : Fin 4) := (running.setContacts { running.contacts with
      lines := running.contacts.lines.set i { high := false, qualified := false, count := 4 } }).setInputs
        [{ running.pins with contacts := (Tab.replicate 4 true).set i false }]
    ((at4 3).contactTurns .csafe = true ∧ ((at4 3).contact .csafe).qualified = false) ∧
      (at4 2).contactTurns .chold = true ∧ ((at4 2).contact .chold).qualified = false ∧
        (at4 2).contactTurns .csafe = false ∧ (at4 2).seq.state = .running := by decide +kernel

/-- `s` with contact line `l` one sample short of a press, and its pin low in the next millisecond. -/
def pressing (s : State) (l : ContactLine) : State :=
  (s.setContacts { s.contacts with
    lines := s.contacts.lines.set l.index { high := false, qualified := false, count := 4 } }).setInputs
      [{ s.pins with contacts := (Tab.replicate 4 true).set l.index false }]

theorem pressing_alone {s : State} (hs : s.surface = State.reset.surface)
    (hc : s.contacts = State.reset.contacts) (l : ContactLine) : (pressing s l).PressedAlone l := by
  have ht : ∀ f, (pressing s l).touchTurns f = (pressing State.reset l).touchTurns f := by
    intro f
    simp [State.touchTurns, pressing, State.shown, State.pins, hs]
    congr
  have hk : ∀ f, (pressing s l).keyTurns f = (pressing State.reset l).keyTurns f := by
    intro f
    simp [State.keyTurns, pressing, State.shown, State.pins, hs]
    congr
  have hl : ∀ k, (pressing s l).contactTurns k = (pressing State.reset l).contactTurns k := by
    intro k
    simp [State.contactTurns, State.polarity, State.contact, pressing, State.shown, State.pins, hc]
    congr
  have hq : ∀ k, (pressing s l).contact k = (pressing State.reset l).contact k := by
    simp [State.contact, pressing, hc]
  unfold State.PressedAlone
  simp only [ht, hk, hl, hq]
  cases l <;> refine ⟨by decide +kernel, by decide, by decide +kernel, by decide +kernel, ?_⟩ <;>
    intro k <;> cases k <;> decide +kernel

theorem test_witness_ClockAdvances_go :
    ((pressing State.reset .cgo).PressedAlone .cgo ∧ (pressing State.reset .cgo).seq.state = .edit ∧
      (pressing State.reset .cgo).clock.point = none ∧ (pressing State.reset .cgo).seq.arm = .empty) ∧
      ((pressing (scanning .running) .cgo).PressedAlone .cgo ∧
        (pressing (scanning .running) .cgo).seq.scan ≠ none) ∧
      (let s := pressing (running.setSeq { running.seq with gateTime := 498 }) .cgo;
        s.PressedAlone .cgo ∧ countUp 65535 s.seq.gateTime < s.contacts.cfg.guard) ∧
      (let s := pressing (showing [cue10] .hold (some 10)) .cgo;
        s.PressedAlone .cgo ∧ s.seq.scan = none ∧ s.seq.state = .hold ∧
          s.contacts.cfg.guard ≤ countUp 65535 s.seq.gateTime ∧ ∀ b, s.seq.arm ≠ .waiting 0 b) ∧
      (let s := pressing (showing [cue10] .running none) .cgo;
        s.PressedAlone .cgo ∧ s.seq.state = .running ∧ s.seq.next = none) ∧
      (let s := pressing running .cgo;
        s.PressedAlone .cgo ∧ s.seq.scan = none ∧ s.seq.state = .running ∧
          s.contacts.cfg.guard ≤ countUp 65535 s.seq.gateTime ∧ s.NextTold cue10 ∧
            s.seq.flight = [] ∧ s.seq.notices = []) :=
  ⟨⟨pressing_alone rfl rfl _, rfl, rfl, rfl⟩, ⟨pressing_alone rfl rfl _, by decide⟩,
    ⟨pressing_alone rfl rfl _, by decide⟩,
    ⟨pressing_alone rfl rfl _, rfl, rfl, by decide, fun _ => Arm.noConfusion⟩,
    ⟨pressing_alone rfl rfl _, rfl, rfl⟩,
    ⟨pressing_alone rfl rfl _, rfl, rfl, by decide, .inl running_alone, rfl, rfl⟩⟩

theorem test_witness_ClockAdvances_back :
    ((pressing State.reset .cback).PressedAlone .cback ∧
      (pressing State.reset .cback).seq.state = .edit) ∧
      (let s := pressing running .cback;
        s.PressedAlone .cback ∧ s.seq.scan = none ∧ s.seq.state = .running ∧
          s.seq.next = some 10 ∧ cueBefore s.cues 10 = none) ∧
      (let s := pressing (showing [] .hold none) .cback;
        s.PressedAlone .cback ∧ s.seq.state = .hold ∧ s.seq.next = none ∧ s.cues = []) ∧
      (let s := pressing (showing [cue10, cue30] .hold none) .cback;
        s.PressedAlone .cback ∧ s.seq.next = none ∧ lastCue s.cues = some 30 ∧
          findCue s.cues 30 = some cue30) ∧
      (let s := pressing (showing [cue10, cue40] .running (some 40)) .cback;
        s.PressedAlone .cback ∧ s.seq.next = some 40 ∧ cueBefore s.cues 40 = some 10 ∧
          findCue s.cues 10 = some cue10) :=
  ⟨⟨pressing_alone rfl rfl _, rfl⟩, ⟨pressing_alone rfl rfl _, rfl, rfl, rfl, by decide⟩,
    ⟨pressing_alone rfl rfl _, rfl, rfl, rfl⟩, ⟨pressing_alone rfl rfl _, rfl, by decide⟩,
    ⟨pressing_alone rfl rfl _, rfl, by decide⟩⟩

/-- R150 to R153: a GO press in SHOW fires the next cue, one in EDIT is counted, and a BACK press moves
next back. -/
theorem test_contacts_at_the_sample :
    (after .clockAdvance (pressing running .cgo)).seq.standing = some 10 ∧
      (after .clockAdvance (pressing State.reset .cgo)).contacts.ignored = 1 ∧
      (after .clockAdvance (pressing (showing [cue10, cue40] .running (some 40)) .cback)).seq.next =
        some 10 := by decide +kernel

theorem test_witness_CrossingFires (state : ShowState) (after : Cue) :
    (crossing state after).resetLow = false ∧ (crossing state after).seq.state = state ∧
      (crossing state after).clock.state = .locked ∧
        (crossing state after).seq.arm = .clock (crossing state after).clock.song 60000 ∧
          (crossing state after).PointMatches ∧ (crossing state after).LinesRest ∧
            (crossing state after).clock.whole < 60000 ∧
              60000 ≤ (crossing state after).clock.whole +
                ((crossing state after).clock.frac + (crossing state after).clock.rate) / 65536 ∧
                60000 ≤ 5999999 ∧ (crossing state after).seq.flight = [] ∧
                  (crossing state after).seq.notices = [] :=
  ⟨rfl, rfl, rfl, rfl, rfl,
    rests (s := crossing state after) (by
        show State.reset.pins.touch = State.reset.surface.touch.map TouchLine.qualified
        decide)
      (by
        show State.reset.pins.keys = State.reset.surface.keys.map TouchLine.qualified
        decide)
      (fun l => by
        show (State.reset.polarity l).active (State.reset.pins.contacts.get l.index) =
          (State.reset.contact l).qualified
        cases l <;> decide),
    (by decide : 59999 < 60000), (by decide : 60000 ≤ 59999 + (0 + 65536) / 65536), by decide, rfl, rfl⟩

theorem test_witness_CrossingFires_told :
    (crossing .running cue40).NextAlone cue30 ∧ (crossing .running cue20).NextSlow cue30 :=
  ⟨⟨crossing_next _, fun d h => by revert h; revert d; decide +kernel⟩, crossing_next _, by decide,
    fun d h => by revert h; revert d; decide +kernel⟩

theorem test_witness_SetupsStored :
    running.Open ∧
      (∃ k c : ClockConfig, k.markDelay < 256 ∧ k.lockWindow < 256 ∧ k.relocate < 65536 ∧
        k.markTimeout < 65536 ∧ k.freewheel < 65536 ∧ k.phaseDepth < 256 ∧ k.rateDepth < 256 ∧
        c = { markDelay := min k.markDelay 50, lockWindow := max 1 (min 100 k.lockWindow)
              relocate := max 20 (min 1000 k.relocate), markTimeout := max 20 (min 1000 k.markTimeout)
              freewheel := min k.freewheel 10000, phaseDepth := min k.phaseDepth 7
              rateDepth := min k.rateDepth 15 } ∧ k ≠ c ∧
        c.markTimeout ≤ (timed .locking 20 0).clock.markTimer ∧ c.freewheel = 0 ∧
          c.freewheel ≤ (timed .freewheel 0 0).clock.freewheelTimer) ∧
      (∃ k c : ContactConfig, k.qualify < 256 ∧ k.guard < 65536 ∧
        c = { qualify := max 1 (min 31 k.qualify), polarity := k.polarity
              guard := min k.guard 2000 } ∧ k ≠ c ∧
        k.polarity.get ContactLine.cgo.index ≠ running.polarity .cgo ∧
          k.polarity.get ContactLine.csafe.index = running.polarity .csafe) ∧
      1 < (2 : Byte).toNat :=
  ⟨test_running_open,
    ⟨{ markDelay := 255, lockWindow := 0, relocate := 65535, markTimeout := 0, freewheel := 0
       phaseDepth := 8, rateDepth := 16 }, _, by decide, by decide, by decide, by decide, by decide,
      by decide, by decide, rfl, by decide, by decide, by decide, by decide⟩,
    ⟨{ qualify := 0, polarity := (Tab.replicate 4 .activeLow).set 0 .activeHigh, guard := 65535 }, _,
      by decide, by decide, rfl, by decide, by decide, by decide⟩, by decide⟩

/-! #### The fader surface -/

theorem touched_free : ∀ c : Chan, c ≠ 4 →
    ((touched .holding true (.held (-800))).chan c).hand = .free := by decide +kernel

theorem touched_agrees : (touched .holding true (.held (-800))).HandsAgree := by
  unfold State.HandsAgree State.Holds
  refine ⟨by decide +kernel, by decide +kernel, ?_, by decide +kernel, by decide +kernel⟩
  intro c h e
  by_cases k : c = 4
  · subst k
    exact ⟨0, by decide⟩
  · rw [touched_free c k] at e
    cases e

/-- A part in PAIRED mode. -/
def paired : State :=
  State.reset.setSurface { State.reset.surface with cfg := { SurfaceConfig.powerOn with mode := .paired } }

theorem test_witness_PassJudged :
    (touched .holding true (.held (-800))).resetLow = false ∧
      (touched .holding true (.held (-800))).HandsAgree ∧
        (touched .holding true (.held (-800))).Holds 0 4 ∧
          (touched .holding true (.held (-800))).surface.cfg.mode = .sequential ∧
            ((14 : Slot).val = 2 * (7 : Slot).val ∧ (15 : Slot).val = 2 * (7 : Slot).val + 1) ∧
            paired.surface.cfg.mode = .paired := ⟨rfl, touched_agrees, ⟨rfl, rfl⟩, by decide⟩

theorem test_witness_TouchesAndKeys :
    ((touched .free false .free).resetLow = false ∧
      ((touched .free false .free).surface.touch.get 0).qualified = false ∧
        (touched .free false .free).slotUsed 0 = true ∧
          ((touched .free false .free).fader 0).state = .free ∧
            ((touched .free false .free).fader 0).mapping = some 4 ∧
              (∀ h, ((touched .free false .free).chan 4).hand ≠ .held h) ∧
                ((touched .free false (.held 0)).chan 4).hand = .held 0 ∧
                  ((touched .free false .free).fader 1).mapping = none ∧ paired.slotUsed 8 = false) ∧
      ((touched .free false .free).surface.keys.get 0).qualified = false ∧
        ((after (.keyPress 0) State.reset).surface.keys.get 0).qualified = true ∧
          ((touched .free true .free).surface.touch.get 0).qualified = true :=
  ⟨⟨rfl, by decide, by decide, by decide, by decide, fun _ => Hand.noConfusion, rfl, by decide,
    by decide⟩, by decide +kernel⟩

theorem test_witness_ReleaseHandsBack :
    ((touched .holding true (.held (-800))).resetLow = false ∧
      ((touched .holding true (.held (-800))).surface.touch.get 0).qualified = true ∧
        (touched .holding true (.held (-800))).slotUsed 0 = true ∧
          (touched .holding true (.held (-800))).Holds 0 4 ∧
            ((touched .holding true (.held (-800))).chan 4).hand = .held (-800) ∧
              ((touched .holding true (.held (-800))).fader 0).pending = none ∧
                (touched .holding true (.held (-800))).seq.state ≠ .running) ∧
      ((touched .blocked true (.held 0)).fader 0).state = .blocked ∧
        ((touched .free true .free).fader 0).state = .free ∧
          (({ touched .free true .free with
            surface := { (touched .free true .free).surface with cfg := paired.surface.cfg } } :
              State).slotUsed 15 = false) ∧
            (({ (touched .blocked true (.held 0)).fader 0 with pending := some none } : Fader).pending =
              some none) :=
  ⟨⟨rfl, by decide, by decide, ⟨rfl, rfl⟩, rfl, by decide, by decide⟩, by decide⟩

/-- A show at a FOLLOW cue of wait 0 that awaits the last move of firing 1, active on channel 5 under the
hand of fader 1 in KEEP mode. -/
def keepLast : State :=
  let s := touched .holding true (.held (-800))
  ({ s with
    cues := [cue10, { cue20 with wait := 0 }, cue40]
    seq := { s.seq with
      state := .running, next := some 20, arm := .await 1, nextId := 2
      flight := [{ id := 1, cue := 10, cause := .goLink, outstanding := 1 }] } }).setChan 4
    { s.chan 4 with
      cfg := { (s.chan 4).cfg with release := .keep }
      active := some { target := -60, duration := 1000, curve := .linear, base := .wall
                       owner := .firing 1 10, start := -800, elapsed := 65536 } }

/-- `keepLast` as the release leaves it before the wait of 0 expires. -/
def keptLast : State :=
  let s := (keepLast.reportActive 4).setChan 4 { keepLast.chan 4 with
    level := -800, hand := .free, active := none }
  (s.setSurface { s.surface with
    touch := keepLast.surface.touch.set 0 { level := false, qualified := false, count := 0 } }).setFader 0
      { keepLast.fader 0 with state := .free }

theorem keptLast_waiting : ∀ c, (keptLast.chan c).waiting = [] := by decide +kernel

theorem test_witness_ReleaseHandsBack_wait :
    (keepLast.resetLow = false ∧ (keepLast.surface.touch.get 0).qualified = true ∧
      keepLast.slotUsed 0 = true ∧ keepLast.Holds 0 4 ∧ (keepLast.chan 4).hand = .held (-800) ∧
        (keepLast.chan 4).cfg.release = .keep ∧ (keepLast.fader 0).pending = none) ∧
      keepLast.seq.state = .running ∧ keptLast.seq.arm = .waiting 0 .wall ∧
        keptLast.seq.arm ≠ keepLast.seq.arm ∧ keptLast.NextTold { cue20 with wait := 0 } :=
  ⟨⟨rfl, by decide, by decide, ⟨rfl, rfl⟩, rfl, rfl, rfl⟩, rfl, by decide +kernel, by decide +kernel,
    .inl ⟨⟨by decide +kernel, by decide +kernel, fun c p h => by rw [keptLast_waiting] at h; cases h⟩,
      fun d h => by revert h; revert d; decide +kernel⟩⟩

/-- R74, R77, R101: the TAKEN end completes firing 1, and the FOLLOW cue of wait 0 fires. -/
theorem test_keep_release_lets_the_follow_cue_fire :
    (after (.qualifiedRelease 0) keepLast).seq.standing = some 20 := by decide +kernel

/-- A bank with channel 5 in slot 1. -/
def someBank : Bank := (Tab.replicate 16 none).set 0 (some 4)

/-- A bank with channel 5 in slots 1 and 16. -/
def doubledBank : Bank := someBank.set 15 (some 4)

theorem reset_banks : State.reset.BanksDistinct := by unfold State.BanksDistinct; decide +kernel

theorem test_witness_SurfaceRequests :
    (State.reset.Open ∧ State.reset.BanksDistinct ∧ State.reset.HandsAgree ∧
      (∀ id, State.reset.seq.arm ≠ .await id) ∧ State.reset.surface.cfg.mode = .sequential) ∧
      (paired.Open ∧ paired.BanksDistinct ∧ paired.HandsAgree ∧ paired.surface.cfg.mode = .paired) ∧
      (∃ k c : SurfaceConfig, k.period < 256 ∧ k.hysteresis < 256 ∧ k.tolerance < 256 ∧
        k.qualify < 256 ∧
        c = { mode := k.mode, period := max 1 (min 8 k.period), hysteresis := min k.hysteresis 15
              tolerance := min k.tolerance 63, qualify := max 1 (min 15 k.qualify) } ∧ k ≠ c) ∧
      (7 : Fin 8) ≠ State.reset.surface.activeBank ∧ (0 : Fin 8) = State.reset.surface.activeBank ∧
        (∀ f g, f ≠ g → someBank.get f ≠ none → someBank.get f ≠ someBank.get g) ∧
          (∃ f g, f ≠ g ∧ doubledBank.get f ≠ none ∧ doubledBank.get f = doubledBank.get g) := by
  have agrees : ∀ s : State, (∀ f, (s.fader f).state = .free) → (∀ c, (s.chan c).hand = .free) →
      s.HandsAgree := by
    intro s hf hc
    refine ⟨fun f e => ?_, fun f c e => ?_, fun c h e => ?_, fun f g c e => ?_, fun f _ => hf f⟩
    · rw [hf f] at e; cases e
    · have := e.1; rw [hf f] at this; cases this
    · rw [hc c] at e; cases e
    · have := e.1; rw [hf f] at this; cases this
  exact ⟨⟨test_reset_open, reset_banks, agrees _ (by decide +kernel) (by decide +kernel),
      fun _ => Arm.noConfusion, rfl⟩,
    ⟨Fresh.open ⟨rfl, rfl, rfl⟩, reset_banks, agrees _ (by decide +kernel) (by decide +kernel), rfl⟩,
    ⟨{ mode := .paired, period := 0, hysteresis := 255, tolerance := 255, qualify := 0 }, _, by decide,
      by decide, by decide, by decide, rfl, by decide⟩,
    by decide, rfl, by decide +kernel, ⟨0, 15, by decide⟩⟩

theorem test_witness_SurfaceRequests_refused :
    1 < (2 : Byte).toNat ∧ ((List.replicate 15 (0 : Byte)) ++ [57]).length = 16 ∧
      (∃ b ∈ (List.replicate 15 (0 : Byte)) ++ [57], 56 < b.toNat) ∧ (0 : Byte).toNat = 0 ∧
        8 < (9 : Byte).toNat := ⟨by decide, rfl, ⟨57, by simp, by decide⟩, rfl, by decide⟩

/-! The clauses of a takeover and of a bank: a slot that comes under an active touch line. -/

theorem test_witness_Taken :
    let s := (paired.setSurface { paired.surface with
      banks := paired.surface.banks.set 0 ((Tab.replicate 16 none).set 8 (some 4))
      touch := paired.surface.touch.set 8 { level := true, qualified := true, count := 0 } })
    s.surface.cfg.mode = .paired ∧ s.bankSlot 8 = some 4 ∧ (s.surface.touch.get 8).qualified = true ∧
      (∀ h, (s.chan 4).hand ≠ .held h) ∧ (touched .free true .free).slotUsed 0 = true ∧
        ((touched .free true .free).fader 0).state = .free ∧
          someBank.get 0 = some 4 ∧ (someBank.set 0 (some 5)).get 0 ≠
            ((touched .free true .free).fader 0).mapping ∧
              ((touched .free true .free).surface.touch.get 0).qualified = true :=
  ⟨rfl, by decide +kernel, by decide +kernel, (by
    intro h e
    rw [show ((paired.setSurface { paired.surface with
      banks := paired.surface.banks.set 0 ((Tab.replicate 16 none).set 8 (some 4))
      touch := paired.surface.touch.set 8 { level := true, qualified := true, count := 0 } }).chan
        4).hand = .free by decide +kernel] at e
    cases e), by decide, by decide, by decide, by decide, by decide⟩

/-! #### The cue contacts -/

theorem test_witness_ContactPresses :
    running.resetLow = false ∧ (running.contact .chold).qualified = false ∧
      (running.contact .csafe).qualified = false ∧ (running.contact .cgo).qualified = false ∧
        State.reset.seq.state = .edit ∧ State.reset.seq.state ≠ .running ∧
          (∀ i, ((running.contacts.lines.map fun l : Contact => { l with qualified := true }).get i).qualified =
            true) ∧
            (scanning .running).seq.scan ≠ none ∧ (showing [] .running none).seq.next = none ∧
              (showing [] .running none).contacts.cfg.guard ≤
                (showing [] .running none).seq.gateTime := by decide

/-! #### The gain output lines and level arithmetic -/

/-- A part that has had one frame event: every line is sending. -/
def sending : State := after .frameEvent State.reset

/-- A part that has had two frame events at once, with this act of LINE_LATE: every stage is full. -/
def staged (act : Act) : State :=
  let s := after .frameEvent sending
  s.setEvents { s.events with actLate := act }

theorem test_witness_FrameEventBuilds (act : Act) :
    (State.reset.resetLow = false ∧ (State.reset.output.lines.get 0).shift = none) ∧
      ((sending.output.lines.get 3).shift ≠ none ∧ (sending.output.lines.get 3).stage = none ∧
        sending.output.surfaceShift ≠ none) ∧
        (staged act).resetLow = false ∧ ((staged act).output.lines.get 0).shift ≠ none ∧
          ((staged act).output.lines.get 0).stage ≠ none ∧ (staged act).events.actLate = act := by
  refine ⟨by decide, by decide +kernel, ?_⟩
  cases act <;> decide +kernel

theorem test_witness_FrameEventBuilds_limited :
    let s := State.reset.setChan 0 { State.reset.chan 0 with
      level := 100, cfg := { (State.reset.chan 0).cfg with trim := 50 } }
    (s.chan 0).limited = false ∧
      (effectiveLevel (s.chan 0).used (s.chan 0).cfg.trim none).2 = true ∧ (s.chan 0).cfg.group = none ∧
        (0 : Chan).val = (0 : Strip).val := by decide

theorem test_witness_OutputLines :
    (∃ h, (sending.output.lines.get 3).shift = some h ∧ 0 ≤ h.left) ∧
      (∃ h, sending.output.surfaceShift = some h) ∧
        (after .clockAdvance sending).output.surfaceShift.map Shifting.left = some (2496 - 18432) ∧
        State.reset.Open ∧
        (∃ k : OutputConfig, (k.period = 1 ∨ k.period = 2 ∨ k.period = 4 ∨ k.period = 8) ∧
          (∀ n, k.dividers.get n < 256) ∧ k.dividers.get 0 = 0 ∧ k.dividers.get 3 = 255) ∧
            ((3 : Byte).toNat ≠ 1 ∧ (3 : Byte).toNat ≠ 2 ∧ (3 : Byte).toNat ≠ 4 ∧ (3 : Byte).toNat ≠ 8) ∧
            (∀ q, q ≠ 47 → State.reset.output.routes.get q ≠ some (3, 63)) ∧
              (State.reset.output.routes.set 5 (some (3, 63))).get 5 = some (3, 63) ∧
                48 < (49 : Byte).toNat ∧ 4 < (5 : Byte).toNat ∧ (1 : Byte).toNat ≠ 0 ∧
                  64 < (65 : Byte).toNat :=
  ⟨⟨_, rfl, by decide +kernel⟩, ⟨_, rfl⟩, by decide +kernel, test_reset_open,
    ⟨{ period := 8, dividers := (Tab.replicate 4 255).set 0 0 }, by decide⟩, by decide +kernel⟩

/-- A gain frame of words of 0. -/
def blank : Frame := { count := 65535, safe := false, hold := false, content := .gain (List.replicate 64 0) }

/-- A part that sends `blank` on line 1 at divider 7, with so many cycles left. -/
def lined (left : Int) : State := State.reset.setOutput { State.reset.output with
  lines := State.reset.output.lines.set 0
    { shift := some { frame := blank, bitTime := 8, left }, stage := none, late := 0 } }

theorem test_witness_OutputLines_pins (left : Int) :
    ((lined left).output.lines.get 0).shift = some { frame := blank, bitTime := 8, left } ∧
      (12736 : Int) = (blank.sendTime 8 : Nat) - (8 * 0 + 0 : Nat) ∧
      (1 : Int) = (blank.sendTime 8 : Nat) - (8 * 1591 + 7 : Nat) ∧
      (State.reset.output.lines.get 0).shift = none ∧ State.reset.output.surfaceShift = none :=
  ⟨rfl, by decide, by decide, rfl, rfl⟩

/-- R165: bits 0 and 1 of 0x5A, at the start of their periods and at the rising edge of the second. -/
theorem test_pins_of_a_send :
    (lined 12736).gainPins 0 = (false, false) ∧ (lined (12736 - 8)).gainPins 0 = (false, true) ∧
      (lined (12736 - 12)).gainPins 0 = (true, true) := by decide +kernel

theorem test_witness_OutputLines_frames :
    (blank.count < 65536 ∧ blank.content = .gain (List.replicate 64 0) ∧
      (List.replicate 64 0).length = 64 ∧ ∀ w ∈ List.replicate 64 0, w < 16777216) ∧
      (List.replicate 16 ({ target := 1023, drive := true, tally := true } : SlotEntry)).length = 16 ∧
        ∀ e ∈ List.replicate 16 ({ target := 1023, drive := true, tally := true } : SlotEntry),
          e.target < 1024 := by
  refine ⟨⟨by decide, rfl, by decide, by decide⟩, by decide, by decide⟩

theorem test_witness_OutputLines_duplicate :
    (State.reset.setOutput { State.reset.output with
      routes := State.reset.output.routes.set 5 (some (3, 63)) }).RoutesDistinct := by
  unfold State.RoutesDistinct
  decide +kernel

theorem test_witness_GainTable : gainTable[0]? = some 1048576 ∧ gainTable[199]?.isSome = true := by
  decide

theorem test_witness_MuteStep :
    State.reset.resetLow = false ∧ (1 ≤ 10 ∧ 1024 * 2 ≤ 205 * 10 ∧
      ∀ x : Nat, 1024 * 2 ≤ x * 10 → 205 ≤ x) ∧ 1024 ≤ 1024 := by
  refine ⟨rfl, ⟨by decide, by decide, fun x h => by omega⟩, by decide⟩

/-- Strip 1 in group 1, whose master, channel 49, has OPERATOR set. -/
def grouped : State :=
  let s := State.reset.setChan 0 { State.reset.chan 0 with
    cfg := { (State.reset.chan 0).cfg with group := some 0 } }
  s.setChan 48 { s.chan 48 with operator := true }

/-- R7, R8, R198: bit 3 of the strip, bit 1 of the master, and nothing of another strip. -/
theorem test_group_mute :
    grouped.muteSources 0 = 8 ∧ grouped.muteSources 48 = 2 ∧ grouped.muteSources 1 = 0 := by decide

theorem test_witness_MoveLevelBetween_rounded :
    0 < 3000 ∧ (16384 : Int) = (min 750 3000 * 65536 / 3000 : Nat) ∧
      (10240 : Int) = max 0 (min 65536 (3 * (16384 * 16384 / 65536) -
        2 * (16384 * 16384 / 65536 * 16384 / 65536))) ∧ RoundedAway (140 * 10240) 65536 22 := by
  unfold RoundedAway
  decide

theorem test_witness_MoveLevelBetween :
    (1000 ≤ 1000 ∧ 0 < 1000 ∧ Curve.snapEnd ≠ .snapStart ∧ 500 ≤ 500 ∧ 0 < 500) ∧
      ((130 : Int) = 80 + 50 + (Option.elim none 0 fun g : Int × Int => g.1 + g.2) ∧
        (-60 : Int) = -178 + 100 + (Option.elim (some (20, -2)) 0 fun g : Int × Int => g.1 + g.2) ∧
          (-850 : Int) = -700 + -150 + (Option.elim none 0 fun g : Int × Int => g.1 + g.2)) ∧
        (gainTable[1]? = some 1060718 ∧ -800 < ((1 : Nat) : Int) - 200 * (4 : Nat)) ∧
          gainTable[100]? = some 3315888 ∧ ((100 : Nat) : Int) - 200 * (0 : Nat) ≤ 100 := by decide

/-! #### What every step keeps -/

theorem test_witness_ClockKept :
    (∃ t, step running = .next t) ∧ running.ClockInRange ∧ running.PointMatches :=
  ⟨⟨_, rfl⟩, by unfold State.ClockInRange ClockConfig.InRange; decide, rfl⟩

theorem test_witness_ShowKept :
    running.ShowConsistent ∧ (safeTo .hold none).seq.state = .safe ∧
      ∃ t, exec (.safeRelease .own []) (safeTo .hold none) = .next t ∧ t.seq.state ≠ .safe :=
  ⟨by unfold State.ShowConsistent; decide, rfl, _, rfl, by decide⟩

theorem test_witness_QueuesKept :
    moving.QueuesFit ∧ moving.ListInOrder ∧ moving.PendingKept ∧
      (holding [entry .nothing] none).QueuesFit ∧ (holding [entry .nothing] none).RepliesFit :=
  ⟨by unfold State.QueuesFit; decide, running_in_order,
    by unfold State.PendingKept Channel.ListKept; decide +kernel,
    by unfold State.QueuesFit; decide, by
      intro e h r hr
      have : e = entry .nothing := by simpa [holding] using h
      subst this
      cases hr
      decide⟩

theorem test_witness_StoreKept : running.ListInOrder ∧ running.PlayheadInList :=
  ⟨running_in_order, fun k h => ⟨cue10, by decide, by cases h; rfl⟩, fun k h => (by cases h),
    fun k h => (by cases h)⟩

theorem test_witness_SurfaceKept :
    (touched .holding true (.held (-800))).HandsAgree ∧ State.reset.RoutesDistinct ∧
      State.reset.BanksDistinct :=
  ⟨touched_agrees, by unfold State.RoutesDistinct; decide +kernel, reset_banks⟩

theorem moving_chan (c : Chan) (h : c ≠ 0) :
    moving.chan c = Channel.afterReset ChannelConfig.powerOn 1024 := by
  show ((Tab.replicate 56 (Channel.afterReset ChannelConfig.powerOn 1024)).set 0 _).get c = _
  rw [Tab.get_set_ne _ _ (Ne.symm h), Tab.get_replicate]

theorem test_witness_GainsKept : moving.LevelsInRange ∧ moving.OutputBounded := by
  have level : ∀ c, (moving.chan c).InRange := by
    intro c
    by_cases h : c = 0
    · subst h
      refine ⟨by unfold IsLevel; decide, by unfold IsLevel; decide, by unfold IsLevel; decide,
        trivial, fun m e => ?_, fun p e => ?_⟩
      · cases e
        unfold IsLevel
        decide
      · revert p
        unfold IsLevel
        decide
    · rw [moving_chan c h]
      refine ⟨by unfold IsLevel; decide, by unfold IsLevel; decide, by unfold IsLevel; decide,
        trivial, fun _ e => (by cases e), fun _ e => (by cases e)⟩
  have lines : ∀ n, (moving.output.lines.get n).shift = none ∧ (moving.output.lines.get n).stage = none := by
    decide
  refine ⟨⟨level, by unfold IsLevel; decide, by decide⟩, by decide +kernel, fun n => ?_,
    fun _ e => (by cases e), fun _ e => (by cases e)⟩
  rw [(lines n).1, (lines n).2]
  exact ⟨fun _ e => (by cases e), fun _ e => (by cases e)⟩

theorem test_witness_RetainedWritten :
    (∃ t, exec (.resetPin 0) running = .next t) ∧ (Instr.resetPin 0).writesRetained = false ∧
      ∀ x, Instr.resetPin 0 ≠ .powerOn x := ⟨⟨_, rfl⟩, rfl, fun _ => Instr.noConfusion⟩

end Sys2Proof.Tests
end

section
/-!
PROOF. The level arithmetic of chapter 2: bounds, end values and order of moves, glides, effective levels,
gain words and the fader law (R5, R22 to R29, R32, R34, R36 to R38).
-/

namespace Sys2Proof.Machine

/-! ### Moves and glides (R22 to R27) -/

/-- A level at a shaped progress lies between its two ends (R24). -/
theorem levelAt_between (a b : Int) {q : Int} (h0 : 0 ≤ q) (h1 : q ≤ 65536) :
    min a b ≤ levelAt a b q ∧ levelAt a b q ≤ max a b := by
  unfold levelAt roundAway
  rcases le_total a b with hab | hab
  · have hlo : 0 ≤ (b - a) * q := mul_nonneg (by omega) h0
    have hhi : (b - a) * q ≤ (b - a) * 65536 := mul_le_mul_of_nonneg_left h1 (by omega)
    omega
  · have hlo : 0 ≤ (a - b) * q := mul_nonneg (by omega) h0
    have hhi : (a - b) * q ≤ (a - b) * 65536 := mul_le_mul_of_nonneg_left h1 (by omega)
    have e : (b - a) * q = -((a - b) * q) := by ring
    omega

theorem levelAt_zero (a b : Int) : levelAt a b 0 = a := by
  simp [levelAt, roundAway]

theorem levelAt_full (a b : Int) : levelAt a b 65536 = b := by
  unfold levelAt roundAway
  omega

theorem progress_le (t d : Nat) : progress t d ≤ 65536 :=
  Nat.div_le_of_le_mul (Nat.mul_le_mul_right _ (Nat.min_le_right t d))

theorem progress_full {t d : Nat} (hd : 0 < d) (h : d ≤ t) : progress t d = 65536 := by
  rw [progress, Nat.min_eq_right h, Nat.mul_div_cancel_left _ hd]

theorem progress_zero (d : Nat) : progress 0 d = 0 := by simp [progress]

/-- Stopping the elapsed time at the duration stops the progress at 65,536 (R22, R26). -/
theorem progress_eq_min (t : Nat) {d : Nat} (hd : 0 < d) : progress t d = min (t * 65536 / d) 65536 := by
  rcases le_total t d with h | h
  · have := progress_le t d
    rw [progress, Nat.min_eq_left h] at *
    omega
  · have : 65536 ≤ t * 65536 / d :=
      (Nat.le_div_iff_mul_le hd).mpr (by rw [Nat.mul_comm]; exact Nat.mul_le_mul_right _ h)
    rw [progress_full hd h]
    omega

theorem Curve.shape_nonneg (k : Curve) (p : Nat) : 0 ≤ k.shape p := by
  unfold Curve.shape clampInt
  omega

theorem Curve.shape_le (k : Curve) (p : Nat) : k.shape p ≤ 65536 := by
  unfold Curve.shape clampInt
  omega

theorem Curve.shape_full (k : Curve) : k.shape 65536 = 65536 := by
  cases k <;> decide

theorem Curve.shape_zero {k : Curve} (h : k ≠ .snapStart) : k.shape 0 = 0 := by
  cases k with
  | snapStart => exact absurd rfl h
  | linear | easeIn | easeOut | scurve | snapEnd => decide

theorem moveLevel_between (a b : Int) (d t : Nat) (k : Curve) :
    min a b ≤ moveLevel a b d k t ∧ moveLevel a b d k t ≤ max a b := by
  unfold moveLevel
  split
  · omega
  · exact levelAt_between a b (k.shape_nonneg _) (k.shape_le _)

theorem moveLevel_over (a b : Int) {d t : Nat} (k : Curve) (h : d ≤ t) : moveLevel a b d k t = b := by
  unfold moveLevel
  split
  · rfl
  · rw [progress_full (by omega) h, Curve.shape_full, levelAt_full]

theorem moveLevel_started (a b : Int) {d : Nat} {k : Curve} (hd : 0 < d) (hk : k ≠ .snapStart) :
    moveLevel a b d k 0 = a := by
  rw [moveLevel, if_neg (by omega), progress_zero, Curve.shape_zero hk, levelAt_zero]

theorem glideLevel_between (h a : Int) (since time : Nat) :
    min h a ≤ glideLevel h a since time ∧ glideLevel h a since time ≤ max h a := by
  unfold glideLevel
  split
  · omega
  · have := progress_le since time
    exact levelAt_between h a (by omega) (by omega)

theorem glideLevel_over (h a : Int) {since time : Nat} (k : time ≤ since) :
    glideLevel h a since time = a := by
  unfold glideLevel
  split
  · rfl
  · rw [progress_full (by omega) k]
    exact levelAt_full h a

theorem glideLevel_started (h a : Int) {time : Nat} (k : 0 < time) : glideLevel h a 0 time = h := by
  rw [glideLevel, if_neg (by omega), progress_zero]
  exact levelAt_zero h a

/-- The level of a move is its start and its share of the way, by the formula of its curve (R23, R24). -/
theorem moveLevel_rounded (a b : Int) {d : Nat} (t : Nat) (k : Curve) (hd : 0 < d) :
    ∃ n, moveLevel a b d k t = a + n ∧ RoundedAway ((b - a) * k.shape (progress t d)) 65536 n := by
  rw [moveLevel, if_neg (by omega)]
  exact levelAt_rounded a b _

theorem glideLevel_rounded (h a : Int) (since : Nat) {time : Nat} (k : 0 < time) :
    ∃ n, glideLevel h a since time = h + n ∧
      RoundedAway ((a - h) * (progress since time : Nat)) 65536 n := by
  rw [glideLevel, if_neg (by omega)]
  exact levelAt_rounded h a _

/-! ### The effective level (R28, R29) -/

theorem effectiveLevel_off (v trim : Int) (master : Option (Int × Int))
    (h : v = -800 ∨ ∃ g, master = some g ∧ g.1 = -800) :
    effectiveLevel v trim master = (-800, false) := by
  unfold effectiveLevel
  rcases h with h | ⟨g, rfl, hg⟩
  · rw [if_pos h]
  · simp [hg]

theorem effectiveLevel_sum {v trim : Int} {master : Option (Int × Int)} (hv : v ≠ -800)
    (hm : ∀ g, master = some g → g.1 ≠ -800) :
    effectiveLevel v trim master = saturate (v + trim + master.elim 0 fun g => g.1 + g.2) := by
  unfold effectiveLevel
  rw [if_neg hv]
  cases master with
  | none => simp
  | some g => simp [hm g rfl]

theorem saturate_isLevel (e : Int) : IsLevel (saturate e).1 := by
  unfold saturate IsLevel
  repeat' split
  all_goals dsimp only; omega

theorem isLevel_off : IsLevel (-800) := by unfold IsLevel; omega

/-- Whatever it is formed from, the effective level is a level (R29). -/
theorem effectiveLevel_isLevel (v trim : Int) (master : Option (Int × Int)) :
    IsLevel (effectiveLevel v trim master).1 := by
  unfold effectiveLevel
  repeat' split
  · exact isLevel_off
  · exact saturate_isLevel _
  · exact isLevel_off
  · exact saturate_isLevel _

/-! ### The gain word (R32 to R34) -/

/-- Each entry of the table is greater than the one before it (R33). -/
theorem gainTable_isChain : gainTable.IsChain (· < ·) := by decide +kernel

theorem gainTable_ascending : gainTable.Pairwise (· < ·) := gainTable_isChain.pairwise

theorem gainTable_length : gainTable.length = 200 := by decide +kernel

/-- The table does not fall from one entry to a later one (R33). -/
theorem gainTable_mono {i j a b : Nat} (hi : gainTable[i]? = some a) (hj : gainTable[j]? = some b)
    (h : i ≤ j) : a ≤ b := by
  obtain ⟨hi', rfl⟩ := List.getElem?_eq_some_iff.mp hi
  obtain ⟨hj', rfl⟩ := List.getElem?_eq_some_iff.mp hj
  rcases h.eq_or_lt with rfl | h
  · exact Nat.le_refl _
  · exact (List.pairwise_iff_getElem.mp gainTable_ascending i j hi' hj' h).le

/-- A level as a remainder of the table and a number of decades below (R32). -/
theorem unscaledGain_eq {r k v : Nat} (h : gainTable[r]? = some v) :
    unscaledGain ((r : Int) - 200 * k) = if k = 0 then v else (v + 10 ^ k / 2) / 10 ^ k := by
  have hr : r < 200 := by
    rw [← gainTable_length]
    exact (List.getElem?_eq_some_iff.mp h).1
  have e1 : (-(((r : Int) - 200 * k) / 200)).toNat = k := by omega
  have e2 : (((r : Int) - 200 * k) % 200).toNat = r := by omega
  simp only [unscaledGain, e1, e2, List.getD_eq_getElem?_getD, h, Option.getD_some]

/-- Every level above OFF is an entry of the table and at most four decades below (R32). -/
theorem exists_decade {e : Int} (h0 : -800 < e) (h1 : e ≤ 100) :
    ∃ r k v : Nat, gainTable[r]? = some v ∧ e = (r : Int) - 200 * k ∧ k ≤ 4 ∧ (k = 0 → r ≤ 100) ∧
      (k = 4 → 1 ≤ r) := by
  have hr : (e % 200).toNat < gainTable.length := by
    rw [gainTable_length]
    omega
  exact ⟨(e % 200).toNat, (-(e / 200)).toNat, _, List.getElem?_eq_getElem hr, by omega, by omega, by omega,
    by omega⟩

theorem unscaledGain_bounds {e : Int} (h0 : -800 < e) (h1 : e ≤ 100) :
    106 ≤ unscaledGain e ∧ unscaledGain e ≤ 3315888 := by
  obtain ⟨r, k, v, hv, rfl, hk, hr, hr'⟩ := exists_decade h0 h1
  have lo : 1048576 ≤ v := gainTable_mono (i := 0) (by decide) hv (by omega)
  have hi : v ≤ 10365730 := gainTable_mono (j := 199) hv (by decide)
    (by have := (List.getElem?_eq_some_iff.mp hv).1; rw [gainTable_length] at this; omega)
  rw [unscaledGain_eq hv]
  interval_cases k
  · have : v ≤ 3315888 := gainTable_mono (j := 100) hv (by decide) (hr rfl)
    simp only [if_true]
    omega
  · norm_num
    omega
  · norm_num
    omega
  · norm_num
    omega
  · have : 1060718 ≤ v := gainTable_mono (i := 1) (by decide) hv (hr' rfl)
    norm_num
    omega

theorem unscaledGain_rounded {r k v : Nat} (hk : k ≤ 4) (h : gainTable[r]? = some v) :
    2 * 10 ^ k * unscaledGain ((r : Int) - 200 * k) ≤ 2 * v + 10 ^ k ∧
      2 * v + 10 ^ k < 2 * 10 ^ k * (unscaledGain ((r : Int) - 200 * k) + 1) := by
  rw [unscaledGain_eq h]
  interval_cases k <;> norm_num <;> omega

theorem gainWord_off (m : Nat) : gainWord (-800) m = 0 := rfl

theorem gainWord_eq {e : Int} (h : -800 < e) (m : Nat) : gainWord e m = unscaledGain e * m / 1024 := by
  rw [gainWord, if_neg (by omega)]

/-- A gain word is at most that of +100 (R34). -/
theorem gainWord_le {e : Int} {m : Nat} (he : IsLevel e) (hm : m ≤ 1024) : gainWord e m ≤ 3315888 := by
  obtain ⟨h0, h1⟩ := he
  rcases h0.eq_or_lt with rfl | h0
  · rw [gainWord_off]
    omega
  · have h := Nat.mul_le_mul (unscaledGain_bounds h0 h1).2 hm
    rw [gainWord_eq h0]
    omega

/-! ### The fader law (R36 to R38) -/

theorem faderLaw_mono {p q : Nat} (h : p ≤ q) (hq : q ≤ 1023) : faderLaw p ≤ faderLaw q := by
  unfold faderLaw roundHalfUp
  split_ifs <;> omega

theorem faderLaw_isLevel {p : Nat} (h : p ≤ 1023) : IsLevel (faderLaw p) := by
  unfold IsLevel
  exact ⟨faderLaw_mono (p := 0) (Nat.zero_le p) h, faderLaw_mono (q := 1023) h (by omega)⟩

/-- The law from position 16 on, segment by segment (R36). -/
theorem faderLaw_segments {p : Nat} (h0 : 16 ≤ p) : ∃ n : Nat,
    (p < 256 → faderLaw p = -800 + n ∧ RoundedUp (500 * (p - 16)) 240 n) ∧
      (256 ≤ p → p < 768 → faderLaw p = -300 + n ∧ RoundedUp (300 * (p - 256)) 512 n) ∧
      (768 ≤ p → faderLaw p = n ∧ RoundedUp (100 * (p - 768)) 255 n) := by
  rcases lt_or_ge p 256 with h | h
  · refine ⟨_, fun _ => ⟨?_, roundHalfUp_rounded _ (by decide)⟩, by omega, by omega⟩
    rw [faderLaw, if_neg (by omega), if_pos h]
  · rcases lt_or_ge p 768 with h' | h'
    · refine ⟨_, by omega, fun _ _ => ⟨?_, roundHalfUp_rounded _ (by decide)⟩, by omega⟩
      rw [faderLaw, if_neg (by omega), if_neg (by omega), if_pos h']
    · refine ⟨_, by omega, by omega, fun _ => ⟨?_, roundHalfUp_rounded _ (by decide)⟩⟩
      rw [faderLaw, if_neg (by omega), if_neg (by omega), if_neg (by omega)]

/-- The inverse law above OFF, segment by segment (R37). -/
theorem motorTarget_segments {v : Int} (h0 : -800 < v) : ∃ n : Nat,
    (v < -300 → motorTarget v = 16 + n ∧ RoundedUp (240 * (v + 800).toNat) 500 n) ∧
      (-300 ≤ v → v < 0 → motorTarget v = 256 + n ∧ RoundedUp (512 * (v + 300).toNat) 300 n) ∧
      (0 ≤ v → motorTarget v = 768 + n ∧ RoundedUp (255 * v.toNat) 100 n) := by
  rcases lt_or_ge v (-300) with h | h
  · refine ⟨_, fun _ => ⟨?_, roundHalfUp_rounded _ (by decide)⟩, by omega, by omega⟩
    rw [motorTarget, if_neg (by omega), if_pos h]
  · rcases lt_or_ge v 0 with h' | h'
    · refine ⟨_, by omega, fun _ _ => ⟨?_, roundHalfUp_rounded _ (by decide)⟩, by omega⟩
      rw [motorTarget, if_neg (by omega), if_neg (by omega), if_pos h']
    · refine ⟨_, by omega, by omega, fun _ => ⟨?_, roundHalfUp_rounded _ (by decide)⟩⟩
      rw [motorTarget, if_neg (by omega), if_neg (by omega), if_neg (by omega)]

theorem motorTarget_mono {v w : Int} (h : v ≤ w) : motorTarget v ≤ motorTarget w := by
  unfold motorTarget roundHalfUp
  split_ifs <;> omega

theorem motorTarget_le {v : Int} (h : v ≤ 100) : motorTarget v ≤ 1023 := motorTarget_mono (w := 100) h

/-- The law takes a motor target back to its level: exactly from −300 up, within one below (R38). -/
theorem faderLaw_motorTarget {v : Int} (h0 : -800 ≤ v) (h1 : v ≤ 100) :
    (-300 ≤ v ∨ v = -800 → faderLaw (motorTarget v) = v) ∧
      faderLaw (motorTarget v) ≤ v + 1 ∧ v ≤ faderLaw (motorTarget v) + 1 := by
  unfold faderLaw motorTarget roundHalfUp
  split_ifs <;> omega

/-- Settles O52, part by part from the rules above. -/
theorem moveLevelBetween : Obligations.MoveLevelBetween := by
  refine ⟨?moves, ?glides, ?moveFormula, ?glideFormula, ?used, ?effective, gainWord_off, ?words, ?unscaled,
    by decide, ?law, ?lawOff, fun p h _ => faderLaw_segments h, fun v h _ => motorTarget_segments h,
    by decide, fun v w _ h k => ⟨motorTarget_mono h, motorTarget_le k⟩, by decide,
    fun v h k => faderLaw_motorTarget h k⟩
  case moves =>
    intro a b d t k
    obtain ⟨lo, hi⟩ := moveLevel_between a b d t k
    exact ⟨lo, hi, moveLevel_over a b k, moveLevel_started a b⟩
  case glides =>
    intro h a since time
    obtain ⟨lo, hi⟩ := glideLevel_between h a since time
    exact ⟨lo, hi, glideLevel_over h a, glideLevel_started h a⟩
  case moveFormula =>
    intro a b p q d t k hd hp hq
    have e : q = k.shape (progress t d) := by
      rw [hq, hp, ← progress]
      cases k <;> simp [Curve.shape, Curve.raw, clampInt]
    rw [e]
    exact moveLevel_rounded a b t k hd
  case glideFormula =>
    intro h a g since time ht hg
    rw [hg, ← progress_eq_min since ht]
    exact glideLevel_rounded h a since ht
  case used =>
    intro r
    refine ⟨fun h => ?_, fun _ h => ?_, fun _ _ _ h => ?_⟩ <;> rw [Channel.used, h]
  case effective =>
    intro v trim master sum hsum
    refine ⟨effectiveLevel_off v trim master, fun hv hm => ?_⟩
    rw [effectiveLevel_sum hv hm, ← hsum]
    refine ⟨fun h => ?_, fun h h' => ?_, fun h => ?_⟩
    · rw [saturate, if_pos h]
    · rw [saturate, if_neg (by omega), if_neg (by omega)]
    · rw [saturate, if_neg (by omega), if_pos h]
  case words =>
    intro e m h0 h1 hm
    obtain ⟨lo, hi⟩ := unscaledGain_bounds h0 h1
    refine ⟨?_, ?_, ?_, ?_, lo, hi, gainWord_le ⟨h0.le, h1⟩ hm⟩ <;> rw [gainWord_eq h0] <;> omega
  case unscaled =>
    intro k r v hk hv _ _
    exact unscaledGain_rounded hk hv
  case law =>
    intro p q h hq
    exact ⟨(faderLaw_isLevel (h.trans hq)).1, faderLaw_mono h hq, (faderLaw_isLevel hq).2⟩
  case lawOff =>
    intro p h
    obtain h | rfl := h.lt_or_eq
    · rw [faderLaw, if_pos h]
    · decide

end Sys2Proof.Machine
end

section
/-!
PROOF. What the resets leave: the reset pin, power-on, and the invariants at reset (R4, R10, R89, R192 to
R195).
-/

namespace Sys2Proof.Machine

/-- Settles O17: the running state by the law of power-on, the retained values read off `State.reset`. -/
theorem powerOnRestores : Obligations.PowerOnRestores := by
  intro s x
  have cfg (c : Chan) : ((s.takePowerOn x).chan c).cfg = ChannelConfig.powerOn :=
    congrArg Channel.cfg (Tab.get_replicate _ c)
  have banks (k : Fin 8) (f : Slot) : ((s.takePowerOn x).surface.banks.get k).get f = none := by
    rw [show (s.takePowerOn x).surface.banks = Tab.replicate 8 (Tab.replicate 16 none) from rfl,
      Tab.get_replicate, Tab.get_replicate]
  have lines (f : Slot) : ((s.takePowerOn x).surface.touch.get f).level = (s.surface.touch.get f).level ∧
      ((s.takePowerOn x).surface.keys.get f).level = (s.surface.keys.get f).level := by
    simp [State.takePowerOn, TouchLine.afterReset]
  have contacts (l : ContactLine) : ((s.takePowerOn x).contact l).high = (s.contact l).high := by
    simp [State.takePowerOn, State.contact, Contact.afterReset]
  exact ⟨s.takePowerOn x, rfl, rfl, s.takePowerOn_afresh x, rfl, rfl, rfl, rfl, cfg, rfl, rfl, rfl, rfl,
    banks, rfl, Tab.get_replicate _, rfl, rfl, fun l => Tab.get_replicate _ l.index, rfl,
    Tab.get_replicate _, Tab.get_replicate _, rfl, rfl, rfl, rfl, rfl, rfl, rfl, rfl,
    ⟨rfl, rfl, rfl, rfl⟩, rfl, rfl, rfl, rfl, rfl, lines, contacts⟩

/-! ### The reset pin (R192) -/

/-- A link restart is due exactly when the reply to the third step has been sent whole (R193). -/
theorem Link.restartDue_iff (k : Link) : k.restartDue = true ↔
    (∃ x, k.sending = some x ∧ x.left ≤ 0) ∧
      ∃ e rest, k.buffer = e :: rest ∧ e.after = .linkRestart := by
  unfold Link.restartDue
  cases k.sending with
  | none => simp
  | some x =>
    cases k.buffer with
    | nil => simp
    | cons e rest => simp

/-- The level of RESETn is no part of what a reset leaves of the blocks. -/
theorem State.Afresh.setResetLow {t : State} (h : t.Afresh) (x : Bool) : (t.setResetLow x).Afresh :=
  ⟨h.chan, h.seq, h.clock, h.fader, h.lines, h.pass, h.contacts, h.output, h.pins, h.link, h.events⟩

/-- What the input pins show, and the queues from outside, which no reset touches (R132, R148, R157). -/
structure State.PinsKept (s t : State) : Prop where
  wipers : t.surface.wipers = s.surface.wipers
  lines : ∀ f, (t.surface.touch.get f).level = (s.surface.touch.get f).level ∧
    (t.surface.keys.get f).level = (s.surface.keys.get f).level
  contacts : ∀ l, (t.contact l).high = (s.contact l).high
  pending : t.pending = s.pending
  inputs : t.inputs = s.inputs

theorem State.PinsKept.trans {s t u : State} (h : s.PinsKept t) (k : t.PinsKept u) : s.PinsKept u where
  wipers := k.wipers.trans h.wipers
  lines f := ⟨(k.lines f).1.trans (h.lines f).1, (k.lines f).2.trans (h.lines f).2⟩
  contacts l := (k.contacts l).trans (h.contacts l)
  pending := k.pending.trans h.pending
  inputs := k.inputs.trans h.inputs

theorem State.PinsKept.setLink (s : State) (x : Link) : s.PinsKept (s.setLink x) :=
  ⟨rfl, fun _ => ⟨rfl, rfl⟩, fun _ => rfl, rfl, rfl⟩

theorem State.PinsKept.takeReset (s : State) (cause : ResetCause) : s.PinsKept (s.takeReset cause) where
  wipers := rfl
  lines f := by simp [State.takeReset, Surface.afterReset, TouchLine.afterReset]
  contacts l := by simp [State.takeReset, State.contact, Contact.afterReset]
  pending := rfl
  inputs := rfl

/-- While RESETn is low ATTN is not driven (R189). -/
theorem State.attention_of_resetLow {s : State} (h : s.resetLow = true) : s.attention = false := by
  simp [State.attention, h]

/-- Settles O16: one reset, or two in turn where a link restart is due, each by the laws of a reset. -/
theorem resetPinTaken : Obligations.ResetPinTaken := by
  refine ⟨fun s x hs => ?_, fun s => rfl, fun s => s.link.restartDue_iff⟩
  let u := (s.setLink { s.link with straps := x }).takeReset .resetPin
  have restarted : s.RestartedBy u .resetPin := State.takeReset_restarted _ _
  have retained : u.retained = s.retained := State.takeReset_retained _ _
  have pins : s.PinsKept u := (State.PinsKept.setLink s _).trans (State.PinsKept.takeReset _ _)
  have taken : exec (.resetPin x) s =
      .next ((if s.link.restartDue then u.takeReset .linkRestart else u).setResetLow true) := by
    show Host.Outcome.next (if s.resetLow then _ else _) = _
    rw [hs]
    rfl
  rw [taken]
  cases hd : s.link.restartDue with
  | false =>
    exact ⟨_, rfl, rfl, retained, (State.takeReset_afresh _ _).setResetLow true, fun _ => restarted,
      fun h => (by cases h), rfl, State.attention_of_resetLow rfl, rfl, rfl, rfl, pins.wipers, pins.lines,
      pins.contacts, pins.pending, pins.inputs⟩
  | true =>
    have pins' := pins.trans (State.PinsKept.takeReset u .linkRestart)
    exact ⟨_, rfl, rfl, (State.takeReset_retained u _).trans retained,
      (State.takeReset_afresh u _).setResetLow true, fun h => (by cases h),
      fun _ => ⟨rfl, u, restarted, rfl, State.takeReset_restarted u _⟩, rfl,
      State.attention_of_resetLow rfl, rfl, rfl, rfl, pins'.wipers, pins'.lines, pins'.contacts,
      pins'.pending, pins'.inputs⟩

/-! ### The invariants at reset (R195) -/

theorem State.reset_chan (c : Chan) :
    State.reset.chan c = Channel.afterReset ChannelConfig.powerOn 1024 := Tab.get_replicate _ c

theorem State.reset_fader (f : Slot) : State.reset.fader f = Fader.fresh none := Tab.get_replicate _ f

theorem State.reset_line (n : GainNo) :
    State.reset.output.lines.get n = { shift := none, stage := none, late := 0 } := Tab.get_replicate _ n

theorem State.reset_clockInRange : State.reset.ClockInRange := by
  unfold State.ClockInRange ClockConfig.InRange
  decide

theorem State.reset_listInOrder : State.reset.ListInOrder := by
  unfold State.ListInOrder
  decide

theorem State.reset_handsAgree : State.reset.HandsAgree := by
  have free (f : Slot) : (State.reset.fader f).state = .free := by rw [State.reset_fader]; rfl
  have noHold (f : Slot) (c : Chan) : ¬ State.reset.Holds f c := by simp [State.Holds, free]
  have noHand (c : Chan) : (State.reset.chan c).hand = .free := by rw [State.reset_chan]; rfl
  refine ⟨fun f h => ?_, fun f c h => absurd h (noHold f c), fun c h k => ?_,
    fun f g c h => absurd h (noHold f c), fun f _ => free f⟩
  · rw [free] at h
    cases h
  · rw [noHand] at k
    cases k

theorem State.reset_levelsInRange : State.reset.LevelsInRange := by
  refine ⟨fun c => ?_, nofun, fun f => ?_⟩
  · rw [State.reset_chan]
    exact ⟨isLevel_off, isLevel_off, isLevel_off, trivial, nofun, nofun⟩
  · rw [State.reset_fader]
    exact Nat.zero_le _

theorem State.reset_outputBounded : State.reset.OutputBounded := by
  refine ⟨fun c => ?_, fun n => ?_, nofun, nofun⟩
  · rw [State.reset_chan]
    exact Nat.le_refl _
  · rw [State.reset_line]
    exact ⟨nofun, nofun⟩

/-- Settles O53, invariant by invariant. -/
theorem resetMeetsInvariants : Obligations.ResetMeetsInvariants := by
  have routes (p : Strip) : State.reset.output.routes.get p = none := Tab.get_replicate _ p
  have banks (k : Fin 8) (f : Slot) : (State.reset.surface.banks.get k).get f = none := by
    rw [show State.reset.surface.banks = Tab.replicate 8 (Tab.replicate 16 none) from rfl,
      Tab.get_replicate, Tab.get_replicate]
  have waiting (c : Chan) : (State.reset.chan c).waiting = [] := by rw [State.reset_chan]; rfl
  refine ⟨State.reset_clockInRange, rfl, by unfold State.QueuesFit; decide,
    by unfold State.ShowConsistent; decide, State.reset_listInOrder,
    ⟨nofun, nofun, nofun⟩, fun p q _ h => absurd (routes p) h, fun k f g _ h => absurd (banks k f) h,
    State.reset_handsAgree, State.reset_levelsInRange, State.reset_outputBounded, fun c => ?_, nofun⟩
  rw [Channel.ListKept, waiting]
  exact ⟨Nat.zero_le _, List.Pairwise.nil⟩

end Sys2Proof.Machine
end

section
/-!
PROOF. The requests to the channels and the queries: operands read back from their bytes, and what each
serves (R12 to R18, R57 to R59, R88, R128, R147, R156, R163, R164, R171, R185, R194).
-/

namespace Sys2Proof.Machine

/-! ### Numbers in bytes (R196) -/

theorem toNat_byte {v : Nat} (h : v < 256) : (byte v).toNat = v := by
  simp only [byte, BitVec.toNat_ofNat]
  omega

theorem natOf_pair (a b : Byte) : natOf [a, b] = (a ++ b).toNat := by
  rw [BitVec.toNat_append, ← Nat.shiftLeft_add_eq_or_of_lt b.isLt, Nat.shiftLeft_eq]
  simp [natOf]

theorem natOf_bytesOf_two {n : Nat} (h : n < 65536) : natOf (bytesOf 2 n) = n := by
  simp only [natOf, bytesOf, List.foldl, BitVec.toNat_ofNat]
  omega

theorem parseNumber_bytesOf {n : Nat} (h : n < 65536) : parseNumber (bytesOf 2 n) = some n :=
  congrArg some (natOf_bytesOf_two h)

theorem parseMovesQuery_bytesOf {n : Nat} (h : n < 65536) (first count : Byte) :
    parseMovesQuery (bytesOf 2 n ++ [first, count]) = some ⟨n, first.toNat, count.toNat⟩ :=
  congrArg (fun k => some (MovesQuery.mk k first.toNat count.toNat)) (natOf_bytesOf_two h)

theorem parseListQuery_bytesOf {n : Nat} (h : n < 65536) (count : Byte) :
    parseListQuery (bytesOf 2 n ++ [count]) = some ⟨n, count.toNat⟩ :=
  congrArg (fun k => some (ListQuery.mk k count.toNat)) (natOf_bytesOf_two h)

/-! ### Numbers that name a record (R1, R2, R133, R198) -/

theorem chanOf_eq_some {b : Byte} {c : Chan} : chanOf b = some c ↔ b.toNat = c.val + 1 := by
  unfold chanOf
  split
  · rw [Option.some.injEq, Fin.ext_iff]
    dsimp only
    omega
  · simp only [reduceCtorEq, false_iff]
    omega

theorem chanOf_eq_none {b : Byte} : chanOf b = none ↔ b.toNat = 0 ∨ 56 < b.toNat := by
  unfold chanOf
  split
  · simp only [reduceCtorEq, false_iff]
    omega
  · simp only [true_iff]
    omega

theorem chanOf_byte (c : Chan) : chanOf (byte (c.val + 1)) = some c :=
  chanOf_eq_some.mpr (toNat_byte (by omega))

theorem bankOf_byte (k : Fin 8) : bankOf (byte (k.val + 1)) = some k := by
  have h := toNat_byte (v := k.val + 1) (by omega)
  rw [bankOf, dif_pos (by omega), Option.some.injEq, Fin.ext_iff]
  dsimp only
  omega

theorem groupOf_eq_none {c : Chan} {b : Byte} :
    groupOf c b = none ↔ 8 < b.toNat ∨ 48 ≤ c.val ∧ b.toNat ≠ 0 := by
  unfold groupOf
  split_ifs <;> simp <;> omega

/-- The group of a channel that may bear it is read back (R2, R13). -/
theorem groupOf_byte {c : Chan} (g : Option (Fin 8)) (h : g ≠ none → isStrip c = true) :
    groupOf c (g.elim 0 fun i => byte (i.val + 1)) = some g := by
  cases g with
  | none => rfl
  | some i =>
    have hc : c.val < 48 := by simpa [isStrip] using h (by simp)
    have hi : (byte (i.val + 1)).toNat = i.val + 1 := toNat_byte (by omega)
    simp only [Option.elim, groupOf, hi]
    rw [if_neg (by omega), dif_pos (by omega)]
    rfl

theorem ReleaseMode.ofCode_code (r : ReleaseMode) : ReleaseMode.ofCode r.code = some r := by
  cases r <;> rfl

theorem ReleaseMode.ofCode_eq_none {b : Byte} (h : 1 < b.toNat) : ReleaseMode.ofCode b = none := by
  unfold ReleaseMode.ofCode
  split <;> first | rfl | omega

theorem setOfCode_flag (v : Bool) : setOfCode (flag v) = some v := by cases v <;> rfl

theorem setOfCode_eq_none {b : Byte} (h : 1 < b.toNat) : setOfCode b = none := by
  unfold setOfCode
  split <;> first | rfl | omega

/-! ### Requests that are served (R178) -/

/-- A request of an allowed length, with no restart sequence under way, leaves what its block serves, with
the answer in the buffer. -/
theorem State.request_answers {α : Type} {s t : State} (h : s.Open) {code : Byte} {parsed : Option α}
    {f : α} (hp : parsed = some f) {serve : α → Bool → State → Served} {carried : State → List Byte}
    (ht : State.enqueue (serve f false s.heard) code false = t) :
    (.next (s.request .own code parsed serve carried) : Host.Outcome State Fault Refusal) = .next t := by
  rw [State.request_own h, hp, ← ht]

theorem Result.applied_of_iff {p : Prop} [Decidable p] {b : Bool} (h : b = false ↔ p) :
    Result.applied b = if p then .ok else .okClamped := by
  cases b <;> simp_all [Result.applied]

/-! ### The channels (R12 to R16) -/

/-- CHANNEL_SETUP stores a record whose numbers have been brought into their ranges (R13, R14). -/
theorem serveChannelSetup_stores (f : ChannelSetup) (b : Bool) (s : State) {c : Chan} {k : ChannelConfig}
    (hc : chanOf f.channel = some c) (hg : groupOf c f.group = some k.group)
    (hr : ReleaseMode.ofCode f.release = some k.release) (hb : k.base = clampLevel f.base)
    (ht : k.trim = clampInt (-200) 100 f.trim) (hm : k.muteRamp = min f.muteRamp 250)
    (hx : k.returnTime = min f.returnTime 5000) :
    serveChannelSetup f b s = (s.setChan c { s.chan c with cfg := k }).reply
      (if k.base = f.base ∧ k.trim = f.trim ∧ k.muteRamp = f.muteRamp ∧ k.returnTime = f.returnTime
        then .ok else .okClamped) (configBytes k) := by
  obtain ⟨group, base, trim, ramp, release, time⟩ := k
  dsimp only at hg hr hb ht hm hx
  subst hb ht hm hx
  unfold serveChannelSetup
  simp only [hc, hg, hr]
  congr 1
  exact Result.applied_of_iff (by simp [and_assoc])

/-- CHANNEL_SETUP is refused for a channel, a group or a release mode outside its range (R12, R13). -/
theorem serveChannelSetup_refused (f : ChannelSetup) (b : Bool) (s : State)
    (h : chanOf f.channel = none ∨ (∃ c, chanOf f.channel = some c ∧ groupOf c f.group = none) ∨
      ReleaseMode.ofCode f.release = none) : serveChannelSetup f b s = s.refuse .badField := by
  unfold serveChannelSetup
  rcases h with h | ⟨c, h, hg⟩ | h
  · rw [h]
  · simp only [h, hg]
  · split
    · rfl
    · rw [h]
      split <;> simp_all

/-- TRIM stores the trim brought into its range (R15). -/
theorem serveTrim_stores (f : TrimBody) (b : Bool) (s : State) {c : Chan} {v : Int}
    (hc : chanOf f.channel = some c) (hv : v = clampInt (-200) 100 f.trim) :
    serveTrim f b s = (s.setChan c { s.chan c with cfg := { (s.chan c).cfg with trim := v } }).reply
      (if v = f.trim then .ok else .okClamped) (int2 v) := by
  subst hv
  unfold serveTrim
  simp only [hc]
  congr 1
  exact Result.applied_of_iff (by simp)

/-- Settles O18: the record each request writes, and the numbers it refuses. -/
theorem channelRequests : Obligations.ChannelRequests := by
  refine ⟨fun s c h => ⟨fun g b1 b0 t1 t0 m1 m0 x1 x0 r k hg hk => ?setup, fun hi lo v hv => ?trim,
      fun set => ⟨_, State.request_answers h rfl rfl, ?mute⟩⟩,
    fun s ch h => ⟨fun g r b1 b0 t1 t0 m1 m0 x1 x0 bad => ?setupRefused, fun hi lo bad => ?trimRefused,
      fun a bad => ?muteRefused⟩⟩
  case setup =>
    refine State.request_answers h rfl ?_
    rw [serveChannelSetup_stores _ false s.heard (k := k) (chanOf_byte c) (hk ▸ groupOf_byte g hg)
      (hk ▸ r.ofCode_code) (by rw [hk]; rfl) (by rw [hk]; rfl) (by simp only [hk, natOf_pair])
      (by simp only [hk, natOf_pair]), natOf_pair, natOf_pair]
    rfl
  case trim =>
    refine State.request_answers h rfl ?_
    rw [serveTrim_stores _ false s.heard (chanOf_byte c) hv]
    rfl
  case mute =>
    rw [serveMuteRemote, chanOf_byte c, setOfCode_flag]
    rfl
  case setupRefused =>
    refine State.request_answers h rfl ?_
    rw [serveChannelSetup_refused]
    · rfl
    · rcases Option.eq_none_or_eq_some (chanOf ch) with hc | ⟨c, hc⟩
      · exact .inl hc
      · have hch := chanOf_eq_some.mp hc
        by_cases hr : 1 < r.toNat
        · exact .inr (.inr (ReleaseMode.ofCode_eq_none hr))
        · have hg : groupOf c g = none := groupOf_eq_none.mpr (by omega)
          exact .inr (.inl ⟨c, hc, hg⟩)
  case trimRefused =>
    refine State.request_answers h rfl ?_
    rw [serveTrim, chanOf_eq_none.mpr bad]
    rfl
  case muteRefused =>
    refine State.request_answers h rfl ?_
    unfold serveMuteRemote
    split
    · rename_i c v hc hv
      have hch := chanOf_eq_some.mp hc
      have ha : ¬ 1 < a.toNat := fun h => by simp [setOfCode_eq_none h] at hv
      dsimp only at hch
      omega
    · rfl

end Sys2Proof.Machine
end

section
/-!
PROOF. The queries: what each answers, and the cue list, the routing map and the lists that they read
(R17, R18, R57 to R59, R88, R128, R147, R156, R164, R171, R185, R194).
-/

namespace Sys2Proof.Machine

/-! ### What the queries look up -/

theorem cueNumberOk_eq_true {n : Nat} : cueNumberOk n = true ↔ 1 ≤ n ∧ n ≤ 9999 := decide_eq_true_iff

/-- The first cue of a number, and its place in the list (R57). -/
theorem findCue_append {before after : List Cue} {q : Cue} (h : ∀ p ∈ before, p.number ≠ q.number) :
    findCue (before ++ q :: after) q.number = some q ∧
      placeOf (before ++ q :: after) q.number = before.length + 1 := by
  have hne : ∀ p ∈ before, (p.number != q.number) = true := fun p hp => bne_iff_ne.mpr (h p hp)
  constructor
  · rw [findCue, List.find?_append, List.find?_eq_none.mpr fun p hp => by simpa using h p hp]
    simp
  · rw [placeOf, List.takeWhile_append_of_pos hne]
    simp

theorem findCue_eq_none {cues : List Cue} {n : Nat} :
    findCue cues n = none ↔ ∀ q ∈ cues, q.number ≠ n := by
  simp [findCue]

/-- A line slot no strip is sent to has none, and the strip of any other is sent there (R162). -/
theorem routed_eq_none {routes : Tab 48 (Option (GainNo × Fin 64))} {n : GainNo} {k : Fin 64} :
    routed routes n k = none ↔ ∀ p, routes.get p ≠ some (n, k) := by
  simp [routed]

theorem get_of_routed {routes : Tab 48 (Option (GainNo × Fin 64))} {n : GainNo} {k : Fin 64} {p : Strip}
    (h : routed routes n k = some p) : routes.get p = some (n, k) := by
  simpa using List.find?_some h

theorem stripField_eq (p : Option Strip) :
    fieldBytes 1 (p.elim (0 : Int) fun q => q.val + 1) = [stripField p] := by
  cases p with
  | none => rfl
  | some q => exact fieldBytes_byte (q.val + 1)

/-! ### Answering a query (R180) -/

/-- A query that is served leaves the state as a good request leaves it, with its answer in the buffer. -/
theorem State.query_answers {α : Type} {s : State} (h : s.Open) {code : Byte} {parsed : Option α} {f : α}
    (hp : parsed = some f) {answer : α → State → Answer} {r : Result} {payload : List Byte}
    (ha : answer f s.heard = Answer.mk' r payload) :
    (.next (s.request .own code parsed (query answer)) : Host.Outcome State Fault Refusal) =
      .next (s.heard.replying code r payload) :=
  State.request_answers h hp (enqueue_query answer f s.heard code r payload ha)

/-- The queries without operands, and of one channel. -/
theorem plain_queries {s : State} (h : s.Open) :
    exec (.nop .own []) s = .next (s.answeredBare 0x01 .ok) ∧
    exec (.linkQuery .own []) s = .next (s.heard.replying 0x03 .ok (fields s.link.fields)) ∧
    exec (.restartQuery .own []) s = .next (s.heard.replying 0x0B .ok (fields s.restart.fields)) ∧
    exec (.showQuery .own []) s = .next (s.heard.replying 0x3B .ok (fields s.seq.fields)) ∧
    exec (.clockQuery .own []) s = .next (s.heard.replying 0x41 .ok (fields s.clock.fields)) ∧
    exec (.contactQuery .own []) s = .next (s.heard.replying 0x51 .ok (fields s.contacts.fields)) ∧
    exec (.outputQuery .own []) s = .next (s.heard.replying 0x5B .ok (fields s.output.fields)) := by
  rw [linkReport_eq, restartReport_eq, showReport_eq, clockReport_eq, contactReport_eq, outputReport_eq]
  exact ⟨State.query_answers h rfl rfl, State.query_answers h rfl rfl, State.query_answers h rfl rfl,
    State.query_answers h rfl rfl, State.query_answers h rfl rfl, State.query_answers h rfl rfl,
    State.query_answers h rfl rfl⟩

/-- CHANNEL_QUERY (R17, R18). -/
theorem channelQuery_answers {s : State} (h : s.Open) (c : Chan) :
    exec (.channelQuery .own [byte (c.val + 1)]) s =
      .next (s.heard.replying 0x13 .ok (fields (s.channelFields c))) := by
  refine State.query_answers h rfl ?_
  rw [channelAnswer, chanOf_byte, channelReport_eq]
  rfl

/-- CUE_QUERY (R57). -/
theorem cueQuery_answers {s : State} (h : s.Open) {before after : List Cue} {q : Cue}
    (hs : s.cues = before ++ q :: after) (hb : ∀ p ∈ before, p.number ≠ q.number) (h1 : 1 ≤ q.number)
    (h2 : q.number ≤ 9999) : exec (.cueQuery .own (bytesOf 2 q.number)) s =
      .next (s.heard.replying 0x24 .ok (fields
        (q.fields ++ ([(1, q.moves.length), (2, before.length + 1)] : Layout)))) := by
  obtain ⟨hf, hp⟩ := findCue_append (after := after) hb
  refine State.query_answers h (parseNumber_bytesOf (by omega)) ?_
  have e : s.heard.cues = before ++ q :: after := hs
  have place : fieldBytes 2 ((before.length : Int) + 1) = bytesOf 2 (before.length + 1) :=
    fieldBytes_nat 2 (before.length + 1)
  rw [cueAnswer, e, hf, hp, cueNumberOk_eq_true.mpr ⟨h1, h2⟩, fields_append, headerBytes_eq]
  simp [fields_cons, fields_nil, fieldBytes_byte, place]

/-- MOVES_QUERY (R58). -/
theorem movesQuery_answers {s : State} (h : s.Open) {before after : List Cue} {q : Cue}
    (hs : s.cues = before ++ q :: after) (hb : ∀ p ∈ before, p.number ≠ q.number) (h1 : 1 ≤ q.number)
    (h2 : q.number ≤ 9999) {first count : Nat} (f1 : 1 ≤ first) (f2 : first ≤ 64) (c1 : 1 ≤ count)
    (c2 : count ≤ 24) :
    exec (.movesQuery .own (bytesOf 2 q.number ++ [byte first, byte count])) s =
      .next (s.heard.replying 0x25 .ok (fields ((1, q.moves.length) ::
        ((q.moves.drop (first - 1)).take count).flatMap (StoredMove.fields q.base)))) := by
  refine State.query_answers h (parseMovesQuery_bytesOf (by omega) _ _) ?_
  have e : findCue s.heard.cues q.number = some q := by
    rw [show s.heard.cues = before ++ q :: after from hs, (findCue_append hb).1]
  rw [toNat_byte (by omega), toNat_byte (by omega)]
  unfold movesAnswer
  simp only [e, cueNumberOk_eq_true.mpr ⟨h1, h2⟩, fields_cons, fields_flatMap, moveBytes_eq, fieldBytes_byte]
  rw [if_neg (by simp; omega)]
  rfl

/-- LIST_QUERY (R59). -/
theorem listQuery_answers {s : State} (h : s.Open) {start count : Nat} (h0 : start ≤ 9999)
    (c1 : 1 ≤ count) (c2 : count ≤ 100) {found shown : List Cue}
    (hf : found = s.cues.filter fun q => decide (start ≤ q.number)) (hs : shown = found.take count) :
    exec (.listQuery .own (bytesOf 2 start ++ [byte count])) s =
      .next (s.heard.replying 0x26 .ok (fields
        (shown.map (fun q => (2, (q.number : Int))) ++ ([(1, shown.length),
          (1, (decide (shown.length < found.length)).toNat), (2, s.cues.length),
          (2, (2048 - (s.cues.map fun q => q.moves.length).sum : Nat))] : Layout)))) := by
  refine State.query_answers h (parseListQuery_bytesOf (by omega) _) ?_
  subst hf hs
  rw [toNat_byte (by omega), fields_append, fields_map]
  unfold listAnswer
  rw [if_neg (by dsimp only; omega)]
  simp only [fields_cons, fields_nil, fieldBytes_byte, fieldBytes_nat 2]
  congr 1
  simp [State.heard, poolFree, movesInUse]

/-- SURFACE_QUERY with a bank, and without one (R147). -/
theorem surfaceQuery_answers {s : State} (h : s.Open) :
    (∀ k : Fin 8, exec (.surfaceQuery .own [byte (k.val + 1)]) s =
      .next (s.heard.replying 0x4B .ok
        (fields (s.surfaceFields ++ bankFields (s.surface.banks.get k))))) ∧
    exec (.surfaceQuery .own [0]) s = .next (s.heard.replying 0x4B .ok (fields s.surfaceFields)) := by
  constructor
  · intro k
    refine State.query_answers h rfl ?_
    rw [surfaceAnswer, bankOf_byte, toNat_byte (by omega), if_neg (by omega), fields_append,
      surfaceReport_eq, bankBytes_eq]
    rfl
  · refine State.query_answers h rfl ?_
    rw [surfaceReport_eq]
    simp [surfaceAnswer, bankOf]
    rfl

/-- ROUTE_QUERY of a line, and by strip (R164). -/
theorem routeQuery_answers {s : State} (h : s.Open) :
    (∀ n : GainNo, exec (.routeQuery .own [byte (n.val + 1)]) s = .next (s.heard.replying 0x5A .ok (fields
      ((List.finRange 64).map fun j =>
        (1, (routed s.output.routes n j).elim (0 : Int) fun p => p.val + 1))))) ∧
    exec (.routeQuery .own [0]) s = .next (s.heard.replying 0x5A .ok (fields
      ((List.finRange 48).flatMap fun p => routeFields (s.output.routes.get p)))) := by
  constructor
  · intro n
    refine State.query_answers h rfl ?_
    have hn := toNat_byte (v := n.val + 1) (by omega)
    rw [fields_map]
    simp only [stripField_eq, ← List.map_eq_flatMap]
    rw [routeAnswer, dif_pos (by omega)]
    have e : (⟨(byte (n.val + 1)).toNat - 1, by omega⟩ : GainNo) = n := Fin.ext (by simp [hn])
    rw [e]
    rfl
  · refine State.query_answers h rfl ?_
    rw [fields_flatMap]
    simp only [routeBytes_eq]
    rw [routeAnswer, dif_neg (by simp), if_pos (by rfl), Tab.data_eq_map_get, List.flatMap_map]
    rfl

/-! ### Queries that are refused (R12, R57 to R59, R147, R164) -/

theorem channelQuery_refused {s : State} (h : s.Open) {k : Byte} (hk : k.toNat = 0 ∨ 56 < k.toNat) :
    exec (.channelQuery .own [k]) s = .next (s.answeredBare 0x13 .badField) := by
  refine State.query_answers h rfl ?_
  rw [channelAnswer, chanOf_eq_none.mpr hk]
  rfl

theorem surfaceQuery_refused {s : State} (h : s.Open) {k : Byte} (hk : 8 < k.toNat) :
    exec (.surfaceQuery .own [k]) s = .next (s.answeredBare 0x4B .badField) := by
  refine State.query_answers h rfl ?_
  rw [surfaceAnswer, if_pos hk]
  rfl

theorem routeQuery_refused {s : State} (h : s.Open) {k : Byte} (hk : 4 < k.toNat) :
    exec (.routeQuery .own [k]) s = .next (s.answeredBare 0x5A .badField) := by
  refine State.query_answers h rfl ?_
  rw [routeAnswer, dif_neg (by omega), if_neg (by omega)]
  rfl

/-- A cue number outside its range, or of no cue of the list (R57). -/
theorem cueQuery_refused {s : State} (h : s.Open) {n : Nat} {r : Result} (hn : n < 65536)
    (hr : r = .badField ∧ (n = 0 ∨ 9999 < n) ∨
      r = .noCue ∧ 1 ≤ n ∧ n ≤ 9999 ∧ ∀ q ∈ s.cues, q.number ≠ n) :
    exec (.cueQuery .own (bytesOf 2 n)) s = .next (s.answeredBare 0x24 r) := by
  refine State.query_answers h (parseNumber_bytesOf hn) ?_
  rcases hr with ⟨rfl, hr⟩ | ⟨rfl, h1, h2, hq⟩
  · have e : cueNumberOk n = false := decide_eq_false (by omega)
    rw [cueAnswer, e]
    rfl
  · have e : findCue s.heard.cues n = none := findCue_eq_none.mpr hq
    rw [cueAnswer, e, cueNumberOk_eq_true.mpr ⟨h1, h2⟩]
    rfl

theorem movesQuery_refused {s : State} (h : s.Open) {n : Nat} {r : Result} (hn : n < 65536)
    (hr : r = .badField ∧ (n = 0 ∨ 9999 < n) ∨
      r = .noCue ∧ 1 ≤ n ∧ n ≤ 9999 ∧ ∀ q ∈ s.cues, q.number ≠ n) {first count : Nat} (f1 : 1 ≤ first)
    (f2 : first ≤ 64) (c1 : 1 ≤ count) (c2 : count ≤ 24) :
    exec (.movesQuery .own (bytesOf 2 n ++ [byte first, byte count])) s =
      .next (s.answeredBare 0x25 r) := by
  refine State.query_answers h (parseMovesQuery_bytesOf hn _ _) ?_
  rw [toNat_byte (by omega), toNat_byte (by omega)]
  rcases hr with ⟨rfl, hr⟩ | ⟨rfl, h1, h2, hq⟩
  · have e : cueNumberOk n = false := decide_eq_false (by omega)
    simp [movesAnswer, e]
    rfl
  · have e : findCue s.heard.cues n = none := findCue_eq_none.mpr hq
    unfold movesAnswer
    rw [if_neg (by simp [cueNumberOk_eq_true.mpr ⟨h1, h2⟩]; omega)]
    simp only [e]
    rfl

/-- A position or a count outside its range (R58). -/
theorem movesQuery_outside {s : State} (h : s.Open) {n : Nat} {first count : Byte} (hn : n < 65536)
    (hr : first.toNat = 0 ∨ 64 < first.toNat ∨ count.toNat = 0 ∨ 24 < count.toNat) :
    exec (.movesQuery .own (bytesOf 2 n ++ [first, count])) s =
      .next (s.answeredBare 0x25 .badField) := by
  refine State.query_answers h (parseMovesQuery_bytesOf hn _ _) ?_
  rw [movesAnswer, if_pos]
  · rfl
  · rw [Bool.or_eq_true, decide_eq_true_iff]
    dsimp only
    omega

theorem listQuery_refused {s : State} (h : s.Open) {start : Nat} {count : Byte} (hn : start < 65536)
    (hr : 9999 < start ∨ count.toNat = 0 ∨ 100 < count.toNat) :
    exec (.listQuery .own (bytesOf 2 start ++ [count])) s = .next (s.answeredBare 0x26 .badField) := by
  refine State.query_answers h (parseListQuery_bytesOf hn _) ?_
  rw [listAnswer, if_pos (by dsimp only; omega)]
  rfl

/-- Settles O6: each query by its report, each refusal by its check. -/
theorem queriesAnswer : Obligations.QueriesAnswer := by
  refine ⟨fun s h => ?_, fun k => (configBytes_eq k).symm, fun k => (clockSettings_eq k).symm,
    fun k => (surfaceSettings_eq k).symm, fun k => (contactSettings_eq k).symm,
    fun k => (outputSettings_eq k).symm, fun v => (eventSettings_eq v).symm,
    fun q => (headerBytes_eq q).symm, fun b m => (moveBytes_eq b m).symm, fun n => (noticeBytes_eq n).symm,
    fun b => (bankBytes_eq b).symm, fun r => (routeBytes_eq r).symm, fun n => (cueField_eq n).symm⟩
  obtain ⟨nop, link, restart, show', clock, contact, output⟩ := plain_queries h
  refine ⟨nop, link, restart, show', clock, contact, output, channelQuery_answers h,
    fun before after q hs hb h1 h2 => ⟨cueQuery_answers h hs hb h1 h2,
      fun first count f1 f2 c1 c2 => movesQuery_answers h hs hb h1 h2 f1 f2 c1 c2⟩,
    fun start count h0 c1 c2 => ?list, (surfaceQuery_answers h).1, (surfaceQuery_answers h).2,
    fun n => ⟨routed s.output.routes n, (routeQuery_answers h).1 n,
      fun j => ⟨routed_eq_none, fun p => get_of_routed⟩⟩, (routeQuery_answers h).2,
    fun k => channelQuery_refused h, fun k => surfaceQuery_refused h, fun k => routeQuery_refused h,
    fun n r hn hr => ⟨cueQuery_refused h hn hr,
      fun first count f1 f2 c1 c2 => movesQuery_refused h hn hr f1 f2 c1 c2⟩,
    fun n first count hn => movesQuery_outside h hn, fun start count hn => listQuery_refused h hn⟩
  case list =>
    refine ⟨_, _, listQuery_answers h h0 c1 c2 rfl rfl, List.length_take_le _ _,
      List.prefix_iff_eq_append.mp (List.take_prefix _ _), decide_eq_true_iff, fun hm => ?_⟩
    have := decide_eq_true_iff.mp hm
    rw [List.length_take] at *
    omega

end Sys2Proof.Machine
end

section
/-!
PROOF. The frame event: what it forms of the channels, the frames it builds and places, and the lines it
reports late (R6, R11, R28 to R35, R144, R145, R158 to R162, R166, R168, R169, R188).
-/

namespace Sys2Proof.Machine

/-! ### Lines reported late (R168, R188) -/

/-- The gain lines that a frame event finds behind. -/
def State.lateLines (s : State) : List GainNo :=
  (List.finRange 4).filter fun n => (s.output.lines.get n).behind

theorem State.mem_lateLines {s : State} {n : GainNo} :
    n ∈ s.lateLines ↔ (s.output.lines.get n).shift ≠ none ∧ (s.output.lines.get n).stage ≠ none := by
  simp [State.lateLines, GainLine.behind, Option.isSome_iff_ne_none]

/-- LINE_LATE is raised with its act as often as there are late lines. -/
theorem State.raiseLate_eq (s t : State) :
    s.raiseLate t = (fun u : State => u.raiseWithAct .lineLate)^[s.lateLines.length] t := by
  rw [← List.foldl_const, State.lateLines, List.foldl_filter]
  rfl

theorem State.Keeps.raiseLate (s t : State) : t.Keeps (s.raiseLate t) := by
  refine State.Keeps.foldl _ (fun u n => ?_) _ t
  split
  · exact State.Keeps.raiseWithAct u _
  · exact State.Keeps.refl u

/-- What one raise of LINE_LATE keeps, all of them keep. -/
theorem State.raiseLate_keeps {P : State → Prop} (h : ∀ u, P u → P (u.raiseWithAct .lineLate)) (s : State)
    {t : State} (ht : P t) : P (s.raiseLate t) := by
  rw [State.raiseLate_eq]
  exact Function.Iterate.rec P ht h _

/-- Where a line is late, what one raise brings about and all keep holds at the end. -/
theorem State.raiseLate_brings {P Q : State → Prop} (hP : ∀ u, P u → Q (u.raiseWithAct .lineLate))
    (hQ : ∀ u, Q u → Q (u.raiseWithAct .lineLate)) {s t : State} {n : GainNo} (hn : n ∈ s.lateLines)
    (ht : P t) : Q (s.raiseLate t) := by
  obtain ⟨k, hk⟩ := Nat.exists_eq_succ_of_ne_zero (List.length_pos_of_mem hn).ne'
  rw [State.raiseLate_eq, hk, Nat.succ_eq_add_one, Function.iterate_succ_apply]
  exact Function.Iterate.rec Q (hP t ht) hQ _

theorem State.raiseLate_none {s : State} (h : s.lateLines = []) (t : State) : s.raiseLate t = t := by
  rw [State.raiseLate_eq, h]
  rfl

theorem State.raiseLate_raised {s t : State} {n : GainNo} (hn : n ∈ s.lateLines) :
    (s.raiseLate t).Raised .lineLate :=
  State.raiseLate_brings (P := fun _ => True) (Q := fun u => u.Raised .lineLate) (fun u _ => u.raiseWithAct_raised _)
    (fun u _ => u.raiseWithAct_raised _) hn trivial

theorem State.raiseWithAct_actLate (s : State) (e : Event) :
    (s.raiseWithAct e).events.actLate = s.events.actLate := by
  rw [(State.PlayFrame.raiseWithAct s e).events]

/-- Without an act the raises leave the show and the clock (R188). -/
theorem State.raiseLate_actNone (s : State) {t : State} (h : t.events.actLate = .none) :
    (s.raiseLate t).seq = t.seq ∧ (s.raiseLate t).clock = t.clock := by
  have k := State.raiseLate_keeps
    (P := fun u => u.events.actLate = .none ∧ u.seq = t.seq ∧ u.clock = t.clock) ?_ s ⟨h, rfl, rfl⟩
  · exact k.2
  · rintro u ⟨ha, hs, hc⟩
    refine ⟨(u.raiseWithAct_actLate _).trans ha, ?_⟩
    simp [State.raiseWithAct, State.actFor, ha, State.apply, hs, hc]

/-- Clearing ends the moves of every channel where they stand (R108). -/
theorem State.clearShow_chan (s : State) (c : Chan) : s.clearShow.chan c = (s.chan c).cleared := by
  unfold State.clearShow
  dsimp only
  show ((s.seq.flight.foldl _ _ : State).channels).get c = _
  rw [foldl_keeps State.channels _ (fun t f => State.notify_channels t _)]
  exact Tab.get_map _ _ c

theorem State.setShow_chan (s : State) (st : ShowState) : (s.setShow st).chan = s.chan := by
  unfold State.setShow
  split <;> rfl

theorem State.holdShow_chan (s : State) : s.holdShow.chan = s.chan := by
  unfold State.holdShow
  split
  · exact State.setShow_chan s _
  · rfl

theorem State.enterSafe_chan (s : State) (c : Chan) :
    s.enterSafe.chan c = s.chan c ∨ s.enterSafe.chan c = (s.chan c).cleared := by
  unfold State.enterSafe
  split
  · exact .inl rfl
  · right
    dsimp only
    rw [State.clearShow_chan, State.setShow_chan]
    rfl

/-- An act leaves a channel as it is, or clears its moves (R188). -/
theorem State.raiseWithAct_chan (s : State) (e : Event) (c : Chan) :
    (s.raiseWithAct e).chan c = s.chan c ∨ (s.raiseWithAct e).chan c = (s.chan c).cleared := by
  unfold State.raiseWithAct
  cases s.actFor e with
  | none => exact .inl rfl
  | hold => exact .inl (congrFun (State.holdShow_chan _) c)
  | safe => exact State.enterSafe_chan _ c

theorem State.raiseLate_chan (s t : State) (c : Chan) :
    (s.raiseLate t).chan c = t.chan c ∨ (s.raiseLate t).chan c = (t.chan c).cleared := by
  refine State.raiseLate_keeps (P := fun u => u.chan c = t.chan c ∨ u.chan c = (t.chan c).cleared)
    (fun u hu => ?_) s (.inl rfl)
  rcases u.raiseWithAct_chan .lineLate c with h | h <;> rw [h] <;> rcases hu with hu | hu <;> rw [hu]
  · exact .inl rfl
  · exact .inr rfl
  · exact .inr rfl
  · exact .inr rfl

/-- A HOLD in the show (R63). -/
def Sequencer.held (q : Sequencer) : Sequencer :=
  { q with state := if q.state = .running then .hold else q.state }

theorem State.holdShow_seq (s : State) : s.holdShow.seq = s.seq.held := by
  unfold State.holdShow Sequencer.held
  split
  · rename_i h
    simp [State.setShow, h]
  · rfl

theorem Sequencer.held_held (q : Sequencer) : q.held.held = q.held := by
  unfold Sequencer.held
  split <;> simp_all

/-- With the act HOLD a late line holds the show, and more of them do no more (R63, R188). -/
theorem State.raiseLate_actHold {s t : State} {n : GainNo} (hn : n ∈ s.lateLines)
    (h : t.events.actLate = .hold) : (s.raiseLate t).seq = t.seq.held := by
  have act (u : State) (hu : u.events.actLate = .hold) : (u.raiseWithAct .lineLate).seq = u.seq.held := by
    rw [State.raiseWithAct, show u.actFor .lineLate = .hold from hu]
    exact State.holdShow_seq _
  refine (State.raiseLate_brings (P := fun u => u.events.actLate = .hold ∧ u.seq = t.seq)
    (Q := fun u => u.events.actLate = .hold ∧ u.seq = t.seq.held) ?_ ?_ hn ⟨h, rfl⟩).2
  · rintro u ⟨ha, hs⟩
    exact ⟨(u.raiseWithAct_actLate _).trans ha, by rw [act u ha, hs]⟩
  · rintro u ⟨ha, hs⟩
    exact ⟨(u.raiseWithAct_actLate _).trans ha, by rw [act u ha, hs, Sequencer.held_held]⟩

/-- SAFE is entered with the return state that R65 gives it, and stays as it is. -/
theorem State.enterSafe_state (s : State) : s.enterSafe.seq.state = .safe ∧ s.enterSafe.seq.ret =
    if s.seq.state = .safe then s.seq.ret else if s.seq.state = .edit then .edit else .hold := by
  unfold State.enterSafe
  split
  · rename_i h
    exact ⟨h, rfl⟩
  · rename_i h
    dsimp only
    have k := State.ShowFrame.clearShow
      ((s.setSeq { s.seq with ret := if s.seq.state = .edit then .edit else .hold }).setShow .safe)
    rw [k.state, k.ret]
    simp [State.setShow, h]

/-- With the act SAFE a late line brings the show into SAFE (R65, R188). -/
theorem State.raiseLate_actSafe {s t : State} {n : GainNo} (hn : n ∈ s.lateLines)
    (h : t.events.actLate = .safe) : (s.raiseLate t).seq.state = .safe ∧ (s.raiseLate t).seq.ret =
      if t.seq.state = .safe then t.seq.ret else if t.seq.state = .edit then .edit else .hold := by
  have act (u : State) (hu : u.events.actLate = .safe) :
      u.raiseWithAct .lineLate = (u.raise .lineLate).enterSafe := by
    rw [State.raiseWithAct, show u.actFor .lineLate = .safe from hu]
    rfl
  refine (State.raiseLate_brings (P := fun u => u.events.actLate = .safe ∧ u.seq = t.seq)
    (Q := fun u => u.events.actLate = .safe ∧ u.seq.state = .safe ∧ u.seq.ret =
      if t.seq.state = .safe then t.seq.ret else if t.seq.state = .edit then .edit else .hold)
    ?_ ?_ hn ⟨h, rfl⟩).2
  · rintro u ⟨ha, hs⟩
    refine ⟨(u.raiseWithAct_actLate _).trans ha, ?_⟩
    rw [act u ha, ← hs]
    exact State.enterSafe_state _
  · rintro u ⟨ha, hs, hr⟩
    refine ⟨(u.raiseWithAct_actLate _).trans ha, ?_⟩
    obtain ⟨k, kr⟩ := State.enterSafe_state (u.raise .lineLate)
    rw [State.raise_seq, if_pos hs] at kr
    rw [act u ha]
    exact ⟨k, kr.trans hr⟩

/-! ### The channels of a frame event (R11, R159) -/

section
variable (s : State) (f : Nat)

theorem State.formChannels_chan (c : Chan) : (s.formChannels f).chan c = s.atFrame f c := by
  unfold State.formChannels
  dsimp only
  split <;> exact Tab.get_build _ c

@[simp] theorem State.formChannels_seq : (s.formChannels f).seq = s.seq := by
  unfold State.formChannels
  dsimp only
  split <;> rfl

@[simp] theorem State.formChannels_cues : (s.formChannels f).cues = s.cues := by
  unfold State.formChannels
  dsimp only
  split <;> rfl

@[simp] theorem State.formChannels_clock : (s.formChannels f).clock = s.clock := by
  unfold State.formChannels
  dsimp only
  split <;> rfl

@[simp] theorem State.formChannels_surface : (s.formChannels f).surface = s.surface := by
  unfold State.formChannels
  dsimp only
  split <;> rfl

@[simp] theorem State.formChannels_output : (s.formChannels f).output = s.output := by
  unfold State.formChannels
  dsimp only
  split <;> rfl

@[simp] theorem State.formChannels_link : (s.formChannels f).link = s.link := by
  unfold State.formChannels
  dsimp only
  split <;> rfl

theorem State.formChannels_actLate : (s.formChannels f).events.actLate = s.events.actLate := by
  unfold State.formChannels
  dsimp only
  split <;> rfl

/-- LEVEL_CLAMP is raised where LIMITED goes from clear to set (R11). -/
theorem State.formChannels_raised {c : Chan} (h : (s.chan c).limited = false)
    (k : (s.atFrame f c).limited = true) : (s.formChannels f).Raised .levelClamp := by
  have ha : (allChans.any fun c =>
      !(s.chan c).limited && ((s.setChannels (Tab.build 56 (s.atFrame f))).chan c).limited) = true := by
    refine List.any_eq_true.mpr ⟨c, mem_allChans c, ?_⟩
    rw [h, show (s.setChannels (Tab.build 56 (s.atFrame f))).chan c = s.atFrame f c from
      Tab.get_build _ c, k]
    rfl
  unfold State.formChannels
  dsimp only
  rw [if_pos ha]
  exact State.raise_raised _ _

end

theorem State.muteSources_eq_zero {s : State} {c : Chan} : s.muteSources c = 0 ↔ s.muted c = false := by
  unfold State.muteSources State.muted Channel.storedMute
  simp only [Bool.or_eq_false_iff]
  cases (s.chan c).cue <;> cases (s.chan c).operator <;> cases (s.chan c).remote <;>
    cases s.groupSource c <;> cases s.safeSource <;> simp

theorem State.muteGoal_eq (s : State) (c : Chan) :
    s.muteGoal c = if s.muteSources c = 0 then 1024 else 0 := by
  simp only [State.muteGoal, State.muteSources_eq_zero]
  cases s.muted c <;> rfl

theorem State.rampTime_eq (s : State) (c : Chan) :
    s.rampTime c = if s.seq.state = .safe then 20 else (s.chan c).cfg.muteRamp := by
  simp [State.rampTime, State.safeSource]

/-- A glide that ends at full course ends on A, so that the used level stays (R6, R26, R27). -/
theorem Channel.used_atFrame (r : Channel) (mute : Nat) (effective : Int) (limited : Bool) :
    { r with hand := r.hand.atFrame, mute, effective, limited }.used = r.used := by
  unfold Channel.used Hand.atFrame
  cases r.hand with
  | free => rfl
  | held h => rfl
  | gliding start since time =>
    by_cases h : time ≤ since
    · simp [h, glideLevel_over]
    · simp [h]

/-! ### The frames (R144, R160, R161, R166, R168, R169) -/

/-- The state whose channels a frame event has formed, with the stored configuration in force. -/
def State.formed (s : State) : State := s.startPeriod.formChannels s.output.stored.period

/-- The state whose frames a frame event has placed too. -/
def State.placed (s : State) : State := s.formed.placeFrames s.formed.countFrame

theorem State.frameEvent_eq (s : State) : s.frameEvent = s.raiseLate s.placed := rfl

theorem State.formed_chan (s : State) (c : Chan) :
    s.formed.chan c = s.atFrame s.output.stored.period c := State.formChannels_chan _ _ c

theorem State.formed_output (s : State) : s.formed.output =
    { s.output with inForce := s.output.stored, frameLeft := s.output.stored.period } := by
  rw [State.formed, State.formChannels_output]
  rfl

theorem State.formed_seq (s : State) : s.formed.seq = s.seq := by
  rw [State.formed, State.formChannels_seq]
  rfl

theorem State.formed_surface (s : State) : s.formed.surface = s.surface := by
  rw [State.formed, State.formChannels_surface]
  rfl

/-- A frame event leaves the mute sources of every channel as it finds them (R10). -/
theorem State.formed_muteSources (s : State) (c : Chan) : s.formed.muteSources c = s.muteSources c := by
  have e (d : Chan) : (s.formed.chan d).cfg = (s.chan d).cfg ∧ (s.formed.chan d).cue = (s.chan d).cue ∧
      (s.formed.chan d).operator = (s.chan d).operator ∧ (s.formed.chan d).remote = (s.chan d).remote := by
    rw [State.formed_chan, State.atFrame]
    split <;> exact ⟨rfl, rfl, rfl, rfl⟩
  have g : s.formed.groupSource c = s.groupSource c := by
    rw [Bool.eq_iff_iff, State.groupSource_iff, State.groupSource_iff]
    simp only [e, s.formed_seq]
  obtain ⟨-, cue, operator, remote⟩ := e c
  unfold State.muteSources State.safeSource
  dsimp only
  rw [cue, operator, remote, g, s.formed_seq]

theorem State.formed_used (s : State) (c : Chan) : (s.formed.chan c).used = (s.chan c).used := by
  rw [State.formed_chan, State.atFrame]
  split <;> exact Channel.used_atFrame _ _ _ _

/-- A surface frame's entry of a slot (R144). -/
theorem State.slotEntry_formed (s : State) (f : Slot) : s.formed.slotEntry f =
    if s.slotUsed f = true then
      match (s.fader f).mapping with
      | none => { target := 0, drive := false, tally := false }
      | some c => { target := motorTarget (s.chan c).used
                    drive := decide ((s.fader f).state = .free)
                    tally := decide (s.muteSources c ≠ 0) }
    else { target := 0, drive := false, tally := false } := by
  have hu : s.formed.slotUsed f = s.slotUsed f := by rw [State.slotUsed, s.formed_surface]; rfl
  have hf : s.formed.fader f = s.fader f := by rw [State.fader, s.formed_surface]; rfl
  have hm (c : Chan) : s.formed.muted c = decide (s.muteSources c ≠ 0) := by
    rw [← s.formed_muteSources]
    simp [State.muteSources_eq_zero]
  unfold State.slotEntry
  rw [hu, hf]
  split
  · cases (s.fader f).mapping with
    | none => rfl
    | some c =>
      simp only [s.formed_used, hm]
      rfl
  · rfl

/-- The frame of an idle line is sent at once. -/
theorem GainLine.place_idle {l : GainLine} (h : l.shift = none) (f : Frame) (b : Nat) :
    l.place f b = { l with shift := some (f.start b) } := by
  rw [GainLine.place, h]

/-- The frame of an occupied line is staged, and one that it replaces is late (R168). -/
theorem GainLine.place_occupied {l : GainLine} (h : l.shift ≠ none) (f : Frame) (b : Nat) :
    l.place f b = { l with stage := some f
                           late := if l.stage = none then l.late else countUp 65535 l.late } := by
  obtain ⟨x, hx⟩ := Option.ne_none_iff_exists'.mp h
  rw [GainLine.place, hx]
  cases l.stage <;> rfl

/-- The configuration, the routing map and the frame count after a frame event (R158, R161). -/
theorem State.placed_output (s : State) : s.placed.output =
    { s.placed.output with
      inForce := s.output.stored, stored := s.output.stored, frameLeft := s.output.stored.period
      routes := s.output.routes, frameCount := (s.output.frameCount + 1) % 65536 } := by
  have h : s.formed.countFrame.output =
      { s.output with inForce := s.output.stored, frameLeft := s.output.stored.period
                      frameCount := (s.output.frameCount + 1) % 65536 } := by
    rw [State.countFrame, s.formed_output]
    rfl
  unfold State.placed State.placeFrames
  rw [State.setOutput_output, h]

theorem State.placed_line (s : State) (n : GainNo) : s.placed.output.lines.get n =
    (s.output.lines.get n).place (s.formed.gainFrame n) (s.output.stored.dividers.get n + 1) := by
  have h : s.placed.output.lines.get n = (s.formed.output.lines.get n).place (s.formed.gainFrame n)
    (s.formed.output.inForce.dividers.get n + 1) := Tab.get_build _ n
  rw [h, s.formed_output]

theorem getElem?_map_finRange {α : Type} {n : Nat} (f : Fin n → α) (k : Fin n) :
    ((List.finRange n).map f)[k.val]? = some (f k) := by
  rw [List.getElem?_eq_getElem (by simp), List.getElem_map, List.getElem_finRange]
  rfl

/-- The gain frame of a line, its words each in the slot of its strip (R160, R161). -/
theorem State.gainFrame_words (s : State) (n : GainNo) : ∃ words : List Nat,
    s.formed.gainFrame n = { count := s.output.frameCount, safe := s.seq.state == .safe
                             hold := s.seq.state == .hold, content := .gain words } ∧
      words.length = 64 ∧ ∀ k : Fin 64, words[k.val]? = some
        ((routed s.output.routes n k).elim 0 fun p => (s.formed.chan (stripChan p)).word) := by
  refine ⟨(List.finRange 64).map (s.formed.slotWord n), ?_, by simp, fun k => ?_⟩
  · rw [State.gainFrame, State.frame, s.formed_output, s.formed_seq]
  · have e : s.formed.output.routes = s.output.routes := by rw [s.formed_output]
    rw [getElem?_map_finRange, State.slotWord, e]
    cases routed s.output.routes n k <;> rfl

/-- The surface frame (R144, R169). -/
theorem State.surfaceFrame_slots (s : State) : ∃ slots : List SlotEntry,
    s.formed.surfaceFrame = { count := s.output.frameCount, safe := s.seq.state == .safe
                              hold := s.seq.state == .hold, content := .surface slots } ∧
      slots.length = 16 ∧ ∀ k : Slot, slots[k.val]? = some (s.formed.slotEntry k) := by
  refine ⟨allSlots.map s.formed.slotEntry, ?_, by simp [allSlots], getElem?_map_finRange _⟩
  rw [State.surfaceFrame, State.frame, s.formed_output, s.formed_seq]

/-- The surface line's shift and stage after a frame event (R169). -/
theorem State.placed_surfaceLine (s : State) :
    (s.output.surfaceShift = none →
      s.placed.output.surfaceShift = some (s.formed.surfaceFrame.start surfaceBitTime) ∧
        s.placed.output.surfaceStage = s.output.surfaceStage) ∧
    (s.output.surfaceShift ≠ none → s.placed.output.surfaceShift = s.output.surfaceShift ∧
      s.placed.output.surfaceStage = some s.formed.surfaceFrame) := by
  have e : s.formed.countFrame.output.surfaceShift = s.output.surfaceShift := by
    rw [State.countFrame, s.formed_output]
    rfl
  have e' : s.formed.countFrame.output.surfaceStage = s.output.surfaceStage := by
    rw [State.countFrame, s.formed_output]
    rfl
  unfold State.placed State.placeFrames
  simp only [State.setOutput_output, e, e']
  cases s.output.surfaceShift <;> simp

/-! ### What a frame event leaves -/

/-- A channel after a frame event: its mute factor, its E and its LIMITED, and its A, are those formed. -/
theorem State.frameEvent_chan (s : State) (c : Chan) :
    (s.frameEvent.chan c).mute = (s.formed.chan c).mute ∧
      (s.frameEvent.chan c).effective = (s.formed.chan c).effective ∧
      (s.frameEvent.chan c).limited = (s.formed.chan c).limited ∧
      (s.frameEvent.chan c).level = (s.formed.chan c).level ∧
      (s.frameEvent.chan c).hand = (s.formed.chan c).hand := by
  have e : s.placed.chan c = s.formed.chan c := rfl
  rw [State.frameEvent_eq]
  rcases s.raiseLate_chan s.placed c with h | h <;> rw [h, e]
  · exact ⟨rfl, rfl, rfl, rfl, rfl⟩
  · exact ⟨rfl, rfl, rfl, rfl, rfl⟩

/-- The strip of a channel number (R1). -/
theorem isStrip_iff {c : Chan} : isStrip c = true ↔ c.val < 48 := decide_eq_true_iff

/-- A strip after a frame event (R28 to R31, R159). -/
theorem State.formed_strip (s : State) {c : Chan} (hc : c.val < 48) {e : Int × Bool}
    (he : e = effectiveLevel (s.chan c).used (s.chan c).cfg.trim ((s.chan c).cfg.group.map fun g =>
      ((s.chan (masterChan g)).used, (s.chan (masterChan g)).cfg.trim))) :
    (s.formed.chan c).mute = muteStep s.output.stored.period
        (if s.seq.state = .safe then 20 else (s.chan c).cfg.muteRamp)
        (if s.muteSources c = 0 then 1024 else 0) (s.chan c).mute ∧
      (s.formed.chan c).effective = e.1 ∧ (s.formed.chan c).limited = e.2 := by
  have hm : s.effective c = e := by
    rw [he, State.effective, State.masterLevels]
    cases (s.chan c).cfg.group <;> rfl
  rw [State.formed_chan, State.atFrame, if_pos (isStrip_iff.mpr hc), ← s.rampTime_eq, ← s.muteGoal_eq, ← hm]
  exact ⟨rfl, rfl, rfl⟩

theorem State.formed_master (s : State) {c : Chan} (hc : 48 ≤ c.val) :
    (s.formed.chan c).mute = (s.chan c).mute ∧ (s.formed.chan c).effective = (s.chan c).effective ∧
      (s.formed.chan c).limited = (s.chan c).limited := by
  rw [State.formed_chan, State.atFrame, if_neg (by rw [isStrip_iff]; omega)]
  exact ⟨rfl, rfl, rfl⟩

theorem State.formed_hand (s : State) (c : Chan) : (s.formed.chan c).level = (s.chan c).level ∧
    (s.formed.chan c).hand = (s.chan c).hand.atFrame := by
  rw [State.formed_chan, State.atFrame]
  split <;> exact ⟨rfl, rfl⟩

/-- Forming the channels and placing the frames leaves the show, the clock and the acts. -/
theorem State.placed_seq (s : State) : s.placed.seq = s.seq ∧ s.placed.clock = s.clock ∧
    s.placed.events.actLate = s.events.actLate :=
  ⟨s.formed_seq, State.formChannels_clock _ _, State.formChannels_actLate _ _⟩

/-- Settles O48: the channels formed, the frames placed, and the late lines reported. -/
theorem frameEventBuilds : Obligations.FrameEventBuilds := by
  intro s hs
  have frame := State.PlayFrame.raiseLate s s.placed
  have output : s.frameEvent.output = s.placed.output := frame.output
  obtain ⟨seq, clock, act⟩ := s.placed_seq
  refine ⟨s.frameEvent, ?next, by rw [output, s.placed_output], by rw [output, s.placed_output],
    by rw [output, s.placed_output], by rw [output, s.placed_output], by rw [output, s.placed_output],
    ?strips, ?masters, ?hands,
    fun n => ?gainLine, ?surfaceLine, ?quiet, fun n hh hg => ⟨?hold, ?safe⟩, ?surface, ?cues, ?link⟩
  case next =>
    show Host.Outcome.next (if s.resetLow then s else s.frameEvent) = _
    rw [hs]
    rfl
  case strips =>
    intro p c e hc he
    obtain ⟨mute, effective, limited, -, -⟩ := s.frameEvent_chan c
    obtain ⟨hm, hE, hL⟩ := s.formed_strip (c := c) (by omega) he
    rw [mute, effective, limited]
    refine ⟨hm, hE, hL, fun h k => State.Keeps.raiseLate s s.placed _ ?_⟩
    exact State.formChannels_raised s.startPeriod _ h (by rw [← hL, s.formed_chan] at k; exact k)
  case masters =>
    intro c hc
    obtain ⟨mute, effective, limited, -, -⟩ := s.frameEvent_chan c
    rw [mute, effective, limited]
    exact s.formed_master hc
  case hands =>
    intro c
    obtain ⟨-, -, -, level, hand⟩ := s.frameEvent_chan c
    obtain ⟨fl, fh⟩ := s.formed_hand c
    refine ⟨level.trans fl, (hand.trans fh).trans ?_⟩
    cases (s.chan c).hand <;> rfl
  case gainLine =>
    obtain ⟨words, hf, hw, hk⟩ := s.gainFrame_words n
    refine ⟨_, words, routed s.output.routes n, hf, hw, fun k => ⟨routed_eq_none, fun p => get_of_routed⟩,
      fun k => ?_, fun hi => ?_, fun ho => ?_⟩
    · rw [hk]
      cases routed s.output.routes n k with
      | none => rfl
      | some p =>
        obtain ⟨mute, effective, -, -, -⟩ := s.frameEvent_chan (stripChan p)
        show some (gainWord _ _) = some (gainWord (s.frameEvent.chan (stripChan p)).effective
          (s.frameEvent.chan (stripChan p)).mute)
        rw [mute, effective]
    · rw [output, s.placed_line, GainLine.place_idle hi]
      exact ⟨rfl, rfl, rfl⟩
    · rw [output, s.placed_line, GainLine.place_occupied ho]
      exact ⟨rfl, rfl, rfl, fun hl => State.raiseLate_raised (State.mem_lateLines.mpr ⟨ho, hl⟩)⟩
  case surfaceLine =>
    obtain ⟨slots, hf, hl, hk⟩ := s.surfaceFrame_slots
    rw [output]
    exact ⟨_, slots, hf, hl, fun k => (hk k).trans (congrArg some (s.slotEntry_formed k)),
      s.placed_surfaceLine⟩
  case quiet =>
    rintro (h | h)
    · have none : s.lateLines = [] := List.eq_nil_iff_forall_not_mem.mpr fun n hn => by
        obtain ⟨h1, h2⟩ := State.mem_lateLines.mp hn
        exact (h n).elim h1 h2
      rw [State.frameEvent_eq, State.raiseLate_none none]
      exact ⟨seq, clock⟩
    · obtain ⟨ks, kc⟩ := s.raiseLate_actNone (act.trans h)
      exact ⟨ks.trans seq, kc.trans clock⟩
  case hold =>
    intro h
    rw [← seq]
    exact State.raiseLate_actHold (State.mem_lateLines.mpr ⟨hh, hg⟩) (act.trans h)
  case safe =>
    intro h
    obtain ⟨state, ret⟩ := State.raiseLate_actSafe (State.mem_lateLines.mpr ⟨hh, hg⟩) (act.trans h)
    rw [seq] at ret
    refine ⟨state, fun k => ret.trans (by simp [k]), fun k => ret.trans ?_⟩
    rcases k with k | k <;> simp [k]
  case surface => exact frame.surface.trans s.formed_surface
  case cues => exact frame.cues.trans (State.formChannels_cues _ _)
  case link => exact frame.link.trans (State.formChannels_link _ _)

end Sys2Proof.Machine
end

section
/-!
PROOF. Every operation on the show keeps the levels of moves in range: a move that starts brings its
channel from a level to a level (R20, R24, R41, R90, R95, R98, R99).
-/

namespace Sys2Proof.Machine

/-! ### The moves of one channel -/

/-- The levels of a channel that the show writes: A, those of the active move, and the targets that wait. -/
structure Channel.MovesInRange (r : Channel) : Prop where
  level : IsLevel r.level
  active : ∀ m, r.active = some m → IsLevel m.start ∧ IsLevel m.target
  waiting : ∀ p ∈ r.waiting, IsLevel p.target

theorem Channel.InRange.moves {r : Channel} (h : r.InRange) : r.MovesInRange := by
  obtain ⟨-, level, -, -, active, waiting⟩ := h
  exact ⟨level, active, waiting⟩

/-- A level between two levels is a level (R24). -/
theorem IsLevel.between {a b v : Int} (ha : IsLevel a) (hb : IsLevel b) (h : min a b ≤ v ∧ v ≤ max a b) :
    IsLevel v := by
  unfold IsLevel at *
  omega

theorem isLevel_moveLevel {a b : Int} (ha : IsLevel a) (hb : IsLevel b) (d t : Nat) (k : Curve) :
    IsLevel (moveLevel a b d k t) := ha.between hb (moveLevel_between a b d t k)

theorem Channel.MovesInRange.cleared {r : Channel} (h : r.MovesInRange) : r.cleared.MovesInRange :=
  ⟨h.level, nofun, nofun⟩

/-- Another pending list whose targets are levels. -/
theorem Channel.MovesInRange.setWaiting {r : Channel} (h : r.MovesInRange) {l : List PendingMove}
    (hl : ∀ p ∈ l, IsLevel p.target) : { r with waiting := l }.MovesInRange := ⟨h.level, h.active, hl⟩

/-- A channel whose active move has ended at a level. -/
theorem Channel.MovesInRange.ended {r : Channel} (h : r.MovesInRange) {v : Int} (hv : IsLevel v) :
    { r with level := v, active := none }.MovesInRange := ⟨hv, nofun, h.waiting⟩

theorem Channel.MovesInRange.starting {r : Channel} (h : r.MovesInRange) {p : PendingMove}
    (hp : IsLevel p.target) : (r.starting p).MovesInRange := by
  unfold Channel.starting
  split
  · exact ⟨h.level, h.active, h.waiting⟩
  · exact ⟨h.level, h.active, h.waiting⟩
  · split
    · exact h.ended hp
    · refine ⟨?_, ?_, h.waiting⟩
      · dsimp only
        split
        · exact hp
        · exact h.level
      · rintro m ⟨⟩
        exact ⟨h.level, hp⟩

/-- The moves that are due start one after another (R97). -/
theorem Channel.MovesInRange.started {r : Channel} (h : r.MovesInRange) {l : List PendingMove}
    (hl : ∀ p ∈ l, IsLevel p.target) : (r.started l).MovesInRange := by
  induction l generalizing r with
  | nil => exact h.setWaiting nofun
  | cons p l ih =>
    obtain ⟨hp, hl'⟩ := List.forall_mem_cons.mp hl
    by_cases hd : p.delay = 0
    · rw [Channel.started_cons_due r p l hd]
      exact ih (h.starting hp) hl'
    · rw [Channel.started_cons_later r p l hd]
      exact h.setWaiting hl

theorem Channel.MovesInRange.activeAfter {r : Channel} (h : r.MovesInRange) (s : State) :
    (s.activeAfter r).MovesInRange := by
  unfold State.activeAfter
  split
  · exact h
  · rename_i m hm
    obtain ⟨start, target⟩ := h.active m hm
    split
    · split
      · refine ⟨isLevel_moveLevel start target _ _ _, ?_, h.waiting⟩
        rintro k ⟨⟩
        exact ⟨start, target⟩
      · exact h.ended target
    · exact h

theorem Channel.MovesInRange.pendingAfter {r : Channel} (h : r.MovesInRange) (s : State) :
    (s.pendingAfter r).MovesInRange := by
  unfold State.pendingAfter
  split
  · exact h
  · rename_i p rest hw
    split
    · refine h.started fun q hq => ?_
      obtain ⟨k, hk, rfl⟩ := List.mem_map.mp hq
      exact h.waiting k (hw ▸ hk)
    · exact h

/-! ### The moves of the show -/

/-- The levels that the show reads and writes: those of every channel's moves and of the stored moves. -/
structure State.MovesInRange (s : State) : Prop where
  chan : ∀ c, (s.chan c).MovesInRange
  stored : ∀ q ∈ s.cues, ∀ m ∈ q.moves, IsLevel m.target

theorem State.LevelsInRange.moves {s : State} (h : s.LevelsInRange) : s.MovesInRange :=
  ⟨fun c => (h.1 c).moves, h.2.1⟩

theorem State.MovesInRange.of_eq {s t : State} (h : s.MovesInRange) (hc : t.chan = s.chan)
    (hq : t.cues = s.cues) : t.MovesInRange := ⟨by rw [hc]; exact h.chan, by rw [hq]; exact h.stored⟩

theorem State.MovesInRange.setChan {s : State} (h : s.MovesInRange) (c : Chan) {r : Channel}
    (hr : r.MovesInRange) : (s.setChan c r).MovesInRange := by
  refine ⟨fun d => ?_, h.stored⟩
  rw [State.setChan_chan]
  split
  · exact hr
  · exact h.chan d

/-- A step on one channel that leaves the others and the cue list. -/
theorem State.MovesInRange.of_chan {s t : State} (h : s.MovesInRange) (c : Chan)
    (hc : (t.chan c).MovesInRange) (other : ∀ d, c ≠ d → t.chan d = s.chan d) (hq : t.cues = s.cues) :
    t.MovesInRange := by
  refine ⟨fun d => ?_, by rw [hq]; exact h.stored⟩
  by_cases e : c = d
  · exact e ▸ hc
  · rw [other d e]
    exact h.chan d

theorem State.MovesInRange.completeMove {s : State} (h : s.MovesInRange) (c : Chan) :
    (s.completeMove c).MovesInRange := by
  unfold State.completeMove
  split
  · exact h
  · rename_i m hm
    exact (h.setChan c ((h.chan c).ended ((h.chan c).active m hm).2)).of_eq
      (State.reportEnd_chan _ _) (State.ShowFrame.reportEnd _ _).cues

/-- A level move that starts on a channel (R95, R105). -/
theorem State.MovesInRange.startLevel {s : State} (h : s.MovesInRange) (c : Chan) {target : Int}
    (ht : IsLevel target) (duration : Nat) (curve : Curve) (base : Timebase) (owner : Owner) :
    (s.startLevel c target duration curve base owner).MovesInRange := by
  have h' : (s.reportActive c).MovesInRange :=
    h.of_eq (State.reportActive_chan s c) (State.ShowFrame.reportActive s c).cues
  have level := (h.chan c).level
  unfold State.startLevel
  dsimp only
  split
  · exact (h'.setChan c ((h'.chan c).ended ht)).of_eq (State.reportEnd_chan _ _)
      (State.ShowFrame.reportEnd _ _).cues
  · refine h'.setChan c ⟨isLevel_moveLevel level ht _ _ _, ?_, (h'.chan c).waiting⟩
    rintro m ⟨⟩
    exact ⟨level, ht⟩

/-- The moves of a channel that are due start, the whole list being looked at (R97). -/
theorem State.MovesInRange.startDue {s : State} (h : s.MovesInRange) (c : Chan) {n : Nat}
    (hn : (s.chan c).waiting.length ≤ n) : (State.startDue n s c).MovesInRange :=
  h.of_chan c (by rw [State.startDue_chan n s c hn]; exact (h.chan c).started (h.chan c).waiting)
    (fun _ hd => State.startDue_other n s hd) (State.ShowFrame.startDue n s c).cues

theorem State.MovesInRange.startOwn {s : State} (h : s.MovesInRange) (id : Nat) (c : Chan) :
    (s.startOwn id c).MovesInRange := by
  refine h.of_chan c ?_ (fun _ hd => s.startOwn_other id hd) (State.ShowFrame.startOwn s id c).cues
  rw [State.startOwn_chan]
  split
  · exact h.chan c
  · rename_i hw
    split
    · exact (h.chan c).started (hw ▸ (h.chan c).waiting)
    · exact h.chan c

theorem State.MovesInRange.allMoves {s : State} (h : s.MovesInRange) : s.allMoves.MovesInRange := by
  constructor
  · intro c
    rw [State.allMoves_chan]
    exact ((h.chan c).activeAfter s).pendingAfter s
  · rw [(State.ShowFrame.allMoves s).cues]
    exact h.stored

/-! ### Firings (R72 to R74, R92, R109) -/

/-- A channel as a firing finds it has no more moves than before. -/
theorem State.MovesInRange.channelKept {s : State} (h : s.MovesInRange) (c : Chan) :
    (s.channelKept c).MovesInRange := by
  unfold State.channelKept
  split
  · exact h.chan c
  · split
    · exact h.chan c
    · refine ⟨(h.chan c).level, fun m hm => (h.chan c).active m ?_,
        fun p hp => (h.chan c).waiting p (List.mem_of_mem_filter hp)⟩
      exact (Option.filter_eq_some_iff.mp hm).1

theorem pendingFor_isLevel {cue : Cue} (h : ∀ m ∈ cue.moves, IsLevel m.target) (id : Nat) (c : Chan) :
    ∀ p ∈ pendingFor cue id c, IsLevel p.target := by
  intro p hp
  obtain ⟨m, hm, -, rfl⟩ := mem_pendingFor.mp hp
  exact h m hm

theorem State.MovesInRange.fireSteps {s : State} (h : s.MovesInRange) {cue : Cue} (hq : cue ∈ s.cues)
    (cause : Cause) : (s.fireSteps cue cause).MovesInRange := by
  refine ⟨fun c => ?_, (State.ShowFrame.fireSteps s cue cause).cues ▸ h.stored⟩
  rw [State.fireSteps_chan]
  split
  · exact (h.channelKept c).setWaiting (pendingFor_isLevel (h.stored cue hq) _ c)
  · exact h.channelKept c

theorem State.MovesInRange.fire {s : State} (h : s.MovesInRange) (cause : Cause) :
    (s.fire cause).MovesInRange := by
  unfold State.fire
  split
  · exact h
  · rename_i hn
    exact foldl_closed _ (fun _ c k => k.startOwn _ c) _ _ (h.fireSteps (State.nextCue_mem hn) cause)

theorem State.MovesInRange.settle (n : Nat) {s : State} (h : s.MovesInRange) :
    (State.settle n s).MovesInRange := by
  induction n generalizing s with
  | zero => exact h
  | succ n ih =>
    unfold State.settle
    split
    · exact ih (h.fire _)
    · exact h

theorem State.MovesInRange.settled {s : State} (h : s.MovesInRange) : s.settled.MovesInRange := h.settle _

theorem State.MovesInRange.settledFrom {s : State} (h : s.MovesInRange) (u : State) :
    (s.settledFrom u).MovesInRange := by
  unfold State.settledFrom
  split
  · exact h
  · exact h.settled

theorem State.MovesInRange.fireChain {s : State} (h : s.MovesInRange) (cause : Cause) :
    (s.fireChain cause).MovesInRange := (h.fire cause).settled

theorem State.MovesInRange.takeCrossing {s : State} (h : s.MovesInRange) : s.takeCrossing.MovesInRange := by
  unfold State.takeCrossing
  split
  · exact (h.fireChain .clock).of_eq rfl rfl
  · exact h

/-! ### Show states (R60 to R66, R80, R81, R188) -/

theorem State.MovesInRange.clearShow {s : State} (h : s.MovesInRange) : s.clearShow.MovesInRange := by
  refine ⟨fun c => ?_, (State.ShowFrame.clearShow s).cues ▸ h.stored⟩
  rw [State.clearShow_chan]
  exact (h.chan c).cleared

theorem State.MovesInRange.setShow {s : State} (h : s.MovesInRange) (st : ShowState) :
    (s.setShow st).MovesInRange := h.of_eq (State.setShow_chan s st) (State.PlayFrame.setShow s st).cues

theorem State.MovesInRange.enterSafe {s : State} (h : s.MovesInRange) : s.enterSafe.MovesInRange := by
  refine ⟨fun c => ?_, (State.PlayFrame.enterSafe s).cues ▸ h.stored⟩
  rcases s.enterSafe_chan c with e | e <;> rw [e]
  · exact h.chan c
  · exact (h.chan c).cleared

theorem State.MovesInRange.resumeShow {s : State} (h : s.MovesInRange) : s.resumeShow.MovesInRange := by
  have shown := h.setShow .running
  have armed : ((s.setShow .running).setArm (s.setShow .running).clockArm).MovesInRange :=
    shown.of_eq rfl rfl
  unfold State.resumeShow
  dsimp only
  split
  · exact armed.settled
  · exact shown.settled

theorem State.MovesInRange.raiseWithAct {s : State} (h : s.MovesInRange) (e : Event) :
    (s.raiseWithAct e).MovesInRange := by
  refine ⟨fun c => ?_, (State.PlayFrame.raiseWithAct s e).cues ▸ h.stored⟩
  rcases s.raiseWithAct_chan e c with k | k <;> rw [k]
  · exact h.chan c
  · exact (h.chan c).cleared

theorem State.MovesInRange.go {s : State} (h : s.MovesInRange) (cause : Cause) (n : Nat) :
    (s.go cause n).state.MovesInRange := by
  have opened : (s.setSeq { s.seq with gateTime := 0 }).MovesInRange := h.of_eq rfl rfl
  unfold State.go
  split
  · exact h
  · split
    · exact h
    · exact h
    · split
      · exact opened.resumeShow
      · exact h
    · split
      · split
        · exact h.of_eq rfl rfl
        · split
          · exact h
          · exact opened.fireChain cause
      · exact h

theorem State.MovesInRange.back {s : State} (h : s.MovesInRange) : s.back.1.MovesInRange := by
  unfold State.back
  split
  · exact h
  · split
    · exact h
    · split
      · exact h.of_eq rfl rfl
      · exact h.of_eq rfl rfl

theorem State.MovesInRange.leaveSafe {s : State} (h : s.MovesInRange) : s.leaveSafe.MovesInRange := by
  unfold State.leaveSafe
  dsimp only
  split <;> exact (h.setShow s.seq.ret).of_eq rfl rfl

end Sys2Proof.Machine
end

section
/-!
PROOF. The relation that every step keeps: levels stay levels, and with that mute factors and frames stay
bounded (R10, R20, R34, R160, R169). It holds of each operation on the fader surface, of the frame event, of
a wall millisecond and of the resets.
-/

namespace Sys2Proof.Machine

/-- From a state whose levels are in range the levels of the next are, and so are its mute factors and frames
where those of the first were. -/
def State.KeepsGains (s t : State) : Prop :=
  s.LevelsInRange → t.LevelsInRange ∧ (s.OutputBounded → t.OutputBounded)

theorem State.KeepsGains.refl (s : State) : s.KeepsGains s := fun h => ⟨h, id⟩

theorem State.KeepsGains.trans {s t u : State} (h : s.KeepsGains t) (k : t.KeepsGains u) :
    s.KeepsGains u := fun hs =>
  ⟨(k (h hs).1).1, fun ho => (k (h hs).1).2 ((h hs).2 ho)⟩

theorem State.KeepsGains.foldl {α : Type} (f : State → α → State)
    (h : ∀ (t : State) (a : α), t.KeepsGains (f t a)) (l : List α) (s : State) : s.KeepsGains (l.foldl f s) := by
  induction l generalizing s with
  | nil => exact KeepsGains.refl s
  | cons a l ih => exact (h s a).trans (ih _)

/-! ### Updates that reach no level and no frame -/

/-- Every frame in a shift or a stage is whole and bounded. -/
def Output.Bounded (o : Output) : Prop :=
  (∀ n, (∀ h, (o.lines.get n).shift = some h → h.frame.content.Bounded) ∧
    ∀ f, (o.lines.get n).stage = some f → f.content.Bounded) ∧
    (∀ h, o.surfaceShift = some h → h.frame.content.Bounded) ∧
      ∀ f, o.surfaceStage = some f → f.content.Bounded

/-- The invariant of the output, block by block. -/
theorem State.outputBounded_iff {s : State} :
    s.OutputBounded ↔ (∀ c, (s.chan c).mute ≤ 1024) ∧ s.output.Bounded := Iff.rfl

/-- Channels, cues and positions as they were, and bounded frames that stay bounded. -/
theorem State.KeepsGains.of_output {s t : State} (hc : t.chan = s.chan) (hq : t.cues = s.cues)
    (hf : t.fader = s.fader) (ho : s.output.Bounded → t.output.Bounded) : s.KeepsGains t := by
  rintro ⟨chan, cues, position⟩
  refine ⟨⟨by rwa [hc], by rwa [hq], by rwa [hf]⟩, fun ⟨mute, frames⟩ => ⟨by rwa [hc], ho frames⟩⟩

/-- Nothing that the invariants read has changed. -/
theorem State.KeepsGains.of_eq {s t : State} (hc : t.chan = s.chan) (hq : t.cues = s.cues)
    (hf : t.fader = s.fader) (ho : t.output = s.output) : s.KeepsGains t :=
  of_output hc hq hf fun h => ho ▸ h

/-- An operation on the show: it leaves mute factors, hands, positions and frames (R72, R81). -/
theorem State.KeepsGains.of_play {s t : State} (h : s.PlayFrame t)
    (hm : s.MovesInRange → t.MovesInRange) : s.KeepsGains t := by
  intro hs
  have ht := hm hs.moves
  obtain ⟨chan, cues, position⟩ := hs
  refine ⟨⟨fun c => ?_, by rwa [h.cues], fun f => ?_⟩, fun ⟨mute, frames⟩ => ⟨fun c => ?_, ?_⟩⟩
  · obtain ⟨base, -, effective, hand, -, -⟩ := chan c
    obtain ⟨level, active, waiting⟩ := ht.chan c
    rw [h.chan c]
    exact ⟨base, level, effective, hand, active, waiting⟩
  · rw [State.fader, h.surface]
    exact position f
  · rw [h.chan c]
    exact mute c
  · rw [h.output]
    exact frames

section
variable (s : State)

theorem State.KeepsGains.raise (e : Event) : s.KeepsGains (s.raise e) := of_eq rfl rfl rfl rfl

theorem State.KeepsGains.setSeq (x : Sequencer) : s.KeepsGains (s.setSeq x) := of_eq rfl rfl rfl rfl

theorem State.KeepsGains.setClock (x : Clock) : s.KeepsGains (s.setClock x) := of_eq rfl rfl rfl rfl

theorem State.KeepsGains.setContacts (x : Contacts) : s.KeepsGains (s.setContacts x) :=
  of_eq rfl rfl rfl rfl

theorem State.KeepsGains.setLink (x : Link) : s.KeepsGains (s.setLink x) := of_eq rfl rfl rfl rfl

theorem State.KeepsGains.setEvents (x : Events) : s.KeepsGains (s.setEvents x) := of_eq rfl rfl rfl rfl

theorem State.KeepsGains.setArm (a : Arm) : s.KeepsGains (s.setArm a) := of_eq rfl rfl rfl rfl

/-- A surface with the same faders. -/
theorem State.KeepsGains.setSurface {x : Surface} (h : x.faders = s.surface.faders) :
    s.KeepsGains (s.setSurface x) :=
  of_eq rfl rfl (by funext f; rw [State.fader, State.setSurface_surface, h]; rfl) rfl

theorem State.KeepsGains.setOutput {x : Output} (h : s.output.Bounded → x.Bounded) :
    s.KeepsGains (s.setOutput x) := of_output rfl rfl rfl h

theorem State.KeepsGains.setCues {x : List Cue}
    (h : s.LevelsInRange → ∀ q ∈ x, ∀ m ∈ q.moves, IsLevel m.target) : s.KeepsGains (s.setCues x) :=
  fun hs => ⟨⟨hs.1, h hs, hs.2.2⟩, id⟩

/-- A channel takes a record whose levels are in range, its mute factor as it was. -/
theorem State.KeepsGains.setChan (c : Chan) {r : Channel} (hr : s.LevelsInRange → r.InRange)
    (hm : r.mute = (s.chan c).mute) : s.KeepsGains (s.setChan c r) := by
  intro hs
  refine ⟨⟨fun d => ?_, hs.2⟩, fun ⟨mute, frames⟩ => ⟨fun d => ?_, frames⟩⟩
  · rw [State.setChan_chan]
    split
    · exact hr hs
    · exact hs.1 d
  · rw [State.setChan_chan]
    split
    · rw [hm]
      exact mute c
    · exact mute d

/-- Every channel takes a record whose levels are in range, its mute factor as it was. -/
theorem State.KeepsGains.setChannels {x : Tab 56 Channel} (hr : s.LevelsInRange → ∀ c, (x.get c).InRange)
    (hm : ∀ c, (x.get c).mute = (s.chan c).mute) : s.KeepsGains (s.setChannels x) := by
  intro hs
  refine ⟨⟨hr hs, hs.2⟩, fun ⟨mute, frames⟩ => ⟨fun c => ?_, frames⟩⟩
  show (x.get c).mute ≤ 1024
  rw [hm]
  exact mute c

theorem State.KeepsGains.setFader (f : Slot) {d : Fader} (h : s.LevelsInRange → d.position ≤ 1023) :
    s.KeepsGains (s.setFader f d) := by
  intro hs
  refine ⟨⟨hs.1, hs.2.1, fun g => ?_⟩, id⟩
  rw [State.setFader_fader]
  split
  · exact h hs
  · exact hs.2.2 g

/-- A fader takes another state or mapping and keeps its position. -/
theorem State.KeepsGains.setFaderAt (f : Slot) (state : FaderState) (mapping : Option Chan)
    (pending : Option (Option Chan)) (disagree : Bool) :
    s.KeepsGains (s.setFader f { s.fader f with state, mapping, pending, disagree }) :=
  setFader s f fun hs => hs.2.2 f

end

/-! ### Hands (R5, R138 to R141) -/

theorem Channel.InRange.setHand {r : Channel} (h : r.InRange) {k : Hand} (hk : k.InRange) :
    { r with hand := k }.InRange := by
  obtain ⟨base, level, effective, -, active, waiting⟩ := h
  exact ⟨base, level, effective, hk, active, waiting⟩

/-- The used level is a level (R5). -/
theorem Channel.InRange.used {r : Channel} (h : r.InRange) : IsLevel r.used := by
  obtain ⟨-, level, -, hand, -, -⟩ := h
  unfold Channel.used
  cases hh : r.hand with
  | free => exact level
  | held k => rw [hh] at hand; exact hand
  | gliding start since time =>
    rw [hh] at hand
    exact IsLevel.between hand level (glideLevel_between _ _ _ _)

theorem Channel.InRange.releaseLevel {r : Channel} (h : r.InRange) : IsLevel r.releaseLevel := by
  have used := h.used
  obtain ⟨-, -, -, hand, -, -⟩ := h
  unfold Channel.releaseLevel
  cases hh : r.hand with
  | free => exact used
  | held k => rw [hh] at hand; exact hand
  | gliding start since time => exact used

section
variable (s : State) (f : Slot)

/-- A channel is taken by a hand at the law's level of a position. -/
theorem State.KeepsGains.setHeld (c : Chan) {p : Nat} (hp : s.LevelsInRange → p ≤ 1023) :
    s.KeepsGains (s.setChan c { s.chan c with hand := .held (faderLaw p) }) :=
  setChan s c (fun hs => (hs.1 c).setHand (faderLaw_isLevel (hp hs))) rfl

theorem State.KeepsGains.takeTouch : s.KeepsGains (s.takeTouch f) := by
  have held (c : Chan) : s.KeepsGains ((s.setFader f { s.fader f with state := .holding }).setChan c
      { s.chan c with hand := .held (faderLaw (s.fader f).position) }) := by
    intro hs
    exact ((setFaderAt s f .holding (s.fader f).mapping (s.fader f).pending (s.fader f).disagree).trans
      (setHeld _ c fun _ => hs.2.2 f)) hs
  unfold State.takeTouch
  split
  · exact refl s
  · split
    · exact (setFaderAt s f _ _ _ _).trans (raise _ _)
    · exact held _
    · exact held _

theorem State.KeepsGains.reportActive (c : Chan) : s.KeepsGains (s.reportActive c) :=
  of_play (State.ShowFrame.reportActive s c).play fun h =>
    h.of_eq (State.reportActive_chan s c) (State.ShowFrame.reportActive s c).cues

theorem State.KeepsGains.handBack (c : Chan) {h : Int} (hh : s.LevelsInRange → IsLevel h) :
    s.KeepsGains (s.handBack c h) := by
  unfold State.handBack
  split
  · refine setChan s c (fun hs => (hs.1 c).setHand ?_) rfl
    split
    · trivial
    · exact hh hs
  · intro hs
    refine ((reportActive s c).trans (setChan _ c (fun ht => ?_) ?_)) hs
    case refine_2 => rfl
    obtain ⟨base, -, effective, -, -, waiting⟩ := ht.1 c
    exact ⟨base, hh hs, effective, trivial, nofun, waiting⟩

theorem State.KeepsGains.remap : s.KeepsGains (s.remap f) := by
  unfold State.remap
  split
  · exact refl s
  · exact (setFaderAt s f _ _ _ _).trans (raise _ _)

theorem State.KeepsGains.releaseFader : s.KeepsGains (s.releaseFader f) := by
  have freed : s.KeepsGains (s.setFader f { s.fader f with state := .free }) := setFaderAt s f _ _ _ _
  unfold State.releaseFader
  split
  · exact refl s
  · exact freed.trans (remap _ f)
  · dsimp only
    split
    · exact freed.trans (remap _ f)
    · exact (freed.trans (handBack _ _ fun hs => (hs.1 _).releaseLevel)).trans (remap _ f)

theorem State.KeepsGains.settledFrom (u : State) : s.KeepsGains (s.settledFrom u) :=
  of_play (State.ShowFrame.settledFrom s u).play fun h => h.settledFrom u

theorem State.KeepsGains.handOn : s.KeepsGains (s.handOn f) := by
  unfold State.handOn
  split
  · exact takeTouch s f
  · exact refl s

theorem State.KeepsGains.handOff : s.KeepsGains (s.handOff f) := by
  unfold State.handOff
  split
  · exact (releaseFader s f).trans (settledFrom _ s)
  · exact refl s

theorem State.KeepsGains.keyOn : s.KeepsGains (s.keyOn f) := by
  unfold State.keyOn State.toggleOperator
  split
  · split
    · exact refl s
    · exact setChan s _ (fun hs => hs.1 _) rfl
  · exact refl s

/-! ### Scan passes, banks and modes (R130, R131, R135, R136, R146) -/

theorem State.KeepsGains.takeReading {p : Nat} (hp : p ≤ 1023) : s.KeepsGains (s.takeReading f p) := by
  have placed : s.KeepsGains (s.setFader f { s.fader f with position := p }) := setFader s f fun _ => hp
  unfold State.takeReading
  dsimp only
  split
  · split
    · exact placed.trans (setHeld _ _ fun _ => hp)
    · exact placed
  · exact refl s

theorem State.KeepsGains.passFader (readings : Tab 16 (BitVec 10)) :
    s.KeepsGains (s.passFader readings f) := by
  have reading (x : BitVec 10) : x.toNat ≤ 1023 := Nat.le_of_lt_succ x.isLt
  unfold State.passFader
  split
  · exact takeReading s f (reading _)
  · split
    · obtain ⟨a, b, e, ha, hb⟩ : ∃ a b, wipersOf readings f = (a, b) ∧ a ≤ 1023 ∧ b ≤ 1023 :=
        ⟨_, _, rfl, reading _, reading _⟩
      rw [e]
      dsimp only
      split
      · exact (setFaderAt s f _ _ _ _).trans (takeReading _ f (by omega))
      · split
        · exact refl s
        · exact (setFaderAt s f _ _ _ _).trans (raise _ _)
    · exact refl s

theorem State.KeepsGains.mapFree (m : Option Chan) : s.KeepsGains (s.mapFree f m) := by
  unfold State.mapFree
  dsimp only
  split
  · exact (setFaderAt s f _ _ _ _).trans (takeTouch _ f)
  · exact setFaderAt s f _ _ _ _

theorem State.KeepsGains.applySlot (m : Option Chan) : s.KeepsGains (s.applySlot f m) := by
  unfold State.applySlot
  split
  · exact mapFree s f m
  · exact setFaderAt s f _ _ _ _
  · exact setFaderAt s f _ _ _ _

theorem State.KeepsGains.applyBank : s.KeepsGains s.applyBank := by
  refine foldl _ (fun t f => ?_) _ s
  split
  · exact applySlot t f _
  · exact refl t

theorem State.KeepsGains.retireSlot : s.KeepsGains (s.retireSlot f) :=
  (releaseFader s f).trans (setFader _ f fun _ => Nat.zero_le _)

theorem State.KeepsGains.reviveSlot : s.KeepsGains (s.reviveSlot f) :=
  (setFader s f fun _ => Nat.zero_le _).trans (mapFree _ f _)

theorem State.KeepsGains.modeChanged : s.KeepsGains s.modeChanged := by
  have agreed : s.KeepsGains (s.setSurface { s.surface with
      faders := s.surface.faders.map fun d => { d with disagree := false } }) := by
    intro hs
    refine ⟨⟨hs.1, hs.2.1, fun g => ?_⟩, id⟩
    simpa [State.fader] using hs.2.2 g
  unfold State.modeChanged
  dsimp only
  split
  · exact agreed.trans (foldl _ (fun t f => retireSlot t f) _ _)
  · exact agreed.trans (foldl _ (fun t f => reviveSlot t f) _ _)

end

end Sys2Proof.Machine
end

section
/-!
PROOF. The frame event and the sends: every frame that is built is whole and bounded (R34, R144, R160, R169).
-/

namespace Sys2Proof.Machine

/-! ### The channels of a frame event -/

/-- The mute step moves towards its goal, within 0..1024 (R30). -/
theorem muteStep_le {goal m : Nat} (hg : goal ≤ 1024) (hm : m ≤ 1024) (f ramp : Nat) :
    muteStep f ramp goal m ≤ 1024 := by
  unfold muteStep
  split
  · exact hg
  · dsimp only
    split
    · omega
    · split <;> omega

theorem State.muteGoal_le (s : State) (c : Chan) : s.muteGoal c ≤ 1024 := by
  rw [State.muteGoal_eq]
  split <;> omega

theorem Hand.InRange.atFrame {h : Hand} (k : h.InRange) : h.atFrame.InRange := by
  cases h with
  | free => trivial
  | held v => exact k
  | gliding start since time =>
    unfold Hand.atFrame
    dsimp only
    split
    · trivial
    · exact k

theorem State.atFrame_inRange {s : State} (h : ∀ c, (s.chan c).InRange) (f : Nat) (c : Chan) :
    (s.atFrame f c).InRange := by
  obtain ⟨base, level, effective, hand, active, waiting⟩ := h c
  unfold State.atFrame
  split
  · exact ⟨base, level, effectiveLevel_isLevel _ _ _, hand.atFrame, active, waiting⟩
  · exact ⟨base, level, effective, hand.atFrame, active, waiting⟩

theorem State.atFrame_mute {s : State} (h : ∀ c, (s.chan c).mute ≤ 1024) (f : Nat) (c : Chan) :
    (s.atFrame f c).mute ≤ 1024 := by
  unfold State.atFrame
  split
  · exact muteStep_le (s.muteGoal_le c) (h c) _ _
  · exact h c

theorem State.formed_cues (s : State) : s.formed.cues = s.cues := State.formChannels_cues _ _

theorem State.formed_fader (s : State) : s.formed.fader = s.fader := by
  funext f
  rw [State.fader, s.formed_surface]
  rfl

theorem State.KeepsGains.formed (s : State) : s.KeepsGains s.formed := by
  rintro ⟨chan, cues, position⟩
  refine ⟨⟨fun c => ?_, by rwa [s.formed_cues], by rwa [s.formed_fader]⟩,
    fun ⟨mute, frames⟩ => ⟨fun c => ?_, ?_⟩⟩
  · rw [s.formed_chan]
    exact s.atFrame_inRange chan _ c
  · rw [s.formed_chan]
    exact s.atFrame_mute mute _ c
  · rw [s.formed_output]
    exact frames

/-! ### The frames -/

theorem State.slotWord_le {s : State} (h : ∀ c, (s.chan c).InRange) (hm : ∀ c, (s.chan c).mute ≤ 1024)
    (n : GainNo) (k : Fin 64) : s.slotWord n k ≤ 3315888 := by
  unfold State.slotWord
  split
  · exact Nat.zero_le _
  · rename_i p _
    obtain ⟨-, -, effective, -, -, -⟩ := h (stripChan p)
    exact gainWord_le effective (hm _)

theorem State.gainFrame_bounded {s : State} (h : ∀ c, (s.chan c).InRange) (hm : ∀ c, (s.chan c).mute ≤ 1024)
    (n : GainNo) : (s.gainFrame n).content.Bounded := by
  refine ⟨by simp, fun w hw => ?_⟩
  obtain ⟨k, -, rfl⟩ := List.mem_map.mp hw
  exact s.slotWord_le h hm n k

theorem State.slotEntry_le {s : State} (h : ∀ c, (s.chan c).InRange) (f : Slot) :
    (s.slotEntry f).target ≤ 1023 := by
  unfold State.slotEntry
  split
  · split
    · exact Nat.zero_le _
    · exact motorTarget_le (h _).used.2
  · exact Nat.zero_le _

theorem State.surfaceFrame_bounded {s : State} (h : ∀ c, (s.chan c).InRange) :
    s.surfaceFrame.content.Bounded := by
  refine ⟨by simp [allSlots], fun e he => ?_⟩
  obtain ⟨f, -, rfl⟩ := List.mem_map.mp he
  exact s.slotEntry_le h f

/-- A gain line's frames, in the shift and in the stage. -/
def GainLine.Bounded (l : GainLine) : Prop :=
  (∀ h, l.shift = some h → h.frame.content.Bounded) ∧ ∀ f, l.stage = some f → f.content.Bounded

theorem GainLine.Bounded.place {l : GainLine} (h : l.Bounded) {f : Frame} (hf : f.content.Bounded)
    (b : Nat) : (l.place f b).Bounded := by
  by_cases hi : l.shift = none
  · rw [GainLine.place_idle hi]
    exact ⟨by rintro _ ⟨⟩; exact hf, h.2⟩
  · rw [GainLine.place_occupied hi]
    exact ⟨h.1, by rintro _ ⟨⟩; exact hf⟩

theorem nextShift_bounded {stage : Option Frame} (h : ∀ f, stage = some f → f.content.Bounded) (b : Nat)
    (e : Shifting) : ∀ x, nextShift stage b e = some x → x.frame.content.Bounded := by
  unfold nextShift
  cases stage with
  | none => nofun
  | some f =>
    rintro x ⟨⟩
    exact h f rfl

theorem State.placed_bounded {s : State} (ho : s.output.Bounded) (h : ∀ c, (s.formed.chan c).InRange)
    (hm : ∀ c, (s.formed.chan c).mute ≤ 1024) : s.placed.output.Bounded := by
  obtain ⟨lines, shift, stage⟩ := ho
  have framed := State.surfaceFrame_bounded h
  obtain ⟨idle, occupied⟩ := s.placed_surfaceLine
  refine ⟨fun n => ?_, ?_⟩
  · rw [s.placed_line]
    exact GainLine.Bounded.place (lines n) (State.gainFrame_bounded h hm n) _
  · by_cases hi : s.output.surfaceShift = none
    · obtain ⟨hs, hg⟩ := idle hi
      rw [hs, hg]
      exact ⟨by rintro _ ⟨⟩; exact framed, stage⟩
    · obtain ⟨hs, hg⟩ := occupied hi
      rw [hs, hg]
      exact ⟨shift, by rintro _ ⟨⟩; exact framed⟩

theorem State.KeepsGains.placed (s : State) : s.KeepsGains s.placed := by
  intro hs
  obtain ⟨levels, outputs⟩ := KeepsGains.formed s hs
  refine ⟨levels, fun ho => ?_⟩
  obtain ⟨mute, -⟩ := outputs ho
  exact ⟨mute, State.placed_bounded ho.2 levels.1 mute⟩

theorem State.KeepsGains.raiseWithAct (s : State) (e : Event) : s.KeepsGains (s.raiseWithAct e) :=
  of_play (State.PlayFrame.raiseWithAct s e) fun h => h.raiseWithAct e

theorem State.KeepsGains.frameEvent (s : State) : s.KeepsGains s.frameEvent := by
  rw [State.frameEvent_eq]
  exact State.raiseLate_keeps (fun u hu => hu.trans (raiseWithAct u _)) s (placed s)

theorem State.KeepsGains.sendEnd (s : State) (l : OutLine) : s.KeepsGains (s.sendEnd l) := by
  unfold State.sendEnd
  cases l with
  | gain n =>
    dsimp only
    split
    · exact refl s
    · refine setOutput s fun ⟨lines, surface⟩ => ⟨fun k => ?_, surface⟩
      dsimp only
      rw [Tab.get_set]
      split
      · exact ⟨nextShift_bounded (lines n).2 _ _, nofun⟩
      · exact lines k
  | surface =>
    dsimp only
    split
    · exact refl s
    · exact setOutput s fun ⟨lines, shift, stage⟩ => ⟨lines, nextShift_bounded stage _ _, nofun⟩

end Sys2Proof.Machine
end

section
/-!
PROOF. What the part does by itself keeps the levels and the frames in range: the wall millisecond, moves and
firings by their own timers, time marks, contact lines, tracking scans and resets (R10, R20, R34, R160, R169).
-/

namespace Sys2Proof.Machine

/-! ### The show by its own events -/

/-- An operation that is taken under a condition and leaves the state otherwise. -/
theorem State.KeepsGains.ifTaken {s t : State} (c : Prop) [Decidable c] (h : s.KeepsGains t) :
    s.KeepsGains (if c then s else t) := by
  split
  · exact refl _
  · exact h

section
variable (s : State)

theorem State.KeepsGains.holdShow : s.KeepsGains s.holdShow :=
  of_play (State.PlayFrame.holdShow s) fun h => h.of_eq (State.holdShow_chan s) (State.PlayFrame.holdShow s).cues

theorem State.KeepsGains.enterSafe : s.KeepsGains s.enterSafe :=
  of_play (State.PlayFrame.enterSafe s) fun h => h.enterSafe

theorem State.KeepsGains.resumeShow : s.KeepsGains s.resumeShow :=
  of_play (State.PlayFrame.resumeShow s) fun h => h.resumeShow

theorem State.KeepsGains.leaveSafe : s.KeepsGains s.leaveSafe :=
  of_play (State.PlayFrame.leaveSafe s) fun h => h.leaveSafe

theorem State.KeepsGains.clearShow : s.KeepsGains s.clearShow :=
  of_play (State.ShowFrame.clearShow s).play fun h => h.clearShow

theorem State.KeepsGains.setShow (st : ShowState) : s.KeepsGains (s.setShow st) :=
  of_play (State.PlayFrame.setShow s st) fun h => h.setShow st

theorem State.KeepsGains.go (cause : Cause) (n : Nat) : s.KeepsGains (s.go cause n).state :=
  of_play (State.PlayFrame.go s cause n) fun h => h.go cause n

theorem State.KeepsGains.back : s.KeepsGains s.back.1 :=
  of_play (State.PlayFrame.back s) fun h => h.back

theorem State.KeepsGains.takeCrossing : s.KeepsGains s.takeCrossing :=
  of_play (State.PlayFrame.takeCrossing s) fun h => h.takeCrossing

theorem State.KeepsGains.fireChain (cause : Cause) : s.KeepsGains (s.fireChain cause) :=
  of_play (State.ShowFrame.fireChain s cause).play fun h => h.fireChain cause

theorem State.KeepsGains.completeMove (c : Chan) : s.KeepsGains (s.completeMove c) :=
  of_play (State.ShowFrame.completeMove s c).play fun h => h.completeMove c

theorem State.KeepsGains.startLevel (c : Chan) {target : Int} (ht : IsLevel target) (duration : Nat)
    (curve : Curve) (base : Timebase) (owner : Owner) :
    s.KeepsGains (s.startLevel c target duration curve base owner) :=
  of_play (State.ShowFrame.startLevel s c target duration curve base owner).play
    fun h => h.startLevel c ht duration curve base owner

/-- The moves of a pending list that fall due within a time start (R94, R97). -/
theorem State.KeepsGains.startWithin (c : Chan) (d : Nat) {p : PendingMove} {rest : List PendingMove}
    (hw : (s.chan c).waiting = p :: rest) :
    s.KeepsGains (State.startDue (rest.length + 1)
      (s.setChan c { s.chan c with waiting := dueWithin d (p :: rest) }) c) := by
  have waits : s.KeepsGains (s.setChan c { s.chan c with waiting := dueWithin d (p :: rest) }) := by
    refine setChan s c (fun hs => ?_) rfl
    obtain ⟨base, level, effective, hand, active, waiting⟩ := hs.1 c
    refine ⟨base, level, effective, hand, active, fun q hq => ?_⟩
    obtain ⟨k, hk, rfl⟩ := List.mem_map.mp hq
    exact waiting k (hw ▸ hk)
  refine waits.trans (of_play (State.ShowFrame.startDue _ _ c).play fun h => h.startDue c ?_)
  simp [dueWithin]

end

/-! ### Contact lines (R149 to R153) -/

section
variable (s : State)

theorem State.KeepsGains.judgedPress (r : Result) : s.KeepsGains (s.judgedPress r) := by
  unfold State.judgedPress
  split
  · exact refl s
  · exact (setContacts s _).trans (raise _ _)

theorem State.KeepsGains.contactGo : s.KeepsGains s.contactGo :=
  (go s .goContact 0).trans (judgedPress _ _)

theorem State.KeepsGains.contactBack : s.KeepsGains s.contactBack := (back s).trans (judgedPress _ _)

theorem State.KeepsGains.contactRequest (l : ContactLine) : s.KeepsGains (s.contactRequest l) := by
  cases l with
  | cgo => exact contactGo s
  | cback => exact contactBack s
  | chold => exact holdShow s
  | csafe => exact enterSafe s

theorem State.KeepsGains.contactChanged (l : ContactLine) (active : Bool) :
    s.KeepsGains (s.contactChanged l active) := setContacts s _

theorem State.KeepsGains.press (l : ContactLine) {act : State → State} (h : ∀ t : State, t.KeepsGains (act t)) :
    s.KeepsGains (s.press l act) := ifTaken _ ((contactChanged s l true).trans (h _))

theorem State.KeepsGains.touchChanged (f : Slot) (active : Bool) : s.KeepsGains (s.touchChanged f active) :=
  setSurface s rfl

theorem State.KeepsGains.keyChanged (f : Slot) (active : Bool) : s.KeepsGains (s.keyChanged f active) :=
  setSurface s rfl

/-! ### The wall millisecond (R26, R98, R114, R115, R132, R149) -/

theorem Output.Bounded.tick {o : Output} (h : o.Bounded) : o.tick.Bounded := by
  obtain ⟨lines, shift, stage⟩ := h
  refine ⟨fun n => ?_, fun x hx => ?_, stage⟩
  · obtain ⟨sent, staged⟩ := lines n
    rw [Output.tick, Tab.get_map]
    refine ⟨fun x hx => ?_, staged⟩
    obtain ⟨y, hy, rfl⟩ := Option.map_eq_some_iff.mp hx
    exact sent y hy
  · obtain ⟨y, hy, rfl⟩ := Option.map_eq_some_iff.mp hx
    exact shift y hy

theorem Hand.InRange.tick {h : Hand} (k : h.InRange) : h.tick.InRange := by
  cases h with
  | free => trivial
  | held v => exact k
  | gliding start since time => exact k

theorem State.KeepsGains.tickCounters : s.KeepsGains s.tickCounters :=
  of_output rfl rfl rfl Output.Bounded.tick

theorem State.KeepsGains.glide : s.KeepsGains s.glide := by
  refine setChannels s (fun hs c => ?_) fun c => by rw [Tab.get_map]; rfl
  rw [Tab.get_map]
  obtain ⟨-, -, -, hand, -, -⟩ := hs.1 c
  exact (hs.1 c).setHand hand.tick

theorem State.KeepsGains.armTick : s.KeepsGains s.armTick := by
  refine of_play s.armTick_frame.play fun h => h.of_eq ?_ s.armTick_frame.cues
  unfold State.armTick
  repeat' split
  all_goals rfl

theorem State.KeepsGains.allMoves : s.KeepsGains s.allMoves :=
  of_play (State.ShowFrame.allMoves s).play fun h => h.allMoves

theorem State.KeepsGains.advanceAll : s.KeepsGains s.advanceAll := by
  have moved := ((((tickCounters s).trans (glide _)).trans (armTick _)).trans (allMoves _)).trans
    (settledFrom _ s.tickCounters.glide.armTick)
  unfold State.advanceAll
  dsimp only
  split
  · exact moved.trans (takeCrossing _)
  · exact moved

theorem State.KeepsGains.touchActs (f : Slot) (old : Bool) : s.KeepsGains (s.touchActs f old) := by
  unfold State.touchActs
  split
  · exact handOn s f
  · exact handOff s f
  · exact refl s
  · exact refl s

theorem State.KeepsGains.keyActs (f : Slot) (old : Bool) : s.KeepsGains (s.keyActs f old) := by
  unfold State.keyActs
  split
  · exact keyOn s f
  · exact refl s

theorem State.KeepsGains.contactActs (l : ContactLine) (old : Bool) :
    s.KeepsGains (s.contactActs l old) := by
  unfold State.contactActs
  split
  · exact contactRequest s l
  · exact refl s

theorem State.KeepsGains.sampleAll (x : Pins) : s.KeepsGains (s.sampleAll x) := by
  have sampled : s.KeepsGains (s.sampled x) := of_eq rfl rfl rfl rfl
  have touched : (s.sampled x).KeepsGains (s.touched x) := foldl _ (fun t f => touchActs t f _) _ _
  have keyed : (s.touched x).KeepsGains (s.keyed x) := foldl _ (fun t f => keyActs t f _) _ _
  have contacts : (s.keyed x).KeepsGains (s.sampleAll x) := foldl _ (fun t l => contactActs t l _) _ _
  exact ((sampled.trans touched).trans keyed).trans contacts

theorem State.KeepsGains.takePins (x : Pins) : s.KeepsGains (s.takePins x) :=
  (setLink s _).trans (setClock _ _)

theorem State.KeepsGains.setInputs (l : List Pins) : s.KeepsGains (s.setInputs l) := of_eq rfl rfl rfl rfl

theorem State.KeepsGains.millisecond :
    s.KeepsGains (((s.advanceAll.sampleAll s.shown).takePins s.shown).setInputs s.inputs.tail) :=
  (((advanceAll s).trans (sampleAll _ _)).trans (takePins _ _)).trans (setInputs _ _)

/-! ### The show clock and the link (R112, R116 to R121, R177) -/

theorem State.KeepsGains.badMark : s.KeepsGains s.badMark := (setClock s _).trans (raise _ _)

theorem State.KeepsGains.correct (m : Nat) : s.KeepsGains (s.correct m) := by
  have locked (k : Clock) (b : Bool) :
      s.KeepsGains (if b then (s.setClock k).raise .clockLocked else s.setClock k) := by
    split
    · exact (setClock s k).trans (raise _ _)
    · exact setClock s k
  unfold State.correct
  dsimp only
  split
  · exact (locked _ _).trans (takeCrossing _)
  · exact locked _ _

theorem State.KeepsGains.runningMark (song m : Nat) : s.KeepsGains (s.runningMark song m) := by
  unfold State.runningMark
  split
  · exact (setClock s _).trans (raise _ _)
  · exact correct s m

theorem State.KeepsGains.stoppedMark (song m : Nat) : s.KeepsGains (s.stoppedMark song m) := by
  unfold State.stoppedMark
  dsimp only
  split
  · exact setClock s _
  · exact (setClock s _).trans (raise _ _)

theorem State.KeepsGains.loseClock : s.KeepsGains s.loseClock := (setClock s _).trans (raiseWithAct _ _)

theorem State.KeepsGains.timeoutClock : s.KeepsGains s.timeoutClock := by
  unfold State.timeoutClock
  split
  · exact setClock s _
  · split
    · exact loseClock s
    · exact (setClock s _).trans (raise _ _)
  all_goals exact refl s

theorem State.KeepsGains.judgeTimers : s.KeepsGains s.judgeTimers := by
  unfold State.judgeTimers
  split
  · exact timeoutClock s
  · split
    · exact loseClock s
    · exact refl s

theorem State.KeepsGains.linkFault (after : Receiver) (quiet : Nat) (count : Link → Link) :
    s.KeepsGains (s.linkFault after quiet count) := by
  unfold State.linkFault
  split
  · exact (setLink s _).trans (raise _ _)
  · exact refl s

theorem State.KeepsGains.sequenceIdle : s.KeepsGains s.sequenceIdle := by
  unfold State.sequenceIdle
  split
  · exact setEvents s _
  · exact refl s

end

/-! ### Tracking scans (R83, R84) -/

/-- The move that gives a level or a mute is one of the list. -/
theorem greatestDelay_mem {moves : List StoredMove} {m : StoredMove} (h : greatestDelay moves = some m) :
    m ∈ moves := by
  refine List.foldlRecOn (motive := fun best : Option StoredMove => ∀ m, best = some m → m ∈ moves) moves _
    (fun _ e => absurd e (Option.some_ne_none _).symm) (fun best hb x hx => ?_) m h
  cases best with
  | none =>
    rintro _ ⟨⟩
    exact hx
  | some b =>
    dsimp only
    split
    · rintro _ ⟨⟩
      exact hx
    · exact hb

theorem levelMove_mem {cue : Cue} {c : Chan} {m : StoredMove} (h : cue.levelMove c = some m) : m ∈ cue.moves :=
  List.mem_of_mem_filter (greatestDelay_mem h)

/-- A tracked level is a base level or the target of a stored move (R83). -/
theorem trackedLevel_isLevel {cues : List Cue} (h : ∀ q ∈ cues, ∀ m ∈ q.moves, IsLevel m.target) (k : Nat)
    (c : Chan) {base : Int} (hb : IsLevel base) : IsLevel (trackedLevel cues k c base) := by
  refine List.foldlRecOn (motive := IsLevel) _ _ hb fun v hv q hq => ?_
  split
  · exact hv
  · rename_i m hm
    exact h q (List.mem_of_mem_filter hq) m (levelMove_mem hm)

theorem Channel.InRange.loaded {r : Channel} (h : r.InRange) {target : Int} (ht : IsLevel target)
    (mute : Bool) (time : Nat) : (r.loaded target mute time).InRange := by
  obtain ⟨base, level, effective, hand, active, waiting⟩ := h
  unfold Channel.loaded
  split
  · exact ⟨base, level, effective, hand, active, waiting⟩
  · split
    · exact ⟨base, ht, effective, hand, active, waiting⟩
    · refine ⟨base, level, effective, hand, ?_, waiting⟩
      rintro m ⟨⟩
      exact ⟨level, ht⟩

theorem Channel.loaded_mute (r : Channel) (target : Int) (mute : Bool) (time : Nat) :
    (r.loaded target mute time).mute = r.mute := by
  unfold Channel.loaded
  repeat' split
  all_goals rfl

theorem State.KeepsGains.loadScan (s : State) (k : Scan) : s.KeepsGains (s.loadScan k) := by
  have loaded : s.clearShow.KeepsGains (s.clearShow.setChannels (Tab.build 56 fun c =>
      (s.clearShow.chan c).loaded (trackedLevel s.clearShow.cues k.cue c (s.clearShow.chan c).cfg.base)
        (trackedMute s.clearShow.cues k.cue c) k.loadTime)) := by
    refine setChannels _ (fun hs c => ?_) fun c => ?_
    · rw [Tab.get_build]
      obtain ⟨base, -⟩ := hs.1 c
      exact (hs.1 c).loaded (trackedLevel_isLevel hs.2.1 k.cue c base) _ _
    · rw [Tab.get_build, Channel.loaded_mute]
  unfold State.loadScan
  dsimp only
  split
  · exact (((clearShow s).trans loaded).trans (setSeq _ _)).trans (setArm _ _)
  · exact ((clearShow s).trans loaded).trans (setSeq _ _)

/-! ### Resets (R10, R192, R195) -/

theorem Channel.InRange.afterReset {r : ChannelConfig} (h : IsLevel r.base) (m : Nat) :
    (Channel.afterReset r m).InRange := ⟨h, h, isLevel_off, trivial, nofun, nofun⟩

theorem Output.afterReset_bounded (stored : OutputConfig) (routes : Tab 48 (Option (GainNo × Fin 64))) :
    (Output.afterReset stored routes).Bounded := by
  refine ⟨fun n => ?_, nofun, nofun⟩
  rw [Output.afterReset, Tab.get_replicate]
  exact ⟨nofun, nofun⟩

section
variable (s : State)

theorem State.KeepsGains.takeReset (cause : ResetCause) : s.KeepsGains (s.takeReset cause) := by
  rintro ⟨chan, cues, -⟩
  have e (c : Chan) : (s.takeReset cause).chan c =
      Channel.afterReset (s.chan c).cfg (if s.live && isStrip c then 0 else 1024) := Tab.get_build _ c
  refine ⟨⟨fun c => ?_, cues, fun f => ?_⟩, fun _ => ⟨fun c => ?_, Output.afterReset_bounded _ _⟩⟩
  · rw [e]
    obtain ⟨base, -⟩ := chan c
    exact Channel.InRange.afterReset base _
  · have fresh : (s.takeReset cause).fader f = Fader.fresh _ := Tab.get_build _ f
    rw [fresh]
    exact Nat.zero_le _
  · rw [e]
    show (if s.live && isStrip c then 0 else 1024) ≤ 1024
    split <;> omega

theorem State.KeepsGains.takePowerOn (straps : BitVec 5) : s.KeepsGains (s.takePowerOn straps) :=
  fun _ => ⟨State.reset_levelsInRange, fun _ => State.reset_outputBounded⟩

/-- The reset pin and the link restart that falls together with it (R192). -/
theorem State.KeepsGains.resetPin (straps : BitVec 5) : s.KeepsGains
    ((if s.link.restartDue then
      ((s.setLink { s.link with straps }).takeReset .resetPin).takeReset .linkRestart
    else (s.setLink { s.link with straps }).takeReset .resetPin).setResetLow true) := by
  have taken := (setLink s { s.link with straps }).trans (takeReset _ .resetPin)
  have held (t : State) : t.KeepsGains (t.setResetLow true) := of_eq rfl rfl rfl rfl
  split
  · exact (taken.trans (takeReset _ _)).trans (held _)
  · exact taken.trans (held _)

end

end Sys2Proof.Machine
end

section
/-!
PROOF. What the requests leave of the levels and the frames, and with that every command and every step
(R10, R20, R34, R160, R169).
-/

namespace Sys2Proof.Machine

/-! ### Receiving and judging a request (R178, R179, R193) -/

section
variable (s : State)

theorem State.KeepsGains.enqueue (v : Served) (code : Byte) (broadcast : Bool) :
    v.state.KeepsGains (State.enqueue v code broadcast) := by
  unfold State.enqueue
  split
  · exact refl _
  · exact setLink _ _

theorem State.KeepsGains.dropRequest : s.KeepsGains s.dropRequest := (setLink s _).trans (raise _ _)

theorem State.KeepsGains.receive (d : Dest) (code : Byte) {serve : Bool → State → Served}
    (h : ∀ (b : Bool) (t : State), t.KeepsGains (serve b t).state) :
    s.KeepsGains (s.receive d code serve) := by
  have good : s.KeepsGains s.goodRequest := setLink s _
  unfold State.receive
  split
  · dsimp only
    split
    · exact (good.trans (h _ _)).trans (enqueue _ _ _)
    · exact good.trans (dropRequest _)
  · exact refl s

theorem State.KeepsGains.judge {α : Type} (parsed : Option α) {serve : α → State → Served}
    (h : ∀ f, s.KeepsGains (serve f s).state) (carried : State → List Byte) :
    s.KeepsGains (judge parsed serve s carried).state := by
  unfold Machine.judge
  cases parsed with
  | none => exact sequenceIdle s
  | some f =>
    dsimp only
    split
    · exact sequenceIdle s
    · exact h f

/-- A request keeps what its own block keeps when it serves it. -/
theorem State.KeepsGains.request {α : Type} (d : Dest) (code : Byte) (parsed : Option α)
    {serve : α → Bool → State → Served} (h : ∀ f b (t : State), t.KeepsGains (serve f b t).state)
    (carried : State → List Byte := fun _ => []) : s.KeepsGains (s.request d code parsed serve carried) :=
  receive s d code fun _ t => judge t parsed (fun f => h f _ t) carried

theorem State.KeepsGains.ofQuery {α : Type} (d : Dest) (code : Byte) (parsed : Option α)
    (answer : α → State → Answer) : s.KeepsGains (s.request d code parsed (query answer)) :=
  request s d code parsed fun _ _ t => refl t

end

/-- A request that is answered without effect under a condition. -/
theorem State.KeepsGains.ifRefused {s : State} (c : Prop) [Decidable c] {w v : Served} (hw : w.state = s)
    (h : s.KeepsGains v.state) : s.KeepsGains (if c then w else v).state := by
  split
  · rw [hw]
    exact refl s
  · exact h

/-! ### The requests of each block -/

theorem isLevel_clampLevel (v : Int) : IsLevel (clampLevel v) := by
  unfold clampLevel clampInt IsLevel
  omega

section
variable (b : Bool) (s : State)

theorem State.KeepsGains.serveLinkSetup (f : LinkSetup) : s.KeepsGains (serveLinkSetup f b s).state := by
  unfold Machine.serveLinkSetup
  dsimp only
  split
  · exact (setLink s _).trans (setLink _ _)
  · exact setLink s _

theorem State.KeepsGains.serveEventsSetup (f : EventsSetup) :
    s.KeepsGains (serveEventsSetup f b s).state := by
  unfold Machine.serveEventsSetup
  split
  · exact setEvents s _
  · exact refl s

theorem State.KeepsGains.serveEventsRead (g : Byte) : s.KeepsGains (serveEventsRead g b s).state := by
  unfold Machine.serveEventsRead
  exact ifRefused _ rfl (ifRefused _ rfl (setEvents s _))

theorem State.KeepsGains.serveRestart (step : Nat) : s.KeepsGains (serveRestart step b s).state := by
  unfold Machine.serveRestart
  split
  · exact sequenceIdle s
  · cases s.events.sequence with
    | idle =>
      dsimp only
      split
      · exact setEvents s _
      · exact refl s
    | step1 =>
      dsimp only
      split
      · exact setEvents s _
      · exact setEvents s _
    | step2 =>
      dsimp only
      split
      · split
        · exact (setEvents s _).trans (takeReset _ _)
        · exact setEvents s _
      · exact setEvents s _
    | due => exact of_eq rfl rfl rfl rfl

theorem State.KeepsGains.serveChannelSetup (f : ChannelSetup) :
    s.KeepsGains (serveChannelSetup f b s).state := by
  unfold Machine.serveChannelSetup
  split
  · exact refl s
  · split
    · refine setChan s _ (fun hs => ?_) rfl
      obtain ⟨-, level, effective, hand, active, waiting⟩ := hs.1 _
      exact ⟨isLevel_clampLevel _, level, effective, hand, active, waiting⟩
    · exact refl s

theorem State.KeepsGains.serveTrim (f : TrimBody) : s.KeepsGains (serveTrim f b s).state := by
  unfold Machine.serveTrim
  split
  · exact refl s
  · exact setChan s _ (fun hs => hs.1 _) rfl

theorem State.KeepsGains.serveMuteRemote (f : MuteRemote) : s.KeepsGains (serveMuteRemote f b s).state := by
  unfold Machine.serveMuteRemote
  split
  · exact setChan s _ (fun hs => hs.1 _) rfl
  · exact refl s

theorem State.KeepsGains.serveLevel (f : LevelBody) : s.KeepsGains (serveLevel f b s).state := by
  unfold Machine.serveLevel
  split
  · exact (startLevel s _ (isLevel_clampLevel _) _ _ _ _).trans (settledFrom _ s)
  · exact refl s

/-! #### The cue list (R42, R50 to R56) -/

theorem mem_putCue {c q : Cue} {l : List Cue} (h : q ∈ putCue c l) : q = c ∨ q ∈ l := by
  induction l with
  | nil => exact .inl (List.mem_singleton.mp h)
  | cons x l ih =>
    unfold putCue at h
    split at h
    · exact List.mem_cons.mp h
    · split at h
      · exact (List.mem_cons.mp h).imp_right (List.mem_cons_of_mem _)
      · rcases List.mem_cons.mp h with rfl | h
        · exact .inr List.mem_cons_self
        · exact (ih h).imp_right (List.mem_cons_of_mem _)

/-- A cue whose targets are levels takes its place in the list. -/
theorem State.KeepsGains.putCue {c : Cue}
    (h : s.LevelsInRange → ∀ m ∈ c.moves, IsLevel m.target) : s.KeepsGains (s.setCues (putCue c s.cues)) := by
  refine setCues s fun hs q hq => ?_
  rcases mem_putCue hq with rfl | hq
  · exact h hs
  · exact hs.2.1 q hq

theorem findCue_mem {cues : List Cue} {n : Nat} {q : Cue} (h : findCue cues n = some q) : q ∈ cues :=
  List.mem_of_find?_eq_some h

/-- The moves that a replaced cue leaves have level targets. -/
theorem State.LevelsInRange.keptMoves {s : State} (h : s.LevelsInRange) (n : Nat) (keep : Bool) :
    ∀ m ∈ keptMoves (findCue s.cues n) keep, IsLevel m.target := by
  unfold Machine.keptMoves
  split
  · exact nofun
  · rename_i q hq
    split
    · exact h.2.1 q (findCue_mem hq)
    · exact nofun

theorem MoveEntry.stored_isLevel {e : MoveEntry} {m : StoredMove} (h : e.stored = some m) :
    IsLevel m.target := by
  unfold MoveEntry.stored at h
  split at h
  · split at h
    · cases h
    · cases h
      exact isLevel_clampLevel _
  · cases h
    exact isLevel_off
  · cases h

theorem State.KeepsGains.serveCuePut (f : CuePut) : s.KeepsGains (serveCuePut f b s).state := by
  unfold Machine.serveCuePut
  split
  · exact ifRefused _ rfl (ifRefused _ rfl (ifRefused _ rfl (ifRefused _ rfl
      (putCue s fun hs => hs.keptMoves _ _))))
  · exact refl s

theorem State.KeepsGains.serveMovesAdd (f : MovesAdd) : s.KeepsGains (serveMovesAdd f b s).state := by
  have added {q : Cue} (hq : findCue s.cues f.cue = some q) : s.KeepsGains (s.setCues (Machine.putCue
      { q with moves := q.moves ++ f.entries.filterMap MoveEntry.stored } s.cues)) := by
    refine putCue s fun hs m hm => ?_
    rcases List.mem_append.mp hm with hm | hm
    · exact hs.2.1 q (findCue_mem hq) m hm
    · obtain ⟨e, -, he⟩ := List.mem_filterMap.mp hm
      exact MoveEntry.stored_isLevel he
  unfold Machine.serveMovesAdd
  refine ifRefused _ rfl (ifRefused _ rfl (ifRefused _ rfl ?_))
  cases hq : findCue s.cues f.cue with
  | none => exact refl s
  | some q => exact ifRefused _ rfl (ifRefused _ rfl (ifRefused _ rfl (ifRefused _ rfl (added hq))))

theorem State.KeepsGains.deleteCue (n : Nat) : s.KeepsGains (s.deleteCue n) := by
  have removed : s.KeepsGains ((s.playheadWithout n).setCues (removeCue s.cues n)) :=
    (setSeq s _).trans (setCues _ fun hs q hq => hs.2.1 q (List.mem_of_mem_filter hq))
  unfold State.deleteCue
  dsimp only
  split
  · exact removed.trans (setArm _ _)
  · exact removed

theorem State.KeepsGains.serveCueDelete (n : Nat) : s.KeepsGains (serveCueDelete n b s).state := by
  unfold Machine.serveCueDelete
  exact ifRefused _ rfl (ifRefused _ rfl (ifRefused _ rfl (ifRefused _ rfl (deleteCue s n))))

theorem State.KeepsGains.serveListClear (u : Unit) : s.KeepsGains (serveListClear u b s).state := by
  unfold Machine.serveListClear
  refine ifRefused _ rfl ?_
  split
  · exact (setCues s fun _ _ h => absurd h List.not_mem_nil).trans (setSeq _ _)
  · exact refl s

/-! #### The show (R61 to R66, R69, R80 to R82, R87) -/

theorem State.KeepsGains.serveShowStart (u : Unit) : s.KeepsGains (serveShowStart u b s).state := by
  unfold Machine.serveShowStart
  exact ifRefused _ rfl (ifRefused _ rfl (ifRefused _ rfl
    (((setShow s _).trans (setSeq _ _)).trans (setArm _ _))))

theorem State.KeepsGains.serveShowEnd (u : Unit) : s.KeepsGains (serveShowEnd u b s).state := by
  unfold Machine.serveShowEnd
  exact ifRefused _ rfl (ifRefused _ rfl (ifRefused _ rfl
    (((setSeq s _).trans (setArm _ _)).trans (setShow _ _))))

theorem State.KeepsGains.serveGo (n : Nat) : s.KeepsGains (serveGo n b s).state := by
  unfold Machine.serveGo
  dsimp only
  split
  · exact refl s
  · exact go s _ _

theorem State.KeepsGains.serveBack (u : Unit) : s.KeepsGains (serveBack u b s).state := back s

theorem State.KeepsGains.serveHold (u : Unit) : s.KeepsGains (serveHold u b s).state := by
  unfold Machine.serveHold
  split
  · exact holdShow s
  · exact refl s

theorem State.KeepsGains.serveResume (u : Unit) : s.KeepsGains (serveResume u b s).state := by
  unfold Machine.serveResume
  split
  · exact resumeShow s
  · exact refl s

theorem State.KeepsGains.serveStop (u : Unit) : s.KeepsGains (serveStop u b s).state := by
  unfold Machine.serveStop
  split
  · exact clearShow s
  · exact refl s

theorem State.KeepsGains.serveSafe (u : Unit) : s.KeepsGains (serveSafe u b s).state := enterSafe s

theorem State.KeepsGains.serveSafeRelease (u : Unit) : s.KeepsGains (serveSafeRelease u b s).state := by
  unfold Machine.serveSafeRelease
  split
  · exact leaveSafe s
  · exact refl s

theorem State.KeepsGains.serveGoto (f : GotoBody) : s.KeepsGains (serveGoto f b s).state := by
  unfold Machine.serveGoto
  exact ifRefused _ rfl (ifRefused _ rfl (ifRefused _ rfl ((setSeq s _).trans (setArm _ _))))

theorem State.KeepsGains.serveNoticesRead (n : Byte) : s.KeepsGains (serveNoticesRead n b s).state := by
  unfold Machine.serveNoticesRead
  exact ifRefused _ rfl (ifRefused _ rfl (setSeq s _))

/-! #### Clock, surface, contacts and output (R126, R134, R135, R146, R155, R163, R170) -/

theorem State.KeepsGains.serveClockSetup (f : ClockConfig) : s.KeepsGains (serveClockSetup f b s).state :=
  (setClock s _).trans (judgeTimers _)

/-- Another configuration, other banks, another active bank. -/
theorem State.KeepsGains.setBanks (cfg : SurfaceConfig) (banks : Tab 8 Bank) (activeBank : Fin 8) :
    s.KeepsGains (s.setSurface { s.surface with cfg, banks, activeBank }) := setSurface s rfl

theorem State.KeepsGains.serveSurfaceSetup (f : SurfaceSetup) :
    s.KeepsGains (serveSurfaceSetup f b s).state := by
  unfold Machine.serveSurfaceSetup
  split
  · exact refl s
  · dsimp only
    split
    · exact setBanks s _ _ _
    · exact ((setBanks s _ _ _).trans (modeChanged _)).trans (settledFrom _ s)

theorem State.KeepsGains.serveBankPut (f : BankPut) : s.KeepsGains (serveBankPut f b s).state := by
  unfold Machine.serveBankPut
  split
  · split
    · exact refl s
    · dsimp only
      split
      · exact (setBanks s _ _ _).trans (applyBank _)
      · exact setBanks s _ _ _
  · exact refl s

theorem State.KeepsGains.serveBankSelect (k : Byte) : s.KeepsGains (serveBankSelect k b s).state := by
  unfold Machine.serveBankSelect
  split
  · exact refl s
  · exact (setBanks s _ _ _).trans (applyBank _)

theorem State.KeepsGains.serveContactSetup (f : ContactSetup) :
    s.KeepsGains (serveContactSetup f b s).state := by
  unfold Machine.serveContactSetup
  split
  · exact refl s
  · exact setContacts s _

theorem State.KeepsGains.serveOutputSetup (f : OutputSetup) :
    s.KeepsGains (serveOutputSetup f b s).state := by
  unfold Machine.serveOutputSetup
  split
  · exact setOutput s id
  · exact refl s

theorem State.KeepsGains.serveRoutePut (f : RoutePut) : s.KeepsGains (serveRoutePut f b s).state := by
  unfold Machine.serveRoutePut
  repeat' split
  case h_2 => exact setOutput s id
  all_goals exact refl s

end

end Sys2Proof.Machine
end

section
/-!
PROOF. O59: every command keeps the levels and the frames in range, and so does every step (R10, R20, R34,
R160, R169).
-/

namespace Sys2Proof.Machine

/-! ### Commands whose effect is written in their arm -/

section
variable (s : State)

/-- A good mark is judged by its running flag (R111, R112). -/
theorem State.KeepsGains.timeMark (song : Byte) (position : BitVec 32) (flags check : Byte) :
    ∃ u, execTimeMark song position flags check s = .next u ∧ s.KeepsGains u := by
  have collected := setClock s { s.clock with receiver := .hunt }
  refine ⟨_, rfl, ifTaken _ ?_⟩
  split
  · exact badMark s
  · split
    · exact badMark s
    · dsimp only
      split
      · exact collected.trans (runningMark _ _ _)
      · exact collected.trans (stoppedMark _ _ _)

theorem State.KeepsGains.passEnd (readings : Tab 16 (BitVec 10)) :
    ∃ u, execPassEnd readings s = .next u ∧ s.KeepsGains u := by
  have begun : s.KeepsGains (s.setSurface { s.surface with
      wipers := readings, passLeft := s.surface.cfg.period }) := setSurface s rfl
  exact ⟨_, rfl, ifTaken _ (begun.trans (foldl _ (fun t f => passFader t f readings) _ _))⟩

theorem State.KeepsGains.gotoComplete : ∃ u, execGotoComplete s = .next u ∧ s.KeepsGains u := by
  refine ⟨_, rfl, ifTaken _ ?_⟩
  split
  · exact refl s
  · exact (loadScan s _).trans (setLink _ _)

theorem State.KeepsGains.moveStart (c : Chan) : ∃ u, execMoveStart c s = .next u ∧ s.KeepsGains u := by
  refine ⟨_, rfl, ifTaken _ ?_⟩
  split
  · exact refl s
  · rename_i hw
    split
    · exact (startWithin s c _ hw).trans (settledFrom _ s)
    · exact refl s

theorem State.KeepsGains.moveComplete (c : Chan) :
    ∃ u, execMoveComplete c s = .next u ∧ s.KeepsGains u := by
  refine ⟨_, rfl, ifTaken _ ?_⟩
  split
  · exact refl s
  · split
    · exact (completeMove s c).trans (settledFrom _ s)
    · exact refl s

theorem State.KeepsGains.replySend : ∃ u, execReplySend s = .next u ∧ s.KeepsGains u := by
  refine ⟨_, rfl, ?_⟩
  split
  · split
    · exact refl s
    · exact setLink s _
  · exact refl s

/-- The end of a reply may bring the link restart about (R181, R193). -/
theorem State.KeepsGains.replyEnd : ∃ u, execReplyEnd s = .next u ∧ s.KeepsGains u := by
  refine ⟨_, rfl, ifTaken _ ?_⟩
  dsimp only
  split
  · exact setLink s _
  · split
    · exact setLink s _
    · exact (setLink s _).trans (setLink _ _)
    · exact (setLink s _).trans (takeReset _ _)

theorem State.KeepsGains.otherTraffic : ∃ u, execTrafficForOtherParts s = .next u ∧ s.KeepsGains u := by
  refine ⟨_, rfl, ?_⟩
  split
  · split
    · exact setLink s _
    · exact linkFault s _ _ _
  · exact refl s

theorem State.KeepsGains.requestOverrun : ∃ u, execRequestOverrun s = .next u ∧ s.KeepsGains u := by
  refine ⟨_, rfl, ?_⟩
  split
  · exact (setLink s _).trans (dropRequest _)
  · exact refl s

theorem State.KeepsGains.restart (d : Dest) (body : List Byte) :
    ∃ u, execRestart d body s = .next u ∧ s.KeepsGains u := by
  refine ⟨_, rfl, receive s d _ fun b t => ?_⟩
  split
  · exact sequenceIdle t
  · exact serveRestart b t _

end

/-- Every command keeps the levels and the frames in range. -/
theorem State.KeepsGains.exec (i : Instr) (s : State) : ∃ u, exec i s = .next u ∧ s.KeepsGains u := by
  cases i with
  | nop | linkQuery | restartQuery | channelQuery | cueQuery | movesQuery | listQuery | showQuery | clockQuery
  | surfaceQuery | contactQuery | routeQuery | outputQuery => exact ⟨_, rfl, ofQuery s _ _ _ _⟩
  | linkSetup => exact ⟨_, rfl, request s _ _ _ fun f b t => serveLinkSetup b t f⟩
  | eventsSetup => exact ⟨_, rfl, request s _ _ _ fun f b t => serveEventsSetup b t f⟩
  | eventsRead => exact ⟨_, rfl, request s _ _ _ fun f b t => serveEventsRead b t f⟩
  | restart => exact restart s _ _
  | channelSetup => exact ⟨_, rfl, request s _ _ _ fun f b t => serveChannelSetup b t f⟩
  | trim => exact ⟨_, rfl, request s _ _ _ fun f b t => serveTrim b t f⟩
  | muteRemote => exact ⟨_, rfl, request s _ _ _ fun f b t => serveMuteRemote b t f⟩
  | level => exact ⟨_, rfl, request s _ _ _ fun f b t => serveLevel b t f⟩
  | cuePut => exact ⟨_, rfl, request s _ _ _ fun f b t => serveCuePut b t f⟩
  | movesAdd => exact ⟨_, rfl, request s _ _ _ fun f b t => serveMovesAdd b t f⟩
  | cueDelete => exact ⟨_, rfl, request s _ _ _ fun f b t => serveCueDelete b t f⟩
  | listClear => exact ⟨_, rfl, request s _ _ _ fun f b t => serveListClear b t f⟩
  | showStart => exact ⟨_, rfl, request s _ _ _ fun f b t => serveShowStart b t f⟩
  | showEnd => exact ⟨_, rfl, request s _ _ _ fun f b t => serveShowEnd b t f⟩
  | go => exact ⟨_, rfl, request s _ _ _ (fun f b t => serveGo b t f) _⟩
  | back => exact ⟨_, rfl, request s _ _ _ (fun f b t => serveBack b t f) _⟩
  | hold => exact ⟨_, rfl, request s _ _ _ fun f b t => serveHold b t f⟩
  | resume => exact ⟨_, rfl, request s _ _ _ fun f b t => serveResume b t f⟩
  | stop => exact ⟨_, rfl, request s _ _ _ fun f b t => serveStop b t f⟩
  | safe => exact ⟨_, rfl, request s _ _ _ fun f b t => serveSafe b t f⟩
  | safeRelease => exact ⟨_, rfl, request s _ _ _ fun f b t => serveSafeRelease b t f⟩
  | gotoCue => exact ⟨_, rfl, request s _ _ _ fun f b t => serveGoto b t f⟩
  | noticesRead => exact ⟨_, rfl, request s _ _ _ fun f b t => serveNoticesRead b t f⟩
  | clockSetup => exact ⟨_, rfl, request s _ _ _ fun f b t => serveClockSetup b t f⟩
  | surfaceSetup => exact ⟨_, rfl, request s _ _ _ fun f b t => serveSurfaceSetup b t f⟩
  | bankPut => exact ⟨_, rfl, request s _ _ _ fun f b t => serveBankPut b t f⟩
  | bankSelect => exact ⟨_, rfl, request s _ _ _ fun f b t => serveBankSelect b t f⟩
  | contactSetup => exact ⟨_, rfl, request s _ _ _ fun f b t => serveContactSetup b t f⟩
  | outputSetup => exact ⟨_, rfl, request s _ _ _ fun f b t => serveOutputSetup b t f⟩
  | routePut => exact ⟨_, rfl, request s _ _ _ fun f b t => serveRoutePut b t f⟩
  | unknownType => exact ⟨_, rfl, receive s _ _ fun _ t => sequenceIdle t⟩
  | requestOverrun => exact requestOverrun s
  | linkFramingFault | linkGapFault | linkFormFault | linkCheckFault => exact ⟨_, rfl, linkFault s _ _ _⟩
  | replySend => exact replySend s
  | replyEnd => exact replyEnd s
  | linkSilence => exact ⟨_, rfl, ifTaken _ ((setLink s _).trans (raiseWithAct _ _))⟩
  | restartWindowLapse => exact ⟨_, rfl, ifTaken _ (sequenceIdle s)⟩
  | powerOn => exact ⟨_, rfl, takePowerOn s _⟩
  | resetPin => exact ⟨_, rfl, ifTaken _ (resetPin s _)⟩
  | resetPinRelease => exact ⟨_, rfl, of_eq rfl rfl rfl rfl⟩
  | timeMark => exact timeMark s _ _ _ _
  | markFramingFault | markGapFault => exact ⟨_, rfl, ifTaken _ (badMark s)⟩
  | markTimeout => exact ⟨_, rfl, ifTaken _ (timeoutClock s)⟩
  | freewheelLimit => exact ⟨_, rfl, ifTaken _ (loseClock s)⟩
  | clockAdvance => exact ⟨_, rfl, ifTaken _ (millisecond s)⟩
  | waitExpiry => exact ⟨_, rfl, ifTaken _ (fireChain s _)⟩
  | gotoComplete => exact gotoComplete s
  | moveStart => exact moveStart s _
  | moveComplete => exact moveComplete s _
  | passEnd => exact passEnd s _
  | qualifiedTouch => exact ⟨_, rfl, ifTaken _ ((touchChanged s _ _).trans (handOn _ _))⟩
  | qualifiedRelease => exact ⟨_, rfl, ifTaken _ ((touchChanged s _ _).trans (handOff _ _))⟩
  | keyPress => exact ⟨_, rfl, ifTaken _ ((keyChanged s _ _).trans (keyOn _ _))⟩
  | keyRelease => exact ⟨_, rfl, ifTaken _ (keyChanged s _ _)⟩
  | contactGoPress => exact ⟨_, rfl, press s _ contactGo⟩
  | contactBackPress => exact ⟨_, rfl, press s _ contactBack⟩
  | contactHoldPress => exact ⟨_, rfl, press s _ holdShow⟩
  | contactSafePress => exact ⟨_, rfl, press s _ enterSafe⟩
  | contactRelease => exact ⟨_, rfl, ifTaken _ (contactChanged s _ _)⟩
  | frameEvent => exact ⟨_, rfl, ifTaken _ (frameEvent s)⟩
  | sendEnd => exact ⟨_, rfl, ifTaken _ (sendEnd s _)⟩
  | trafficForOtherParts => exact otherTraffic s

/-! ### The step -/

/-- What a command leaves of a state that keeps the levels of another. -/
theorem State.KeepsGains.of_exec {s t u : State} {i : Instr} (h : s.KeepsGains u)
    (e : Machine.exec i u = .next t) : s.KeepsGains t := by
  obtain ⟨v, hv, k⟩ := exec i u
  cases hv.symm.trans e
  exact h.trans k

/-- A character of LRX that is judged changes the link alone (R176, R177). -/
theorem State.KeepsGains.judgeLink (s : State) (x : LinkHeard) (rest : List LinkHeard) :
    s.KeepsGains (s.judgeLink x rest).1 := by
  unfold State.judgeLink
  split
  · exact refl s
  · split
    · exact setLink s _
    · split
      · exact refl s
      · split <;> exact setLink s _

/-- A character of TMIN that is judged changes the show clock alone (R111, R112). -/
theorem State.KeepsGains.judgeMark (s : State) (x : MarkHeard) (rest : List MarkHeard) :
    s.KeepsGains (s.judgeMark x rest).1 := by
  unfold State.judgeMark
  split
  · exact setClock s _
  · split
    · exact refl s
    · exact setClock s _

theorem State.KeepsGains.nextCharacter {s t : State} {i : Option Instr} (h : s.nextCharacter = some (t, i)) :
    s.KeepsGains t := by
  unfold State.nextCharacter at h
  split at h
  · cases h
  · split at h
    · rename_i x rest _
      have k := judgeLink s x rest
      rwa [Option.some.inj h] at k
    · rename_i x rest _ _
      have k := judgeMark s x rest
      rwa [Option.some.inj h] at k
    · cases h

/-- Settles O59: the command taken, the character judged, or the part's own event. -/
theorem gainsKept : Obligations.GainsKept := by
  intro s t h
  suffices k : s.KeepsGains t from k
  unfold step at h
  split at h
  · rename_i c rest _
    have taken : s.KeepsGains (s.setPending rest) := State.KeepsGains.of_eq rfl rfl rfl rfl
    exact taken.of_exec h
  · split at h
    · rename_i hc
      exact (State.KeepsGains.nextCharacter hc).of_exec h
    · rename_i hc
      cases h
      exact State.KeepsGains.nextCharacter hc
    · split at h
      · exact (State.KeepsGains.refl s).of_exec h
      · cases h
        exact State.KeepsGains.refl s

end Sys2Proof.Machine
end

section
/-!
PROOF. The table T and the mute step (R7 to R9, R30, R31, R33).
-/

namespace Sys2Proof.Machine

/-! ### The table T (R33) -/

/-- `v` is 1,048,576 × 10^(r / 200) rounded half up, stated on 200th powers (R33). -/
abbrev RoundedEntry (r v : Nat) : Prop :=
  (2 * v - 1) ^ 200 ≤ 2 ^ 4200 * 10 ^ r ∧ 2 ^ 4200 * 10 ^ r < (2 * v + 1) ^ 200

/-- Every entry of the table is rounded as R33 says: 200 comparisons of whole numbers. -/
theorem gainTable_entries : ∀ p ∈ gainTable.zipIdx, RoundedEntry p.2 p.1 := by decide +kernel

theorem gainTable_rounded {r v : Nat} (h : gainTable[r]? = some v) : RoundedEntry r v :=
  gainTable_entries (v, r) (List.mk_mem_zipIdx_iff_getElem?.mpr h)

/-- Settles O50: the entries one by one, their order from that of neighbours. -/
theorem gainTable_holds : Obligations.GainTable := by
  refine ⟨gainTable_length, fun r v h => gainTable_rounded h, gainTable_ascending, rfl, rfl, rfl, ?_⟩
  rintro v ⟨⟩
  decide

/-! ### The mute step (R30, R31) -/

/-- A quotient rounded up is the least number of steps that reach (R30). -/
theorem ceilDiv_le_iff {n d x : Nat} (h : 1 ≤ d) : ceilDiv n d ≤ x ↔ n ≤ x * d := by
  rw [ceilDiv, Nat.div_le_iff_le_mul_add_pred h, Nat.mul_comm]
  omega

theorem ceilDiv_eq_of_least {n d k : Nat} (h : 1 ≤ d) (reach : n ≤ k * d)
    (least : ∀ x, n ≤ x * d → k ≤ x) : ceilDiv n d = k :=
  Nat.le_antisymm ((ceilDiv_le_iff h).mpr reach) (least _ ((ceilDiv_le_iff h).mp (Nat.le_refl _)))

/-- With ramp time 0 the mute factor is its goal at once (R30). -/
theorem muteStep_zero (f goal m : Nat) : muteStep f 0 goal m = goal := rfl

/-- The mute factor moves by its step toward the goal and stops there (R30). -/
theorem muteStep_cases {f ramp : Nat} (h : 1 ≤ ramp) (goal m : Nat) :
    (m < goal → muteStep f ramp goal m = min (m + ceilDiv (1024 * f) ramp) goal) ∧
    (goal < m → muteStep f ramp goal m = max (m - ceilDiv (1024 * f) ramp) goal) ∧
    (m = goal → muteStep f ramp goal m = m) := by
  unfold muteStep
  rw [if_neg (by omega)]
  refine ⟨fun hm => if_pos hm, fun hm => ?_, fun hm => ?_⟩
  · dsimp only
    rw [if_neg (by omega), if_pos hm]
  · dsimp only
    rw [if_neg (by omega), if_neg (by omega)]

/-- Settles O51: the sources bit by bit, the frame event's own step, and the step's arithmetic. -/
theorem muteStep_holds : Obligations.MuteStep := by
  refine ⟨fun s c => ?sources, fun s p goal ramp m hs hm hg hr => ?frame, fun f ramp goal m => ?step⟩
  case sources =>
    obtain ⟨cue, operator, remote, group, safe, lt⟩ := s.muteSources_bits c
    refine ⟨cue, operator, remote, ?_, ?_, lt⟩
    · rw [group]
      exact s.groupSource_iff c
    · rw [safe]
      exact beq_iff_eq
  case frame =>
    subst hm hg hr
    obtain ⟨mute, -⟩ := s.frameEvent_chan (stripChan p)
    obtain ⟨formed, -⟩ := s.formed_strip (c := stripChan p) p.isLt rfl
    refine ⟨s.frameEvent, ?_, ?_⟩
    · show Host.Outcome.next (if s.resetLow then s else s.frameEvent) = _
      rw [hs]
      rfl
    · rw [mute, formed, s.frameEvent_eq, (State.PlayFrame.raiseLate s s.placed).output, s.placed_output]
  case step =>
    refine ⟨?_, fun d h reach least => ?_, fun hg hm => muteStep_le hg hm f ramp⟩
    · rintro rfl
      exact muteStep_zero f goal m
    · rw [← ceilDiv_eq_of_least h reach least]
      exact muteStep_cases h goal m

end Sys2Proof.Machine
end

section
/-!
PROOF. The wall millisecond, block by block: what its counters, the advance and the sample leave of every part
of the state (R26, R68, R93, R98, R102, R103, R113 to R115, R129, R132, R149, R158, R165, R183, R193).
-/

namespace Sys2Proof.Machine

/-- One wall millisecond of a part that RESETn does not hold. -/
def State.wallMillisecond (s : State) : State :=
  ((s.advanceAll.sampleAll s.shown).takePins s.shown).setInputs s.inputs.tail

theorem exec_clockAdvance {s : State} (h : s.resetLow = false) :
    exec .clockAdvance s = .next s.wallMillisecond := by
  show Host.Outcome.next (if s.resetLow then s else s.wallMillisecond) = _
  rw [h]
  rfl

/-! ### The advance -/

section
variable (s : State)

theorem State.advanceAll_cues : s.advanceAll.cues = s.cues := s.advanceAll_frame.1.cues

theorem State.advanceAll_link : s.advanceAll.link = s.link.tick := s.advanceAll_frame.1.link

theorem State.advanceAll_output : s.advanceAll.output = s.output.tick := s.advanceAll_frame.1.output

theorem State.advanceAll_surface :
    s.advanceAll.surface = { s.surface with passLeft := s.surface.passLeft - 1 } :=
  s.advanceAll_frame.1.surface

theorem State.advanceAll_contacts : s.advanceAll.contacts = s.contacts := s.advanceAll_frame.1.contacts

theorem State.advanceAll_clock :
    s.advanceAll.clock = { s.clock.tick with point := s.advanceAll.clock.point } :=
  s.advanceAll_frame.1.clock

theorem State.advanceAll_events : s.advanceAll.events =
    { s.events with
      window := if s.stepping then countUp 1000 s.events.window else s.events.window
      flags := s.advanceAll.events.flags } := s.advanceAll_frame.1.events

/-- The advance touches no part of a channel but its glide, its moves and what these write (R26, R98). -/
theorem State.advanceAll_chan (c : Chan) : s.advanceAll.chan c =
    { s.chan c with
      hand := (s.chan c).hand.after, level := (s.advanceAll.chan c).level
      cue := (s.advanceAll.chan c).cue, active := (s.advanceAll.chan c).active
      waiting := (s.advanceAll.chan c).waiting } := by
  have glide : s.tickCounters.glide.chan c = { s.chan c with hand := (s.chan c).hand.after } := by
    have tick (x : Hand) : x.tick = x.after := by cases x <;> rfl
    rw [← tick]
    exact Tab.get_map _ _ c
  rw [s.advanceAll_frame.1.chan c, glide]

theorem State.advanceAll_scan :
    s.advanceAll.seq.scan = s.seq.scan.map fun k => { k with age := k.age + 1 } := by
  have h := s.moved_frame.scan
  rw [State.advanceAll_eq]
  split
  · unfold State.takeCrossing
    split
    · exact (State.ShowFrame.fireChain s.moved .clock).scan.trans h
    · exact h
  · exact h

theorem State.advanceAll_fader : s.advanceAll.fader = s.fader := by
  funext f
  rw [State.fader, s.advanceAll_surface]
  rfl

end

/-! ### The sample -/

/-- The surface whose lines have been sampled at these pins (R132). -/
def Surface.sampled (u : Surface) (x : Pins) : Surface :=
  { u with
    touch := Tab.build 16 fun f => (u.touch.get f).sample u.cfg.qualify (x.touch.get f)
    keys := Tab.build 16 fun f => (u.keys.get f).sample u.cfg.qualify (x.keys.get f) }

/-- The contact lines sampled at these pins (R149). -/
def Contacts.sampled (u : Contacts) (x : Pins) : Contacts :=
  { u with
    lines := Tab.build 4 fun i =>
      (u.lines.get i).sample u.cfg.qualify (u.cfg.polarity.get i) (x.contacts.get i) }

section
variable (s : State) (x : Pins)

theorem State.sampled_eq :
    s.sampled x = (s.setSurface (s.surface.sampled x)).setContacts (s.contacts.sampled x) := by
  unfold State.sampled Surface.sampled Contacts.sampled
  dsimp only

theorem State.sampled_seq : (s.sampled x).seq = s.seq := by
  rw [sampled_eq, setContacts_seq, setSurface_seq]

theorem State.sampled_cues : (s.sampled x).cues = s.cues := by
  rw [sampled_eq, setContacts_cues, setSurface_cues]

theorem State.sampled_clock : (s.sampled x).clock = s.clock := by
  rw [sampled_eq, setContacts_clock, setSurface_clock]

theorem State.sampled_events : (s.sampled x).events = s.events := by
  rw [sampled_eq, setContacts_events, setSurface_events]

theorem State.sampled_link : (s.sampled x).link = s.link := by
  rw [sampled_eq, setContacts_link, setSurface_link]

theorem State.sampled_output : (s.sampled x).output = s.output := by
  rw [sampled_eq, setContacts_output, setSurface_output]

theorem State.sampled_chan : (s.sampled x).chan = s.chan := by
  rw [sampled_eq, setContacts_chan, setSurface_chan]

theorem State.sampled_surface : (s.sampled x).surface = s.surface.sampled x := by
  rw [sampled_eq, setContacts_surface, setSurface_surface]

theorem State.sampled_contacts : (s.sampled x).contacts = s.contacts.sampled x := by
  rw [sampled_eq, setContacts_contacts]

theorem State.sampled_fader (f : Slot) : (s.sampled x).fader f = s.fader f := by
  unfold State.fader
  rw [sampled_surface, Surface.sampled]

end

/-! ### Pins taken after the sample -/

section
variable (s : State) (x : Pins)

theorem State.setInputs_chan (l : List Pins) : (s.setInputs l).chan = s.chan := rfl
theorem State.takePins_seq : (s.takePins x).seq = s.seq := rfl
theorem State.takePins_chan : (s.takePins x).chan = s.chan := rfl
theorem State.takePins_cues : (s.takePins x).cues = s.cues := rfl
theorem State.takePins_output : (s.takePins x).output = s.output := rfl
theorem State.takePins_events : (s.takePins x).events = s.events := rfl
theorem State.takePins_surface : (s.takePins x).surface = s.surface := rfl
theorem State.takePins_contacts : (s.takePins x).contacts = s.contacts := rfl

theorem State.takePins_link : (s.takePins x).link =
    { s.link with
      straps := x.straps, line := s.link.line.map LinkHeard.aged ++ x.lrx, begun := x.lrxBegun } := rfl

theorem State.takePins_clock : (s.takePins x).clock =
    { s.clock with line := s.clock.line ++ x.tmin, begun := x.tminBegun } := rfl

end

/-! ### The millisecond -/

section
variable (s : State)

theorem State.wallMillisecond_seq : s.wallMillisecond.seq = (s.advanceAll.sampleAll s.shown).seq := by
  rw [wallMillisecond, setInputs_seq, takePins_seq]

theorem State.wallMillisecond_chan : s.wallMillisecond.chan = (s.advanceAll.sampleAll s.shown).chan := by
  rw [wallMillisecond, setInputs_chan, takePins_chan]

theorem State.wallMillisecond_surface_eq :
    s.wallMillisecond.surface = (s.advanceAll.sampleAll s.shown).surface := by
  rw [wallMillisecond, setInputs_surface, takePins_surface]

theorem State.wallMillisecond_contacts_eq :
    s.wallMillisecond.contacts = (s.advanceAll.sampleAll s.shown).contacts := by
  rw [wallMillisecond, setInputs_contacts, takePins_contacts]

theorem State.wallMillisecond_events_eq :
    s.wallMillisecond.events = (s.advanceAll.sampleAll s.shown).events := by
  rw [wallMillisecond, setInputs_events, takePins_events]

theorem State.wallMillisecond_clock_eq : s.wallMillisecond.clock =
    { (s.advanceAll.sampleAll s.shown).clock with
      line := (s.advanceAll.sampleAll s.shown).clock.line ++ s.shown.tmin, begun := s.shown.tminBegun } := by
  rw [wallMillisecond, setInputs_clock, takePins_clock]

theorem State.wallMillisecond_fader (f : Slot) :
    s.wallMillisecond.fader f = (s.advanceAll.sampleAll s.shown).fader f := by
  unfold State.fader
  rw [wallMillisecond_surface_eq]

theorem State.wallMillisecond_flagged (e : Event) :
    s.wallMillisecond.flagged e = (s.advanceAll.sampleAll s.shown).flagged e := by
  unfold State.flagged
  rw [wallMillisecond_events_eq]

theorem State.wallMillisecond_cues : s.wallMillisecond.cues = s.cues := by
  rw [wallMillisecond, setInputs_cues, takePins_cues, (sampleAll_frame _ _).cues, sampled_cues,
    advanceAll_cues]

/-- The clock counts its timers, P advances, and TMIN takes what the pins bring (R111 to R114). -/
theorem State.wallMillisecond_clock : s.wallMillisecond.clock =
    { s.clock.tick with
      point := s.wallMillisecond.clock.point
      line := s.clock.line ++ s.shown.tmin, begun := s.shown.tminBegun } := by
  rw [wallMillisecond_clock_eq, (sampleAll_frame _ _).clock, sampled_clock, advanceAll_clock]
  rfl

/-- The link counts its timers, and LRX takes what the pins bring (R173, R177, R180, R183). -/
theorem State.wallMillisecond_link : s.wallMillisecond.link =
    { s.link.tick with
      straps := s.shown.straps, line := s.link.line.map LinkHeard.aged ++ s.shown.lrx
      begun := s.shown.lrxBegun } := by
  rw [wallMillisecond, setInputs_link, takePins_link, (sampleAll_frame _ _).link, sampled_link,
    advanceAll_link]
  rfl

theorem State.wallMillisecond_output : s.wallMillisecond.output = s.output.tick := by
  rw [wallMillisecond, setInputs_output, takePins_output, (sampleAll_frame _ _).output, sampled_output,
    advanceAll_output]

/-- The window of the restart sequence counts while a step waits for the next (R193). -/
theorem State.wallMillisecond_events : s.wallMillisecond.events =
    { s.events with
      window := if s.stepping then countUp 1000 s.events.window else s.events.window
      flags := s.wallMillisecond.events.flags } := by
  rw [wallMillisecond_events_eq, (sampleAll_frame _ _).events, sampled_events, advanceAll_events]

/-- The surface's pass counts, and its lines are sampled (R129, R132). -/
theorem State.wallMillisecond_surface : s.wallMillisecond.surface =
    { s.surface.sampled s.shown with
      passLeft := s.surface.passLeft - 1, faders := s.wallMillisecond.surface.faders } := by
  rw [wallMillisecond_surface_eq, (sampleAll_frame _ _).surface, sampled_surface, advanceAll_surface]
  rfl

/-- The contact lines are sampled (R149). -/
theorem State.wallMillisecond_contacts : s.wallMillisecond.contacts =
    { s.contacts.sampled s.shown with ignored := s.wallMillisecond.contacts.ignored } := by
  rw [wallMillisecond_contacts_eq, (sampleAll_frame _ _).contacts, sampled_contacts, advanceAll_contacts]

theorem State.wallMillisecond_cfg (c : Chan) : (s.wallMillisecond.chan c).cfg = (s.chan c).cfg := by
  rw [wallMillisecond_chan, (sampleAll_frame _ _).cfg, sampled_chan, advanceAll_chan]

/-- A millisecond keeps the retained memory (R195). -/
theorem State.wallMillisecond_retained : s.wallMillisecond.retained = s.retained := by
  have chans : s.wallMillisecond.channels.map Channel.cfg = s.channels.map Channel.cfg :=
    Tab.ext_get fun c => by
      rw [Tab.get_map, Tab.get_map]
      exact s.wallMillisecond_cfg c
  rw [State.retained, chans, wallMillisecond_cues, wallMillisecond_clock, wallMillisecond_link,
    wallMillisecond_output, wallMillisecond_events, wallMillisecond_surface, wallMillisecond_contacts]
  rfl

end

/-- P advances by ρ units of 1/65536 ms where it runs and does not reach its stop (R114). -/
theorem Clock.tick_position {k : Clock} (h : k.runs = true)
    (top : k.whole + (k.frac + k.rate) / 65536 ≤ 4294967295) :
    k.tick.whole * 65536 + k.tick.frac = k.whole * 65536 + k.frac + k.rate := by
  simp only [Clock.tick, h, if_true, wholePart, Nat.min_eq_left top]
  omega

theorem Clock.tick_still {k : Clock} (h : k.runs = false) :
    k.tick.whole = k.whole ∧ k.tick.frac = k.frac := by
  simp [Clock.tick, h]

theorem Clock.runs_iff {k : Clock} :
    k.runs = true ↔ k.state = .locking ∨ k.state = .locked ∨ k.state = .freewheel := by
  simp [Clock.runs, or_assoc]

end Sys2Proof.Machine
end

section
/-!
PROOF. What each act of a sample leaves: of the touch lines, of the keys and of the contact lines, one after
another (R132, R138 to R143, R149 to R153).
-/

namespace Sys2Proof.Machine

/-! ### Touch lines -/

/-- What the acts of slot `g`'s touch line leave as it was: show state and scan, the OPERATOR sources, and
every other fader (R138 to R141). -/
structure State.TouchFrame (g : Slot) (s t : State) : Prop where
  state : t.seq.state = s.seq.state
  scan : t.seq.scan = s.seq.scan
  operator : ∀ c, (t.chan c).operator = (s.chan c).operator
  fader : ∀ f, f ≠ g → t.fader f = s.fader f

section
variable (g : Slot) (s : State)

theorem State.TouchFrame.refl : TouchFrame g s s := ⟨rfl, rfl, fun _ => rfl, fun _ _ => rfl⟩

variable {g s} in
theorem State.TouchFrame.trans {t u : State} (h : TouchFrame g s t) (k : TouchFrame g t u) :
    TouchFrame g s u :=
  ⟨k.state.trans h.state, k.scan.trans h.scan, fun c => (k.operator c).trans (h.operator c),
    fun f hf => (k.fader f hf).trans (h.fader f hf)⟩

variable {s} in
/-- An operation on moves and firings touches no fader and no OPERATOR source. -/
theorem State.ShowFrame.touch {t : State} (h : s.ShowFrame t) : TouchFrame g s t :=
  ⟨h.state, h.scan, fun c => by rw [h.chan c], fun f _ => by rw [State.fader, h.surface]; rfl⟩

theorem State.TouchFrame.setFader (d : Fader) : TouchFrame g s (s.setFader g d) :=
  ⟨rfl, rfl, fun _ => rfl, fun _ hf => s.setFader_fader_ne d hf.symm⟩

theorem State.TouchFrame.raise (e : Event) : TouchFrame g s (s.raise e) :=
  ⟨rfl, rfl, fun _ => rfl, fun _ _ => rfl⟩

theorem State.TouchFrame.setChan (c : Chan) {r : Channel} (h : r.operator = (s.chan c).operator) :
    TouchFrame g s (s.setChan c r) := by
  refine ⟨rfl, rfl, fun d => ?_, fun _ _ => rfl⟩
  rw [State.setChan_chan]
  split
  · rename_i e
    exact e ▸ h
  · rfl

theorem State.TouchFrame.takeTouch : TouchFrame g s (s.takeTouch g) := by
  unfold State.takeTouch
  split
  · exact refl g s
  · split
    · exact (setFader g s _).trans (raise g _ _)
    · exact (setFader g s _).trans (setChan g _ _ rfl)
    · exact (setFader g s _).trans (setChan g _ _ rfl)

theorem State.TouchFrame.handBack (c : Chan) (h : Int) : TouchFrame g s (s.handBack c h) := by
  unfold State.handBack
  split
  · exact setChan g s c rfl
  · exact ((ShowFrame.reportActive s c).touch g).trans (setChan g _ c rfl)

theorem State.TouchFrame.remap : TouchFrame g s (s.remap g) := by
  unfold State.remap
  split
  · exact refl g s
  · exact (setFader g s _).trans (raise g _ _)

theorem State.TouchFrame.releaseFader : TouchFrame g s (s.releaseFader g) := by
  unfold State.releaseFader
  split
  · exact refl g s
  · exact (setFader g s _).trans (remap g _)
  · dsimp only
    split
    · exact (setFader g s _).trans (remap g _)
    · exact ((setFader g s _).trans (handBack g _ _ _)).trans (remap g _)

theorem State.TouchFrame.touchActs (old : Bool) : TouchFrame g s (s.touchActs g old) := by
  unfold State.touchActs State.handOn State.handOff
  split
  · split
    · exact takeTouch g s
    · exact refl g s
  · split
    · exact (releaseFader g s).trans ((ShowFrame.settledFrom _ s).touch g)
    · exact refl g s
  · exact refl g s
  · exact refl g s

end

/-- A takeover leaves what R138 says. -/
theorem State.takeTouch_taken {s : State} {f : Slot} {c : Chan} (h : (s.fader f).mapping = some c) :
    s.Taken (s.takeTouch f) f c (s.fader f).position := by
  unfold State.takeTouch
  rw [h]
  dsimp only
  constructor
  · intro v hv
    rw [hv]
    exact ⟨by rw [State.raise_fader, State.setFader_fader_self], State.raise_raised _ _, hv⟩
  · intro hn
    cases hc : (s.chan c).hand with
    | held v => exact absurd hc (hn v)
    | free | gliding =>
      exact ⟨by rw [State.setChan_fader, State.setFader_fader_self], by rw [State.setChan_chan_self]⟩

/-- A channel is handed back as R139 and R140 say. -/
theorem State.handBack_hand (s : State) (c : Chan) (h : Int) :
    ((s.handBack c h).chan c).hand = ((s.chan c).handed h).hand := by
  unfold State.handBack Channel.handed
  cases (s.chan c).cfg.release <;> simp

theorem State.remap_chan (s : State) (f : Slot) : (s.remap f).chan = s.chan := by
  unfold State.remap
  split <;> rfl

theorem State.remap_state (s : State) (f : Slot) : ((s.remap f).fader f).state = (s.fader f).state := by
  unfold State.remap
  split
  · rfl
  · rw [State.raise_fader, State.setFader_fader_self]

/-- A release of a HOLDING fader frees it and hands its channel back at H (R139, R140). -/
theorem State.releaseFader_holding {s : State} {f : Slot} {c : Chan} {h : Int}
    (hs : (s.fader f).state = .holding) (hm : (s.fader f).mapping = some c) (hh : (s.chan c).hand = .held h) :
    ((s.releaseFader f).fader f).state = .free ∧
      ((s.releaseFader f).chan c).hand = ((s.chan c).handed h).hand := by
  unfold State.releaseFader
  rw [hs, hm]
  dsimp only
  rw [State.remap_chan, State.remap_state, State.handBack_hand, State.setFader_chan,
    show (s.chan c).releaseLevel = h by rw [Channel.releaseLevel, hh]]
  refine ⟨?_, rfl⟩
  have kept : (State.handBack (s.setFader f { s.fader f with state := .free }) c h).surface =
      (s.setFader f { s.fader f with state := .free }).surface := by
    unfold State.handBack
    split
    · rfl
    · exact (State.ShowFrame.reportActive _ c).surface
  rw [State.fader, kept]
  exact congrArg Fader.state (State.setFader_fader_self s f _)

/-! ### Keys and contact lines -/

/-- What the acts of keys and contact lines leave as it was: the faders, the hands, and every raised event
raised. -/
structure State.HandsKept (s t : State) : Prop where
  fader : ∀ f, t.fader f = s.fader f
  hand : ∀ c, (t.chan c).hand = (s.chan c).hand
  flags : s.Keeps t

section
variable (s : State)

theorem State.HandsKept.refl : s.HandsKept s := ⟨fun _ => rfl, fun _ => rfl, State.Keeps.refl s⟩

variable {s} in
theorem State.HandsKept.trans {t u : State} (h : s.HandsKept t) (k : t.HandsKept u) : s.HandsKept u :=
  ⟨fun f => (k.fader f).trans (h.fader f), fun c => (k.hand c).trans (h.hand c), h.flags.trans k.flags⟩

theorem State.HandsKept.foldl {α : Type} (f : State → α → State)
    (h : ∀ (t : State) (a : α), t.HandsKept (f t a)) (l : List α) : s.HandsKept (l.foldl f s) := by
  induction l generalizing s with
  | nil => exact refl s
  | cons a l ih => exact (h s a).trans (ih _)

/-- A key press toggles the OPERATOR source of the channel under the fader (R143). -/
theorem State.keyOn_operator {f : Slot} {c : Chan} (hu : s.slotUsed f = true)
    (hm : (s.fader f).mapping = some c) : ((s.keyOn f).chan c).operator = !(s.chan c).operator := by
  rw [State.keyOn, if_pos hu, State.toggleOperator, hm]
  dsimp only
  rw [State.setChan_chan_self]

theorem State.keyActs_cases (f : Slot) (old : Bool) :
    s.keyActs f old = s ∨ ∃ c, s.keyActs f old =
      s.setChan c { s.chan c with operator := !(s.chan c).operator } := by
  unfold State.keyActs State.keyOn State.toggleOperator
  repeat' split
  · exact .inl rfl
  · exact .inr ⟨_, rfl⟩
  · exact .inl rfl
  · exact .inl rfl

theorem State.keyActs_seq (f : Slot) (old : Bool) : (s.keyActs f old).seq = s.seq := by
  rcases s.keyActs_cases f old with h | ⟨c, h⟩ <;> rw [h]
  rfl

theorem State.HandsKept.keyActs (f : Slot) (old : Bool) : s.HandsKept (s.keyActs f old) := by
  rcases s.keyActs_cases f old with h | ⟨c, h⟩ <;> rw [h]
  · exact refl s
  · refine ⟨fun _ => rfl, fun d => ?_, fun _ k => k⟩
    rw [State.setChan_chan]
    split
    · rename_i e
      rw [e]
    · rfl

/-- A request of a contact line is an operation on the show, a press that it refuses being counted (R150 to
R153). -/
theorem State.contactRequest_play (l : ContactLine) : ∃ u, s.PlayFrame u ∧
    (s.contactRequest l = u ∨ s.contactRequest l = u.ignorePress) := by
  have judged (u : State) (r : Result) : u.judgedPress r = u ∨ u.judgedPress r = u.ignorePress := by
    unfold State.judgedPress
    split
    · exact .inl rfl
    · exact .inr rfl
  cases l with
  | cgo => exact ⟨_, State.PlayFrame.go s .goContact 0, judged _ _⟩
  | cback => exact ⟨_, State.PlayFrame.back s, judged _ _⟩
  | chold => exact ⟨_, State.PlayFrame.holdShow s, .inl rfl⟩
  | csafe => exact ⟨_, State.PlayFrame.enterSafe s, .inl rfl⟩

theorem State.contactRequest_hand (l : ContactLine) (c : Chan) :
    ((s.contactRequest l).chan c).hand = (s.chan c).hand ∧
      ((s.contactRequest l).chan c).operator = (s.chan c).operator := by
  obtain ⟨u, h, e⟩ := s.contactRequest_play l
  have chan : (s.contactRequest l).chan = u.chan := by rcases e with e | e <;> rw [e]; rfl
  rw [chan, h.chan c]
  exact ⟨rfl, rfl⟩

theorem State.contactRequest_surface (l : ContactLine) : (s.contactRequest l).surface = s.surface := by
  obtain ⟨u, h, e⟩ := s.contactRequest_play l
  rcases e with e | e <;> rw [e] <;> exact h.surface

theorem State.HandsKept.contactActs (l : ContactLine) (old : Bool) : s.HandsKept (s.contactActs l old) := by
  refine ⟨fun f => ?_, fun c => ?_, State.Keeps.contactActs s l old⟩
  · unfold State.contactActs State.fader
    split
    · rw [s.contactRequest_surface l]
    · rfl
  · unfold State.contactActs
    split
    · exact (s.contactRequest_hand l c).1
    · rfl

theorem State.contactActs_operator (l : ContactLine) (old : Bool) (c : Chan) :
    ((s.contactActs l old).chan c).operator = (s.chan c).operator := by
  unfold State.contactActs
  split
  · exact (s.contactRequest_hand l c).2
  · rfl

/-! ### What the requests of contact lines leave of a scan and of a running show -/

theorem State.setShow_scan (st : ShowState) : (s.setShow st).seq.scan = s.seq.scan := by
  unfold State.setShow
  split <;> rfl

theorem State.resumeShow_scan : s.resumeShow.seq.scan = s.seq.scan := by
  unfold State.resumeShow
  dsimp only
  rw [(State.ShowFrame.settled _).scan]
  split
  · exact s.setShow_scan .running
  · exact s.setShow_scan .running

theorem State.enterSafe_scan : s.enterSafe.seq.scan = s.seq.scan := by
  unfold State.enterSafe
  split
  · rfl
  · dsimp only
    rw [(State.ShowFrame.clearShow _).scan, State.setShow_scan]
    rfl

theorem State.go_scan (cause : Cause) (n : Nat) : (s.go cause n).state.seq.scan = s.seq.scan := by
  unfold State.go
  split
  · rfl
  · split
    · rfl
    · rfl
    · split
      · exact State.resumeShow_scan _
      · rfl
    · split
      · split
        · rfl
        · split
          · rfl
          · exact (State.ShowFrame.fireChain _ cause).scan
      · rfl

/-- A BACK moves the playhead and the arm alone (R80). -/
theorem State.back_seq : s.back.1.seq.scan = s.seq.scan ∧ s.back.1.seq.state = s.seq.state ∧
    s.back.1.seq.gateTime = s.seq.gateTime := by
  unfold State.back
  repeat' split
  all_goals exact ⟨rfl, rfl, rfl⟩

theorem State.judgedPress_seq (r : Result) : (s.judgedPress r).seq = s.seq := by
  unfold State.judgedPress
  split <;> rfl

theorem State.contactRequest_scan (l : ContactLine) : (s.contactRequest l).seq.scan = s.seq.scan := by
  cases l with
  | cgo => exact (congrArg Sequencer.scan (State.judgedPress_seq _ _)).trans (s.go_scan _ _)
  | cback => exact (congrArg Sequencer.scan (State.judgedPress_seq _ _)).trans s.back_seq.1
  | chold =>
    show s.holdShow.seq.scan = _
    rw [s.holdShow_seq]
    rfl
  | csafe => exact s.enterSafe_scan

theorem State.contactActs_scan (l : ContactLine) (old : Bool) :
    (s.contactActs l old).seq.scan = s.seq.scan := by
  unfold State.contactActs
  split
  · exact s.contactRequest_scan l
  · rfl

/-- A GO in SHOW leaves the show running (R69, R70). -/
theorem State.go_running (cause : Cause) (n : Nat) (h : s.seq.state = .running) :
    (s.go cause n).state.seq.state = .running := by
  unfold State.go
  rw [h]
  split
  · exact h
  · dsimp only
    split
    · split
      · exact h
      · split
        · exact h
        · exact (State.ShowFrame.fireChain _ cause).state.trans h
    · exact h

/-- GO and BACK presses leave a running show running. -/
theorem State.contactActs_running {l : ContactLine} (hl : l = .cgo ∨ l = .cback) (old : Bool)
    (h : s.seq.state = .running) : (s.contactActs l old).seq.state = .running := by
  unfold State.contactActs
  split
  · rcases hl with rfl | rfl
    · exact (congrArg Sequencer.state (State.judgedPress_seq _ _)).trans (s.go_running _ _ h)
    · exact (congrArg Sequencer.state (State.judgedPress_seq _ _)).trans (s.back_seq.2.1.trans h)
  · exact h

end

end Sys2Proof.Machine
end

section
/-!
PROOF. Which lines act at the sample of a wall millisecond: those that change their qualified state there, and
no others (R132, R149, R150).
-/

namespace Sys2Proof.Machine

/-- A state that stands behind the advance and the sample of `s`'s millisecond, whatever acts have come. -/
def State.AtSample (s t : State) : Prop := s.advanceAll.SampledFrom s.shown t

section
variable {s t : State}

theorem State.atSample_sampled (s : State) : s.AtSample (s.advanceAll.sampled s.shown) :=
  (State.SampleFrame.refl _).sampledFrom

theorem State.atSample_touched (s : State) : s.AtSample (s.advanceAll.touched s.shown) :=
  (State.touched_frame _ _).sampledFrom

theorem State.atSample_keyed (s : State) : s.AtSample (s.advanceAll.keyed s.shown) :=
  ((State.touched_frame _ _).trans (State.keyed_frame _ _)).sampledFrom

theorem State.AtSample.of_frame {u : State} (h : s.AtSample t) (k : t.SampleFrame u) : s.AtSample u := by
  obtain ⟨touch, keys, lines⟩ := h
  exact ⟨by rw [k.surface]; exact touch, by rw [k.surface]; exact keys, by rw [k.contacts]; exact lines⟩

/-- The lines as they stood before the sample are those before the millisecond. -/
theorem State.advanceAll_lines (s : State) : s.advanceAll.surface.touch = s.surface.touch ∧
    s.advanceAll.surface.keys = s.surface.keys ∧ s.advanceAll.surface.cfg = s.surface.cfg ∧
      s.advanceAll.contact = s.contact ∧ s.advanceAll.polarity = s.polarity := by
  have contact : s.advanceAll.contact = s.contact := by
    funext l
    rw [State.contact, s.advanceAll_contacts]
    rfl
  have polarity : s.advanceAll.polarity = s.polarity := by
    funext l
    rw [State.polarity, s.advanceAll_contacts]
    rfl
  rw [s.advanceAll_surface]
  exact ⟨rfl, rfl, rfl, contact, polarity⟩

/-! ### Lines that keep their qualified state -/

theorem State.AtSample.touch_rest (h : s.AtSample t) {f : Slot} (hf : s.touchTurns f = false) :
    t.touchActs f (s.advanceAll.surface.touch.get f).qualified = t := by
  refine State.touchActs_rest h f ?_
  obtain ⟨touch, -, cfg, -, -⟩ := s.advanceAll_lines
  rw [touch, cfg]
  exact hf

theorem State.AtSample.key_rest (h : s.AtSample t) {f : Slot} (hf : s.keyTurns f = false) :
    t.keyActs f (s.advanceAll.surface.keys.get f).qualified = t := by
  refine State.keyActs_rest h f ?_
  obtain ⟨-, keys, cfg, -, -⟩ := s.advanceAll_lines
  rw [keys, cfg]
  exact hf

theorem State.AtSample.contact_rest (h : s.AtSample t) {l : ContactLine} (hl : s.contactTurns l = false) :
    t.contactActs l (s.advanceAll.contact l).qualified = t := by
  refine State.contactActs_rest h l ?_
  obtain ⟨-, -, -, contact, polarity⟩ := s.advanceAll_lines
  rw [contact, polarity, s.advanceAll_contacts]
  exact hl

/-! ### Lines that change it -/

/-- The other qualified state, where a sample differs for the last time that it takes (R132). -/
theorem bne_and_decide {v old : Bool} {p : Prop} [Decidable p] (h : (v != old && decide p) = true) :
    (if v != old && decide p then v else old) = !old := by
  rw [if_pos h]
  revert h
  cases v <;> cases old <;> simp

theorem State.AtSample.touch_turns (h : s.AtSample t) {f : Slot} (hf : s.touchTurns f = true) :
    t.touchActs f (s.advanceAll.surface.touch.get f).qualified =
      if (s.surface.touch.get f).qualified then t.handOff f else t.handOn f := by
  obtain ⟨touch, -, cfg, -, -⟩ := s.advanceAll_lines
  have turned : (t.surface.touch.get f).qualified = !(s.surface.touch.get f).qualified := by
    obtain ⟨same, -, -⟩ := h
    rw [same, State.sampled_surface, Surface.sampled, Tab.get_build, TouchLine.sample_qualified, touch, cfg]
    exact bne_and_decide hf
  unfold State.touchActs
  rw [touch, turned]
  cases (s.surface.touch.get f).qualified <;> rfl

theorem State.AtSample.key_turns (h : s.AtSample t) {f : Slot} (hf : s.keyTurns f = true) :
    t.keyActs f (s.advanceAll.surface.keys.get f).qualified =
      if (s.surface.keys.get f).qualified then t else t.keyOn f := by
  obtain ⟨-, keys, cfg, -, -⟩ := s.advanceAll_lines
  have turned : (t.surface.keys.get f).qualified = !(s.surface.keys.get f).qualified := by
    obtain ⟨-, same, -⟩ := h
    rw [same, State.sampled_surface, Surface.sampled, Tab.get_build, TouchLine.sample_qualified, keys, cfg]
    exact bne_and_decide hf
  unfold State.keyActs
  rw [keys, turned]
  cases (s.surface.keys.get f).qualified <;> rfl

/-- A contact line that turns active makes its request (R150). -/
theorem State.AtSample.contact_turns (h : s.AtSample t) {l : ContactLine} (hl : s.contactTurns l = true)
    (hq : (s.contact l).qualified = false) :
    t.contactActs l (s.advanceAll.contact l).qualified = t.contactRequest l := by
  obtain ⟨-, -, -, contact, -⟩ := s.advanceAll_lines
  have turned : (t.contact l).qualified = !(s.contact l).qualified := by
    obtain ⟨-, -, same⟩ := h
    rw [State.contact, same, State.sampled_contacts, Contacts.sampled, Tab.get_build,
      Contact.sample_qualified, s.advanceAll_contacts]
    exact bne_and_decide hl
  unfold State.contactActs
  rw [contact, turned, hq]
  rfl

/-! ### The sample, part by part -/

theorem State.touched_rest (h : ∀ f, s.touchTurns f = false) :
    s.advanceAll.touched s.shown = s.advanceAll.sampled s.shown :=
  foldl_still s.AtSample _ allSlots (fun f _ _ ht => ht.touch_rest (h f)) _ s.atSample_sampled

theorem State.keyed_rest (h : ∀ f, s.keyTurns f = false) :
    s.advanceAll.keyed s.shown = s.advanceAll.touched s.shown :=
  foldl_still s.AtSample _ allSlots (fun f _ _ ht => ht.key_rest (h f)) _ s.atSample_touched

theorem State.sampleAll_rest (h : ∀ l, s.contactTurns l = false) :
    s.advanceAll.sampleAll s.shown = s.advanceAll.keyed s.shown := by
  rw [State.sampleAll_eq]
  exact foldl_still s.AtSample _ allContacts (fun l _ _ ht => ht.contact_rest (h l)) _ s.atSample_keyed

/-- A sample at which no line changes its qualified state does nothing else. -/
theorem State.LinesRest.sampleAll (h : s.LinesRest) :
    s.advanceAll.sampleAll s.shown = s.advanceAll.sampled s.shown := by
  obtain ⟨touch, keys, contacts⟩ := h
  rw [State.sampleAll_rest contacts, State.keyed_rest keys, State.touched_rest touch]

/-- One touch line alone acts (R132). -/
theorem State.touched_alone {f : Slot} (hf : s.touchTurns f = true)
    (h : ∀ g, g ≠ f → s.touchTurns g = false) : s.advanceAll.touched s.shown =
      if (s.surface.touch.get f).qualified then (s.advanceAll.sampled s.shown).handOff f
      else (s.advanceAll.sampled s.shown).handOn f :=
  (foldl_alone s.AtSample _ allSlots f allSlots_nodup (mem_allSlots f)
    (fun t ht => ht.of_frame (State.SampleFrame.touchActs t f _))
    (fun g _ hg _ ht => ht.touch_rest (h g hg)) _ s.atSample_sampled).trans (s.atSample_sampled.touch_turns hf)

/-- One key alone acts (R132, R143). -/
theorem State.keyed_alone {f : Slot} (hf : s.keyTurns f = true) (h : ∀ g, g ≠ f → s.keyTurns g = false) :
    s.advanceAll.keyed s.shown =
      if (s.surface.keys.get f).qualified then s.advanceAll.touched s.shown
      else (s.advanceAll.touched s.shown).keyOn f :=
  (foldl_alone s.AtSample _ allSlots f allSlots_nodup (mem_allSlots f)
    (fun t ht => ht.of_frame (State.SampleFrame.keyActs t f _))
    (fun g _ hg _ ht => ht.key_rest (h g hg)) _ s.atSample_touched).trans (s.atSample_touched.key_turns hf)

theorem allContacts_nodup : allContacts.Nodup := by decide

theorem mem_allContacts (l : ContactLine) : l ∈ allContacts := by cases l <;> decide

/-- One contact line alone turns active, and makes its request (R150). -/
theorem State.PressedAlone.sampleAll {l : ContactLine} (h : s.PressedAlone l) :
    s.advanceAll.sampleAll s.shown = (s.advanceAll.sampled s.shown).contactRequest l := by
  obtain ⟨turns, inactive, touch, keys, others⟩ := h
  have rest : s.advanceAll.keyed s.shown = s.advanceAll.sampled s.shown := by
    rw [State.keyed_rest keys, State.touched_rest touch]
  rw [State.sampleAll_eq, rest]
  exact (foldl_alone s.AtSample _ allContacts l allContacts_nodup (mem_allContacts l)
    (fun t ht => ht.of_frame (State.SampleFrame.contactActs t l _))
    (fun k _ hk _ ht => ht.contact_rest (others k hk)) _ s.atSample_sampled).trans
      (s.atSample_sampled.contact_turns turns inactive)

/-! ### What every sample keeps -/

/-- What the touch lines leave at the sample of `s`'s millisecond: show state, scan and OPERATOR sources, and the
fader of every slot whose touch line keeps its qualified state. -/
structure State.TouchKept (s t : State) : Prop where
  atSample : s.AtSample t
  state : t.seq.state = s.advanceAll.seq.state
  scan : t.seq.scan = s.advanceAll.seq.scan
  operator : ∀ c, (t.chan c).operator = (s.chan c).operator
  fader : ∀ f, s.touchTurns f = false → t.fader f = s.fader f

theorem State.TouchKept.touchActs (h : s.TouchKept t) (g : Slot) :
    s.TouchKept (t.touchActs g (s.advanceAll.surface.touch.get g).qualified) := by
  obtain ⟨atSample, state, scan, operator, fader⟩ := h
  have k := State.TouchFrame.touchActs g t (s.advanceAll.surface.touch.get g).qualified
  refine ⟨atSample.of_frame (State.SampleFrame.touchActs t g _), k.state.trans state, k.scan.trans scan,
    fun c => (k.operator c).trans (operator c), fun f hf => ?_⟩
  by_cases e : f = g
  · subst e
    rw [atSample.touch_rest hf]
    exact fader f hf
  · exact (k.fader f e).trans (fader f hf)

theorem State.touched_kept (s : State) : s.TouchKept (s.advanceAll.touched s.shown) := by
  refine foldl_closed _ (fun _ g h => h.touchActs g) allSlots _ ⟨s.atSample_sampled, ?_, ?_, fun c => ?_,
    fun f _ => ?_⟩
  · rw [State.sampled_seq]
  · rw [State.sampled_seq]
  · rw [State.sampled_chan, s.advanceAll_chan c]
  · rw [State.sampled_fader, s.advanceAll_fader]

theorem State.keyed_seq (s : State) : (s.advanceAll.keyed s.shown).seq = (s.advanceAll.touched s.shown).seq :=
  foldl_closed (P := fun t => t.seq = (s.advanceAll.touched s.shown).seq) _
    (fun t f h => (t.keyActs_seq f _).trans h) allSlots _ rfl

theorem State.keyed_hands (s : State) :
    (s.advanceAll.touched s.shown).HandsKept (s.advanceAll.keyed s.shown) :=
  State.HandsKept.foldl _ _ (fun t f => State.HandsKept.keyActs t f _) _

theorem State.sampleAll_hands (s : State) :
    (s.advanceAll.touched s.shown).HandsKept (s.advanceAll.sampleAll s.shown) := by
  rw [State.sampleAll_eq]
  exact s.keyed_hands.trans (State.HandsKept.foldl _ _ (fun t l => State.HandsKept.contactActs t l _) _)

theorem State.sampleAll_operator (s : State) (c : Chan) :
    ((s.advanceAll.sampleAll s.shown).chan c).operator = ((s.advanceAll.keyed s.shown).chan c).operator := by
  rw [State.sampleAll_eq]
  exact foldl_closed (P := fun t => (t.chan c).operator = ((s.advanceAll.keyed s.shown).chan c).operator) _
    (fun t l h => (t.contactActs_operator l _ c).trans h) allContacts _ rfl

/-- A sample neither starts nor ends a scan (R82). -/
theorem State.sampleAll_scan (s : State) :
    (s.advanceAll.sampleAll s.shown).seq.scan = s.advanceAll.seq.scan := by
  rw [State.sampleAll_eq]
  exact foldl_closed (P := fun t => t.seq.scan = s.advanceAll.seq.scan) _
    (fun t l h => (t.contactActs_scan l _).trans h) allContacts _
    ((congrArg Sequencer.scan s.keyed_seq).trans s.touched_kept.scan)

/-- The contact lines act one after another, CSAFE last (R150). -/
theorem State.sampleAll_contacts (s : State) : ∃ t u : State,
    s.AtSample t ∧ (s.advanceAll.seq.state = .running → t.seq.state = .running) ∧
      u = t.contactActs .chold (s.advanceAll.contact .chold).qualified ∧
      s.advanceAll.sampleAll s.shown = u.contactActs .csafe (s.advanceAll.contact .csafe).qualified := by
  have go := State.SampleFrame.contactActs (s.advanceAll.keyed s.shown) .cgo
    (s.advanceAll.contact .cgo).qualified
  refine ⟨_, _, (s.atSample_keyed.of_frame go).of_frame (State.SampleFrame.contactActs _ .cback
    (s.advanceAll.contact .cback).qualified), fun h => ?_, rfl, ?_⟩
  · refine State.contactActs_running _ (.inr rfl) _ (State.contactActs_running _ (.inl rfl) _ ?_)
    rw [s.keyed_seq, s.touched_kept.state, h]
  · rw [State.sampleAll_eq, allContacts]
    simp only [List.foldl_cons, List.foldl_nil]

end

end Sys2Proof.Machine
end

section
/-!
PROOF. The effects of the lines at the sample of a wall millisecond: takeover and release, mute keys, SAFE and
HOLD (R132, R138 to R143, R149, R150, R152).
-/

namespace Sys2Proof.Machine

section
variable {s : State}

theorem Hand.after_eq_held {h : Hand} {v : Int} : h.after = .held v ↔ h = .held v := by
  cases h <;> simp [Hand.after]

/-- The hand of a channel as the sample finds it. -/
theorem State.sampled_hand (s : State) (c : Chan) :
    ((s.advanceAll.sampled s.shown).chan c).hand = (s.chan c).hand.after := by
  rw [State.sampled_chan, s.advanceAll_chan c]

theorem State.sampled_slotUsed (s : State) (f : Slot) :
    (s.advanceAll.sampled s.shown).slotUsed f = s.slotUsed f := by
  obtain ⟨-, -, cfg, -, -⟩ := s.advanceAll_lines
  unfold State.slotUsed
  rw [State.sampled_surface, Surface.sampled, cfg]

theorem State.sampled_faders (s : State) (f : Slot) : (s.advanceAll.sampled s.shown).fader f = s.fader f := by
  rw [State.sampled_fader, s.advanceAll_fader]

/-- A takeover told from the state before the millisecond, and at its end (R138). -/
theorem State.Taken.millisecond {t : State} {f : Slot} {c : Chan} {p : Nat}
    (h : (s.advanceAll.sampled s.shown).Taken (s.advanceAll.touched s.shown) f c p)
    (ht : t = s.wallMillisecond) : s.Taken t f c p := by
  subst ht
  obtain ⟨fader, hand, flags⟩ := s.sampleAll_hands
  obtain ⟨blocked, taken⟩ := h
  rw [State.sampled_hand] at blocked taken
  unfold State.Taken State.Raised
  rw [s.wallMillisecond_fader, s.wallMillisecond_chan, s.wallMillisecond_flagged, fader, hand]
  refine ⟨fun v hv => ?_, fun hn => taken fun v hv => hn v (Hand.after_eq_held.mp hv)⟩
  obtain ⟨state, raised, held⟩ := blocked v (Hand.after_eq_held.mpr hv)
  exact ⟨state, flags _ raised, held⟩

/-- A touch line that alone turns active takes a FREE fader's channel over (R132, R138). -/
theorem State.touch_taken {f : Slot} {c : Chan} (hf : s.touchTurns f = true)
    (others : ∀ g, g ≠ f → s.touchTurns g = false) (hu : s.slotUsed f = true)
    (hm : (s.fader f).mapping = some c) (hq : (s.surface.touch.get f).qualified = false)
    (hs : (s.fader f).state = .free) : s.Taken s.wallMillisecond f c (s.fader f).position := by
  refine State.Taken.millisecond ?_ rfl
  rw [State.touched_alone hf others, hq, if_neg (by decide), State.handOn, State.sampled_slotUsed, hu,
    State.sampled_faders, hs, if_pos (by decide), ← s.sampled_faders f]
  exact State.takeTouch_taken ((s.sampled_faders f).symm ▸ hm)

/-- A touch line that alone turns inactive hands a HOLDING fader's channel back (R132, R139, R140). -/
theorem State.touch_released {f : Slot} {c : Chan} {v : Int} (hf : s.touchTurns f = true)
    (others : ∀ g, g ≠ f → s.touchTurns g = false) (hu : s.slotUsed f = true)
    (hm : (s.fader f).mapping = some c) (hq : (s.surface.touch.get f).qualified = true)
    (hs : (s.fader f).state = .holding) (hv : (s.chan c).hand = .held v) :
    (s.wallMillisecond.fader f).state = .free ∧
      (s.wallMillisecond.chan c).hand = ((s.chan c).handed v).hand := by
  obtain ⟨fader, hand, -⟩ := s.sampleAll_hands
  rw [s.wallMillisecond_fader, s.wallMillisecond_chan, fader, hand, State.touched_alone hf others, hq,
    if_pos rfl, State.handOff, State.sampled_slotUsed, if_pos hu]
  have same : ((s.advanceAll.sampled s.shown).chan c).handed v =
      { (s.advanceAll.sampled s.shown).chan c with
        level := (((s.advanceAll.sampled s.shown).chan c).handed v).level
        hand := ((s.chan c).handed v).hand
        active := (((s.advanceAll.sampled s.shown).chan c).handed v).active } := by
    rw [State.sampled_chan, s.advanceAll_chan c]
    unfold Channel.handed
    split <;> rfl
  obtain ⟨free, handed⟩ := State.releaseFader_holding (s := s.advanceAll.sampled s.shown) (f := f) (c := c)
    (h := v) (by rw [State.sampled_faders, hs]) (by rw [State.sampled_faders, hm])
    (by rw [State.sampled_hand, hv]; rfl)
  have kept := State.ShowFrame.settledFrom ((s.advanceAll.sampled s.shown).releaseFader f)
    (s.advanceAll.sampled s.shown)
  rw [same] at handed
  rw [State.fader, kept.surface, kept.chan c]
  exact ⟨free, handed⟩

/-- A key that alone turns active toggles the OPERATOR source of the channel under its fader (R132, R143). -/
theorem State.key_toggles {f : Slot} {c : Chan} (hf : s.keyTurns f = true)
    (others : ∀ g, g ≠ f → s.keyTurns g = false) (ht : s.touchTurns f = false) (hu : s.slotUsed f = true)
    (hm : (s.fader f).mapping = some c) : (s.wallMillisecond.chan c).operator =
      if (s.surface.keys.get f).qualified then (s.chan c).operator else !(s.chan c).operator := by
  have used : (s.advanceAll.touched s.shown).slotUsed f = true := by
    rw [← hu, ← s.sampled_slotUsed]
    unfold State.slotUsed
    rw [(State.touched_frame _ _).surface]
  rw [s.wallMillisecond_chan, s.sampleAll_operator, State.keyed_alone hf others, ← s.touched_kept.operator c]
  split
  · rfl
  · exact State.keyOn_operator _ used ((s.touched_kept.fader f ht).symm ▸ hm)

/-- CSAFE that turns active is a SAFE, whatever else acts at the sample (R65, R150, R152). -/
theorem State.csafe_safe (h : s.contactTurns .csafe = true) (hq : (s.contact .csafe).qualified = false) :
    s.wallMillisecond.seq.state = .safe := by
  obtain ⟨t, u, at_, -, hu, e⟩ := s.sampleAll_contacts
  rw [s.wallMillisecond_seq, e, State.AtSample.contact_turns
    (hu ▸ at_.of_frame (State.SampleFrame.contactActs t _ _)) h hq]
  exact u.enterSafe_state.1

/-- CHOLD that turns active is a HOLD where CSAFE does not turn (R63, R150, R152). -/
theorem State.chold_hold (h : s.contactTurns .chold = true) (hq : (s.contact .chold).qualified = false)
    (hc : s.contactTurns .csafe = false) (hs : s.seq.state = .running) :
    s.wallMillisecond.seq.state = .hold := by
  obtain ⟨-, state, -, -⟩ := s.advanceAll_frame
  obtain ⟨t, u, at_, running, hu, e⟩ := s.sampleAll_contacts
  rw [s.wallMillisecond_seq, e, State.AtSample.contact_rest
    (hu ▸ at_.of_frame (State.SampleFrame.contactActs t _ _)) hc, hu, at_.contact_turns h hq]
  show t.holdShow.seq.state = .hold
  rw [t.holdShow_seq, Sequencer.held, if_pos (running (state.trans hs))]

end

end Sys2Proof.Machine
end

section
/-!
PROOF. A wall millisecond in which nothing is awaited and no clock point stands: the show as its advance leaves
it, and the GO or BACK of a contact line that alone turns active (R68 to R70, R77, R80, R102, R103, R124, R150
to R153).
-/

namespace Sys2Proof.Machine

/-! ### The advance without a crossing -/

section
variable {s : State}

theorem State.advanceAll_of_no_point (h : s.clock.point = none) : s.advanceAll = s.moved := by
  have none : s.clock.tick.crosses s.clock.whole = false := by
    unfold Clock.crosses
    rw [show s.clock.tick.point = none from h]
  rw [State.advanceAll_eq, none]
  rfl

theorem State.moved_playhead (h : ∀ id, s.seq.arm ≠ .await id) : s.moved.seq.next = s.seq.next ∧
    s.moved.seq.standing = s.seq.standing ∧ s.moved.seq.nextId = s.seq.nextId := by
  obtain ⟨next, standing, nextId, -, -, -⟩ := s.moved_quiet h
  rw [next, standing, nextId, s.ticked_seq]
  exact ⟨rfl, rfl, rfl⟩

/-! ### Notices and firings of the advance -/

theorem State.held_movesTick (s : State) (c : Chan) : (s.movesTick c).held ≤ s.held := by
  have complete : (s.completeMove c).held ≤ s.held := by
    unfold State.completeMove
    split
    · exact Nat.le_refl _
    · exact State.held_reportEnd _ _
  have active : (s.activeTick c).held ≤ s.held := by
    unfold State.activeTick
    dsimp only
    repeat' split
    · exact Nat.le_refl _
    · exact complete
    · exact Nat.le_refl _
    · exact Nat.le_refl _
  unfold State.movesTick State.pendingTick
  repeat' split
  · exact active
  · exact (State.held_startDue _ _ c).trans active
  · exact active

/-- With nothing in flight and no notice, a millisecond brings neither (R74, R86, R100). -/
theorem State.moved_idle (h : ∀ id, s.seq.arm ≠ .await id) (hf : s.seq.flight = [])
    (hn : s.seq.notices = []) : s.moved.seq.flight = [] ∧ s.moved.seq.notices = [] := by
  have start : s.ticked.held = 0 := by
    unfold State.held
    rw [s.ticked_seq]
    show s.seq.notices.length + s.seq.flight.length = 0
    rw [hf, hn]
    rfl
  have k := State.held_foldl State.movesTick State.held_movesTick allChans s.ticked
  rw [s.moved_eq h]
  change s.ticked.allMoves.held ≤ _ at k
  unfold State.held at k start
  exact ⟨List.length_eq_zero_iff.mp (by omega), List.length_eq_zero_iff.mp (by omega)⟩

/-! ### The next cue after the advance -/

theorem Channel.started_waiting (r : Channel) (l : List PendingMove) :
    (r.started l).waiting = l.dropWhile fun p => p.delay == 0 := by
  have fold (k : List PendingMove) (q : Channel) : (k.foldl Channel.starting q).waiting = q.waiting := by
    induction k generalizing q with
    | nil => rfl
    | cons p k ih => rw [List.foldl_cons, ih, Channel.starting_waiting]
  exact fold _ _

/-- Every move that waits after a millisecond has waited before it, in the same firing. -/
theorem State.moved_waiting (h : ∀ id, s.seq.arm ≠ .await id) {c : Chan} {p : PendingMove}
    (hp : p ∈ (s.moved.chan c).waiting) : ∃ q ∈ (s.chan c).waiting, q.firing = p.firing := by
  have active (r : Channel) : (s.activeAfter r).waiting = r.waiting := by
    unfold State.activeAfter
    repeat' split
    all_goals rfl
  rw [s.moved_chan h, State.pendingAfter, active] at hp
  dsimp only at hp
  split at hp
  · rename_i e
    rw [active] at hp
    exact ⟨p, hp, rfl⟩
  · rename_i e
    split at hp
    · rw [Channel.started_waiting] at hp
      obtain ⟨q, hq, rfl⟩ := List.mem_map.mp ((List.dropWhile_sublist _).subset hp)
      exact ⟨q, e ▸ hq, rfl⟩
    · rw [active] at hp
      exact ⟨p, hp, rfl⟩

/-- What the telling of a firing reads of a state. -/
theorem State.NextTold.of_eq {t : State} {cue : Cue} (h : s.NextTold cue) (next : t.seq.next = s.seq.next)
    (cues : t.cues = s.cues) (nextId : t.seq.nextId = s.seq.nextId)
    (waiting : ∀ c, ∀ p ∈ (t.chan c).waiting, ∃ q ∈ (s.chan c).waiting, q.firing = p.firing) :
    t.NextTold cue := by
  have is (k : s.NextIs cue) : t.NextIs cue := by
    obtain ⟨hn, hc, hw⟩ := k
    refine ⟨next.trans hn, by rw [cues]; exact hc, fun c p hp => ?_⟩
    obtain ⟨q, hq, e⟩ := waiting c p hp
    rw [nextId, ← e]
    exact hw c q hq
  have succ : t.successor cue = s.successor cue := by
    unfold State.successor
    rw [cues]
  rcases h with ⟨k, rest⟩ | ⟨k, rest⟩
  · exact .inl ⟨is k, succ ▸ rest⟩
  · exact .inr ⟨is k, succ ▸ rest⟩

theorem State.NextTold.nextIs {cue : Cue} (h : s.NextTold cue) : s.NextIs cue := h.elim And.left And.left

/-- The arm of a firing that can be told (R75, R76). -/
theorem State.NextTold.fire_arm {cue : Cue} (h : s.NextTold cue) (cause : Cause) :
    (s.fire cause).seq.arm = s.armAfter cue ∧ (s.fire cause).clock.point = (s.armAfter cue).point :=
  h.elim (State.fire_alone_arm cause) (State.fire_slow_arm cause)

end

/-! ### The press of a contact line -/

section
variable {s : State}

theorem State.contactGo_eq {o : GoOutcome} (h : s.go .goContact 0 = o) :
    s.contactGo = o.state.judgedPress o.result := by
  rw [← h]
  rfl

/-- A GO press in a scan, in EDIT or SAFE, or behind a closed gate (R69, R153). -/
theorem State.contactGo_refused (h : s.seq.scan ≠ none ∨ s.seq.state = .edit ∨ s.seq.state = .safe ∨
    s.gateOpen = false) : s.contactGo = s.ignorePress := by
  cases hs : s.scanning with
  | true => exact State.contactGo_eq (o := ⟨s, .busy, none⟩) (by simp [State.go, hs])
  | false =>
    have idle : s.seq.scan = none := by simpa [State.scanning] using hs
    cases hst : s.seq.state with
    | edit | safe => exact State.contactGo_eq (o := ⟨s, .wrongState, none⟩) (by simp [State.go, hs, hst])
    | hold | running =>
      have shut : s.gateOpen = false := by simpa [idle, hst] using h
      exact State.contactGo_eq (o := ⟨s, .guarded, none⟩) (by simp [State.go, hs, hst, shut])

/-- The state in which a GO has been taken: the gate time is 0 (R68). -/
def State.gated (s : State) : State := s.setSeq { s.seq with gateTime := 0 }

section
variable (scan : s.seq.scan = none) (gate : s.gateOpen = true)
include scan gate

theorem State.contactGo_held (h : s.seq.state = .hold) : s.contactGo = s.gated.resumeShow :=
  State.contactGo_eq (o := ⟨s.gated.resumeShow, .ok, none⟩)
    (by simp [State.go, State.scanning, scan, gate, h, State.gated])

theorem State.contactGo_ended (h : s.seq.state = .running) (hn : s.seq.next = none) :
    s.contactGo = (s.raise .endOfList).ignorePress :=
  State.contactGo_eq (o := ⟨s.raise .endOfList, .endOfList, none⟩)
    (by simp [State.go, State.scanning, scan, gate, h, hn])

theorem State.contactGo_fired (h : s.seq.state = .running) {n : Nat} (hn : s.seq.next = some n) :
    s.contactGo = s.gated.fireChain .goContact :=
  State.contactGo_eq (o := ⟨s.gated.fireChain .goContact, .ok, some (n, s.seq.nextId)⟩)
    (by simp [State.go, State.scanning, scan, gate, h, hn, State.gated])

end

theorem State.contactBack_eq {t : State} {r : Result} (h : s.back = (t, r)) :
    s.contactBack = t.judgedPress r := by
  unfold State.contactBack
  rw [h]

/-- A BACK press in a scan, in EDIT or SAFE (R80, R153). -/
theorem State.contactBack_refused (h : s.seq.scan ≠ none ∨ s.seq.state = .edit ∨ s.seq.state = .safe) :
    s.contactBack = s.ignorePress := by
  cases hs : s.scanning with
  | true => exact State.contactBack_eq (r := .busy) (by simp [State.back, hs])
  | false =>
    have idle : s.seq.scan = none := by simpa [State.scanning] using hs
    exact State.contactBack_eq (r := .wrongState)
      (by simp [State.back, hs, h.resolve_left fun k => k idle])

/-- The playhead moved back, a crossing of this millisecond being over (R46, R80). -/
def State.backTo (s : State) (n : Nat) : State :=
  s.setSeq { s.seq with next := some n, crossed := none }

section
variable (scan : s.seq.scan = none) (state : s.seq.state = .running ∨ s.seq.state = .hold)
include scan state

theorem State.contactBack_ended (h : s.backTarget = none) :
    s.contactBack = (s.raise .endOfList).ignorePress :=
  State.contactBack_eq (r := .endOfList)
    (by rcases state with k | k <;> simp [State.back, State.scanning, scan, k, h])

theorem State.contactBack_moved {n : Nat} (h : s.backTarget = some n) :
    s.contactBack = (s.backTo n).setArm (s.backTo n).clockArm :=
  State.contactBack_eq (t := (s.backTo n).setArm (s.backTo n).clockArm) (r := .ok)
    (by rcases state with k | k <;> simp [State.back, State.scanning, scan, k, h, State.backTo])

end

/-- A show that goes on: running, STATE_CHANGE raised, and where no wait stands at 0 the playhead as it was
(R64). -/
theorem State.resumeShow_resumed (h : s.seq.state = .hold) : s.resumeShow.seq.state = .running ∧
    s.resumeShow.Raised .stateChange ∧ s.resumeShow.seq.gateTime = s.seq.gateTime ∧
      ((∀ b, s.seq.arm ≠ .waiting 0 b) →
        s.resumeShow.seq.next = s.seq.next ∧ s.resumeShow.seq.standing = s.seq.standing) := by
  have shown : s.setShow .running = (s.setSeq { s.seq with state := .running }).raise .stateChange := by
    unfold State.setShow
    rw [if_neg (by rw [h]; decide)]
  have due (t : State) (ht : ∀ b, t.seq.arm ≠ .waiting 0 b) : t.waitDue = false := by
    unfold State.waitDue
    cases k : t.seq.arm with
    | waiting left b =>
      have : left ≠ 0 := by
        rintro rfl
        exact ht b k
      simp [this]
    | empty | await | clock => simp
  unfold State.resumeShow
  rw [shown]
  dsimp only
  generalize ht : (s.setSeq { s.seq with state := .running }).raise .stateChange = t
  have raised : t.Raised .stateChange := ht ▸ State.raise_raised _ _
  have seq : t.seq = { s.seq with state := .running } := by rw [← ht]; rfl
  split
  · have idle : (t.setArm t.clockArm).waitDue = false := due _ fun b k => by
      have k : t.clockArm = .waiting 0 b := k
      unfold State.clockArm at k
      repeat' split at k
      all_goals cases k
    rw [State.settled_of_not_due idle]
    refine ⟨?_, raised, ?_, fun _ => ⟨?_, ?_⟩⟩ <;> simp [State.setArm, seq]
  · have kept := State.ShowFrame.settled t
    refine ⟨kept.state.trans (by rw [seq]), State.Keeps.settled t _ raised,
      kept.gateTime.trans (by rw [seq]), fun ha => ?_⟩
    rw [State.settled_of_not_due (due t (by rw [seq]; exact ha)), seq]
    exact ⟨rfl, rfl⟩

end

end Sys2Proof.Machine
end

section
/-!
PROOF. GO and BACK at the sample of a wall millisecond, and O40 (R26, R68 to R70, R77, R80, R93, R98, R102,
R103, R113 to R115, R129, R132, R149 to R153, R158, R165, R183, R193).
-/

namespace Sys2Proof.Machine

/-- What the show of `s` is when a press at the sample of its millisecond finds it: the millisecond counted, and
the playhead where it stood (R68, R77, R150). -/
structure State.PressFound (s u : State) : Prop where
  state : u.seq.state = s.seq.state
  scan : u.seq.scan = none ↔ s.seq.scan = none
  gateTime : u.seq.gateTime = countUp 65535 s.seq.gateTime
  next : u.seq.next = s.seq.next
  standing : u.seq.standing = s.seq.standing
  nextId : u.seq.nextId = s.seq.nextId
  arm : u.seq.arm = s.armLeft
  idle : s.seq.flight = [] → s.seq.notices = [] → u.seq.flight = [] ∧ u.seq.notices = []
  cues : u.cues = s.cues
  guard : u.contacts.cfg = s.contacts.cfg
  ignored : u.contacts.ignored = s.contacts.ignored
  waiting : ∀ c, ∀ p ∈ (u.chan c).waiting, ∃ q ∈ (s.chan c).waiting, q.firing = p.firing

theorem State.sampled_found {s : State} (hp : s.clock.point = none) (ha : ∀ id, s.seq.arm ≠ .await id) :
    s.PressFound (s.advanceAll.sampled s.shown) := by
  obtain ⟨-, state, -, gateTime⟩ := s.advanceAll_frame
  have scan := s.advanceAll_scan
  have contacts := s.advanceAll_contacts
  have cues := s.advanceAll_cues
  rw [State.advanceAll_of_no_point hp] at *
  obtain ⟨next, standing, nextId⟩ := State.moved_playhead ha
  obtain ⟨arm, -⟩ := s.moved_arm ha
  constructor
  case cues => rw [State.sampled_cues, cues]
  case guard => rw [State.sampled_contacts, contacts, Contacts.sampled]
  case ignored => rw [State.sampled_contacts, contacts, Contacts.sampled]
  case waiting =>
    rw [State.sampled_chan]
    exact fun c p hp => State.moved_waiting ha hp
  all_goals rw [State.sampled_seq]
  case state => exact state
  case scan => rw [scan, Option.map_eq_none_iff]
  case gateTime => exact gateTime
  case next => exact next
  case standing => exact standing
  case nextId => exact nextId
  case arm => exact arm
  case idle => exact State.moved_idle ha

section
variable {s u : State} (h : s.PressFound u)
include h

theorem State.PressFound.gateOpen :
    u.gateOpen = decide (s.contacts.cfg.guard ≤ countUp 65535 s.seq.gateTime) := by
  rw [State.gateOpen, h.guard, h.gateTime]

theorem State.PressFound.backTarget : u.backTarget = s.backTarget := by
  unfold State.backTarget
  rw [h.next, h.cues]

/-- A press that is ignored, whatever has been raised (R153). -/
theorem State.PressFound.pressIgnored {v : State} (seq : v.seq = u.seq) (contacts : v.contacts = u.contacts) :
    s.PressIgnored v.ignorePress ∧ v.ignorePress.seq.gateTime = countUp 65535 s.seq.gateTime := by
  have count : v.ignorePress.contacts.ignored = countUp 255 s.contacts.ignored := by
    rw [← h.ignored, ← contacts]
    rfl
  have same : v.ignorePress.seq = u.seq := seq
  rw [State.PressIgnored, same]
  exact ⟨⟨count, State.raise_raised _ _, h.state, h.next, h.standing, h.nextId⟩, h.gateTime⟩

theorem State.PressFound.nextTold {cue : Cue} (k : s.NextTold cue) : u.gated.NextTold cue :=
  k.of_eq h.next h.cues h.nextId h.waiting

theorem State.PressFound.armAfter (cue : Cue) : u.gated.armAfter cue = s.armAfter cue := by
  have cues : u.gated.cues = s.cues := h.cues
  have nextId : u.gated.seq.nextId = s.seq.nextId := h.nextId
  unfold State.armAfter State.successor
  rw [cues, nextId]

end

/-- An end of the list that is reported stays reported when the press is ignored. -/
theorem State.ended_raised (s : State) : (s.raise .endOfList).ignorePress.Raised .endOfList :=
  ((State.Keeps.setContacts _ _).trans (State.Keeps.raise _ _)) _ (s.raise_raised _)

/-- In HOLD, EDIT and SAFE a WAITING arm stands still (R104). -/
theorem State.armLeft_still {s : State} (h : s.seq.state ≠ .running) : s.armLeft = s.seq.arm := by
  unfold State.armLeft
  cases s.seq.arm <;> simp [State.showAdvances, h]

/-- A GO of CGO as the sample finds the show (R69, R70, R150 to R153). -/
theorem State.PressFound.go {s u : State} (h : s.PressFound u) : s.GoSampled u.contactGo := by
  constructor
  case refused =>
    intro hr
    have refused : u.contactGo = u.ignorePress := by
      refine State.contactGo_refused ?_
      rcases hr with k | k | k | k
      · exact .inl fun e => k (h.scan.mp e)
      · exact .inr (.inl (h.state.trans k))
      · exact .inr (.inr (.inl (h.state.trans k)))
      · exact .inr (.inr (.inr (by rw [h.gateOpen]; exact decide_eq_false (Nat.not_le.mpr k))))
    rw [refused]
    exact h.pressIgnored rfl rfl
  case held =>
    intro scan gate hold
    rw [State.contactGo_held (h.scan.mpr scan) (h.gateOpen.trans (decide_eq_true gate)) (h.state.trans hold)]
    obtain ⟨state, raised, gateTime, rest⟩ := State.resumeShow_resumed (s := u.gated) (h.state.trans hold)
    have contacts : u.gated.resumeShow.contacts = u.contacts := (State.PlayFrame.resumeShow u.gated).contacts
    have arm : u.gated.seq.arm = s.seq.arm := h.arm.trans (State.armLeft_still (by rw [hold]; decide))
    rw [arm] at rest
    refine ⟨state, raised, gateTime, by rw [contacts, h.ignored], fun k => ?_⟩
    obtain ⟨next, standing⟩ := rest k
    exact ⟨next.trans h.next, standing.trans h.standing⟩
  case ended =>
    intro scan gate running last
    rw [State.contactGo_ended (h.scan.mpr scan) (h.gateOpen.trans (decide_eq_true gate))
      (h.state.trans running) (h.next.trans last)]
    obtain ⟨ignored, gateTime⟩ := h.pressIgnored (v := u.raise .endOfList) rfl rfl
    exact ⟨ignored, u.ended_raised, gateTime⟩
  case fired =>
    intro scan gate running cue told
    have told' := h.nextTold told
    rw [State.contactGo_fired (h.scan.mpr scan) (h.gateOpen.trans (decide_eq_true gate))
      (h.state.trans running) (h.next.trans told.nextIs.1), (State.fireChain_told .goContact told').1]
    have kept := State.ShowFrame.fire u.gated .goContact
    have contacts : (u.gated.fire .goContact).contacts = u.contacts := kept.contacts
    obtain ⟨standing, next, nextId, raised, -, -⟩ := State.fire_fired .goContact told'.nextIs
    obtain ⟨arm, point⟩ := told'.fire_arm .goContact
    have sameId : u.gated.seq.nextId = s.seq.nextId := h.nextId
    have cues : u.gated.cues = s.cues := h.cues
    rw [cues] at next
    rw [sameId] at nextId
    rw [h.armAfter cue] at arm point
    refine ⟨kept.state.trans (h.state.trans running), kept.gateTime, by rw [contacts, h.ignored], standing,
      next, nextId, raised, arm, point, fun flight notices => ?_⟩
    obtain ⟨flight', notices'⟩ := h.idle flight notices
    rw [State.fire_notice .goContact told'.nextIs flight' notices', sameId]

/-- A BACK of CBACK as the sample finds the show (R80, R150, R152, R153). -/
theorem State.PressFound.back {s u : State} (h : s.PressFound u) : s.BackSampled u.contactBack := by
  constructor
  case gate =>
    obtain ⟨-, -, gateTime⟩ := u.back_seq
    rw [State.contactBack, State.judgedPress_seq, gateTime, h.gateTime]
  case refused =>
    intro hr
    rw [State.contactBack_refused (hr.imp (fun k e => k (h.scan.mp e))
      (Or.imp h.state.trans h.state.trans))]
    exact (h.pressIgnored rfl rfl).1
  case ended =>
    intro scan state last
    have none : u.backTarget = none := by
      rw [h.backTarget, State.backTarget]
      rcases last with ⟨hn, hc⟩ | ⟨k, hn, hb⟩
      · rw [hn, hc]
        rfl
      · rw [hn]
        exact hb
    rw [State.contactBack_ended (h.scan.mpr scan) (state.imp h.state.trans h.state.trans) none]
    exact ⟨(h.pressIgnored (v := u.raise .endOfList) rfl rfl).1, u.ended_raised⟩
  case moved =>
    intro scan state n q hq target arm harm
    have some_n : u.backTarget = some n := by
      rw [h.backTarget, State.backTarget]
      rcases target with ⟨hn, hl⟩ | ⟨k, hn, hb⟩
      · rw [hn]
        exact hl
      · rw [hn]
        exact hb
    have cue : (u.backTo n).nextCue = some q := by
      show findCue u.cues n = some q
      rw [h.cues, hq]
    have clockArm : (u.backTo n).clockArm = arm := by
      rw [State.clockArm, cue, harm]
    rw [State.contactBack_moved (h.scan.mpr scan) (state.imp h.state.trans h.state.trans) some_n, clockArm]
    exact ⟨rfl, rfl, rfl, h.standing, h.state, h.ignored⟩

/-- The pins that are taken behind the sample are no part of what a GO leaves. -/
theorem State.GoSampled.takePins {s t : State} (h : s.GoSampled t) (x : Pins) (l : List Pins) :
    s.GoSampled ((t.takePins x).setInputs l) := ⟨h.refused, h.held, h.ended, h.fired⟩

theorem State.BackSampled.takePins {s t : State} (h : s.BackSampled t) (x : Pins) (l : List Pins) :
    s.BackSampled ((t.takePins x).setInputs l) := ⟨h.gate, h.refused, h.ended, h.moved⟩

section
variable {s : State} (hp : s.clock.point = none) (ha : ∀ id, s.seq.arm ≠ .await id)
include hp ha

theorem State.cgo_sampled (h : s.PressedAlone .cgo) : s.GoSampled s.wallMillisecond := by
  rw [State.wallMillisecond, h.sampleAll]
  exact (State.sampled_found hp ha).go.takePins _ _

theorem State.cback_sampled (h : s.PressedAlone .cback) : s.BackSampled s.wallMillisecond := by
  rw [State.wallMillisecond, h.sampleAll]
  exact (State.sampled_found hp ha).back.takePins _ _

end

/-- A millisecond in which no line changes: the show, the faders and the channels (R26, R77, R98). -/
theorem State.LinesRest.millisecond {s : State} (h : s.LinesRest) (hp : s.clock.point = none) :
    s.wallMillisecond.seq = s.moved.seq ∧
    (∀ f, s.wallMillisecond.fader f = s.fader f) ∧ s.wallMillisecond.chan = s.moved.chan := by
  refine ⟨?_, fun f => ?_, ?_⟩
  · rw [s.wallMillisecond_seq, h.sampleAll, State.sampled_seq, State.advanceAll_of_no_point hp]
  · rw [s.wallMillisecond_fader, h.sampleAll, State.sampled_faders]
  · rw [s.wallMillisecond_chan, h.sampleAll, State.sampled_chan, State.advanceAll_of_no_point hp]

/-- A contact line's level read by its polarity (R149). -/
theorem Polarity.active_eq (p : Polarity) (high : Bool) :
    p.active high = if p = .activeHigh then high else !high := by
  cases p <;> rfl

/-- A contact line after a sample, its qualified state told by the level sampled (R149). -/
theorem Contact.sample_eq (l : Contact) (q : Nat) (p : Polarity) (high : Bool) : l.sample q p high =
    if p.active high = l.qualified then { high, qualified := p.active high, count := 0 }
    else if q ≤ l.count + 1 then { high, qualified := p.active high, count := 0 }
    else { high, qualified := l.qualified, count := l.count + 1 } := by
  unfold Contact.sample
  split
  · rename_i e
    rw [e]
  · rfl

/-- Settles O40, block by block and line by line. -/
theorem clockAdvances : Obligations.ClockAdvances := by
  refine ⟨fun s m => ?rates, fun s hs => ⟨s.wallMillisecond, exec_clockAdvance hs, ?clock, ?blocks,
    fun f => ⟨?touch, ?keys⟩, fun l v hv => ?contacts, fun rest hp ha => ?rest,
    fun f c hf others hu hm => ⟨?taken, ?released⟩,
    fun f c hf others ht hu hm => State.key_toggles hf others ht hu hm, State.csafe_safe, State.chold_hold,
    fun hp ha => ⟨State.cgo_sampled hp ha, State.cback_sampled hp ha⟩⟩⟩
  case rates =>
    refine ⟨?_, ?_, rfl, rfl, ?_⟩
    · simp [State.showAdvances, Bool.beq_eq_decide_eq]
    · simp [State.showAdvances, State.clockLocked, Bool.beq_eq_decide_eq]
    · unfold State.moveAdvances
      cases m.owner <;> rfl
  case clock =>
    have h := s.wallMillisecond_clock
    generalize s.wallMillisecond.clock = k at h
    rw [h]
    refine ⟨rfl, rfl, rfl, rfl, rfl, rfl, rfl, rfl, rfl, rfl, rfl, fun runs => ?_, fun still => ?_⟩
    · exact Clock.tick_position (Clock.runs_iff.mpr runs)
    · refine Clock.tick_still ?_
      rcases still with e | e | e <;> simp [Clock.runs, e]
  case blocks =>
    refine ⟨rfl, s.wallMillisecond_retained, s.wallMillisecond_link, ?_, ?_, ?_, ?_, ?_, ?_⟩
    · rw [s.wallMillisecond_events]
    · rw [s.wallMillisecond_events]
      simp [State.stepping]
    · rw [s.wallMillisecond_seq, s.sampleAll_scan, s.advanceAll_scan]
    · rw [s.wallMillisecond_surface]
    · rw [s.wallMillisecond_surface]
      rfl
    · rw [s.wallMillisecond_output]
      exact ⟨rfl, rfl, rfl, rfl, fun n => Tab.get_map _ _ n⟩
  case touch =>
    rw [s.wallMillisecond_surface, Surface.sampled, Tab.get_build]
    rfl
  case keys =>
    rw [s.wallMillisecond_surface, Surface.sampled, Tab.get_build]
    rfl
  case contacts =>
    rw [State.contact, s.wallMillisecond_contacts, Contacts.sampled, Tab.get_build, hv]
    unfold State.polarity
    rw [← Polarity.active_eq]
    exact Contact.sample_eq _ _ _ _
  case rest =>
    obtain ⟨seq, fader, chan⟩ := rest.millisecond hp
    obtain ⟨next, -, -⟩ := State.moved_playhead ha
    obtain ⟨arm, -⟩ := s.moved_arm ha
    rw [seq, chan, arm]
    refine ⟨s.moved_frame.state, next, s.moved_frame.gateTime, ?_, fader, s.moved_chan ha⟩
    unfold State.armLeft
    cases s.seq.arm <;> rfl
  case taken => exact State.touch_taken hf others hu hm
  case released => exact fun hq hh v hv => State.touch_released hf others hu hm hq hh hv

end Sys2Proof.Machine
end

section
/-!
PROOF. The edits of the cue list: where a cue takes its place, what the functions that look into the list
then find, and that the list stays in order and within its sizes (R40, R42, R43, R50 to R56).
-/

namespace Sys2Proof.Machine

/-! ### A list in order, around a number (R42) -/

theorem findCue_cons_of_eq {q : Cue} {l : List Cue} {n : Nat} (h : q.number = n) :
    findCue (q :: l) n = some q := List.find?_cons_of_pos (beq_iff_eq.mpr h)

theorem findCue_cons_of_ne {q : Cue} {l : List Cue} {n : Nat} (h : q.number ≠ n) :
    findCue (q :: l) n = findCue l n := List.find?_cons_of_neg (fun e => h (beq_iff_eq.mp e))

theorem findCue_number {cues : List Cue} {n : Nat} {q : Cue} (h : findCue cues n = some q) :
    q.number = n := by
  simpa using List.find?_some h

theorem findCue_isSome {cues : List Cue} {n : Nat} :
    findCue cues n ≠ none ↔ ∃ q ∈ cues, q.number = n := by
  rw [ne_eq, findCue_eq_none]
  push Not
  rfl

theorem State.movesHeld_of_found {s : State} {n : Nat} {q : Cue} (h : findCue s.cues n = some q) :
    s.movesHeld n = q.moves.length := by
  rw [State.movesHeld, h]
  rfl

/-- A list in order: the cues below a number, the cue of that number, the cues above it. -/
theorem Ascending.split {cues : List Cue} (h : Ascending cues) (n : Nat) :
    cues = cues.filter (fun c => decide (c.number < n)) ++
      ((findCue cues n).toList ++ cues.filter (fun c => decide (n < c.number))) := by
  induction cues with
  | nil => rfl
  | cons q l ih =>
    have above := h.head_lt
    have tail := ih h.tail
    rcases Nat.lt_trichotomy q.number n with hn | hn | hn
    · rw [findCue_cons_of_ne hn.ne, List.filter_cons_of_pos (by simpa using hn),
        List.filter_cons_of_neg (by simp; omega), List.cons_append, ← tail]
    · have below : l.filter (fun c => decide (c.number < n)) = [] :=
        List.filter_eq_nil_iff.mpr fun p hp => by have := above p hp; simp; omega
      have rest : l.filter (fun c => decide (n < c.number)) = l :=
        List.filter_eq_self.mpr fun p hp => by have := above p hp; simp; omega
      rw [findCue_cons_of_eq hn, List.filter_cons_of_neg (by simp; omega),
        List.filter_cons_of_neg (by simp; omega), below, rest]
      rfl
    · have below : l.filter (fun c => decide (c.number < n)) = [] :=
        List.filter_eq_nil_iff.mpr fun p hp => by have := above p hp; simp; omega
      have rest : l.filter (fun c => decide (n < c.number)) = l :=
        List.filter_eq_self.mpr fun p hp => by have := above p hp; simp; omega
      have absent : findCue l n = none := findCue_eq_none.mpr fun p hp => by have := above p hp; omega
      rw [findCue_cons_of_ne hn.ne', absent, List.filter_cons_of_neg (by simp; omega),
        List.filter_cons_of_pos (by simpa using hn), below, rest]
      rfl

/-- In a list in order a cue stands between the cues below its number and those above it (R42). -/
theorem Ascending.putCue {cues : List Cue} (h : Ascending cues) (c : Cue) :
    putCue c cues = cues.filter (fun q => decide (q.number < c.number)) ++
      c :: cues.filter (fun q => decide (c.number < q.number)) := by
  induction cues with
  | nil => rfl
  | cons q l ih =>
    have above := h.head_lt
    have below (hn : c.number ≤ q.number) : l.filter (fun p => decide (p.number < c.number)) = [] :=
      List.filter_eq_nil_iff.mpr fun p hp => by have := above p hp; simp; omega
    have rest (hn : c.number ≤ q.number) : l.filter (fun p => decide (c.number < p.number)) = l :=
      List.filter_eq_self.mpr fun p hp => by have := above p hp; simp; omega
    unfold Machine.putCue
    split
    · rename_i hn
      rw [List.filter_cons_of_neg (by simp; omega), List.filter_cons_of_pos (by simpa using hn),
        below hn.le, rest hn.le]
      rfl
    · split
      · rename_i hn
        rw [List.filter_cons_of_neg (by simp; omega), List.filter_cons_of_neg (by simp; omega),
          below hn.le, rest hn.le]
        rfl
      · rw [List.filter_cons_of_pos (by simp; omega), List.filter_cons_of_neg (by simp; omega), ih h.tail]
        rfl

/-! ### What is found in an edited list (R50, R55) -/

theorem findCue_putCue_self (c : Cue) (l : List Cue) : findCue (putCue c l) c.number = some c := by
  induction l with
  | nil => exact findCue_cons_of_eq rfl
  | cons q l ih =>
    unfold putCue
    split
    · exact findCue_cons_of_eq rfl
    · split
      · exact findCue_cons_of_eq rfl
      · rw [findCue_cons_of_ne (by omega), ih]

theorem findCue_putCue_ne (c : Cue) (l : List Cue) {k : Nat} (h : k ≠ c.number) :
    findCue (putCue c l) k = findCue l k := by
  induction l with
  | nil => exact findCue_cons_of_ne h.symm
  | cons q l ih =>
    unfold putCue
    split
    · exact findCue_cons_of_ne h.symm
    · split
      · rw [findCue_cons_of_ne h.symm, findCue_cons_of_ne (by omega)]
      · by_cases hq : q.number = k
        · rw [findCue_cons_of_eq hq, findCue_cons_of_eq hq]
        · rw [findCue_cons_of_ne hq, findCue_cons_of_ne hq, ih]

theorem mem_removeCue {cues : List Cue} {n : Nat} {q : Cue} :
    q ∈ removeCue cues n ↔ q ∈ cues ∧ q.number ≠ n := by
  simp [removeCue]

theorem findCue_removeCue_self (cues : List Cue) (n : Nat) : findCue (removeCue cues n) n = none :=
  findCue_eq_none.mpr fun _ h => (mem_removeCue.mp h).2

theorem findCue_removeCue_ne (cues : List Cue) {n k : Nat} (h : k ≠ n) :
    findCue (removeCue cues n) k = findCue cues k := by
  unfold findCue removeCue
  rw [List.find?_filter]
  congr 1
  funext c
  by_cases e : c.number = k
  · simp [e, h]
  · simp [e]

/-! ### Sizes of an edited list (R40, R43) -/

/-- A cue that is new lengthens the list by one, and one that replaces another keeps its length. -/
theorem Ascending.length_putCue {cues : List Cue} (h : Ascending cues) (c : Cue) :
    (Machine.putCue c cues).length = cues.length + if findCue cues c.number = none then 1 else 0 := by
  have parts := congrArg List.length (h.split c.number)
  rw [h.putCue]
  cases hf : findCue cues c.number with
  | none =>
    simp only [hf, Option.toList_none, List.nil_append, List.length_append, List.length_cons] at parts ⊢
    simp only [if_true]
    omega
  | some q =>
    simp only [hf, Option.toList_some, List.singleton_append, List.length_append, List.length_cons] at parts ⊢
    simp only [reduceCtorEq, if_false]
    omega

theorem movesInUse_append (a b : List Cue) : movesInUse (a ++ b) = movesInUse a + movesInUse b := by
  simp [movesInUse]

theorem movesInUse_cons (q : Cue) (l : List Cue) : movesInUse (q :: l) = q.moves.length + movesInUse l := by
  simp [movesInUse]

/-- The moves of a cue that is put into the list come in place of those it held. -/
theorem Ascending.movesInUse_putCue {cues : List Cue} (h : Ascending cues) (c : Cue) :
    movesInUse (Machine.putCue c cues) + ((findCue cues c.number).map fun q => q.moves.length).getD 0 =
      movesInUse cues + c.moves.length := by
  have parts := congrArg movesInUse (h.split c.number)
  rw [h.putCue]
  cases hf : findCue cues c.number with
  | none =>
    simp only [hf, Option.toList_none, List.nil_append, movesInUse_append, movesInUse_cons] at parts ⊢
    rw [Option.map_none, Option.getD_none]
    omega
  | some q =>
    simp only [hf, Option.toList_some, List.singleton_append, movesInUse_append, movesInUse_cons] at parts ⊢
    rw [Option.map_some, Option.getD_some]
    omega

theorem Ascending.of_putCue {cues : List Cue} (h : Ascending cues) (c : Cue) :
    Ascending (Machine.putCue c cues) := by
  rw [h.putCue, Ascending, List.map_append, List.map_cons, List.pairwise_append, List.pairwise_cons]
  refine ⟨h.filter _, ⟨fun k hk => ?_, h.filter _⟩, fun i hi k hk => ?_⟩
  · obtain ⟨q, hq, rfl⟩ := List.mem_map.mp hk
    simpa using (List.mem_filter.mp hq).2
  · obtain ⟨p, hp, rfl⟩ := List.mem_map.mp hi
    have hp := decide_eq_true_iff.mp (List.mem_filter.mp hp).2
    rcases List.mem_cons.mp hk with rfl | hk
    · exact hp
    · obtain ⟨q, hq, rfl⟩ := List.mem_map.mp hk
      exact hp.trans (decide_eq_true_iff.mp (List.mem_filter.mp hq).2)

/-! ### The list stays in order and within its sizes (R40, R42) -/

/-- A cue within its sizes. -/
structure Cue.Fits (q : Cue) : Prop where
  number : 1 ≤ q.number ∧ q.number ≤ 9999
  moves : q.moves.length ≤ 64
  named : ∀ c, namedMoves q.moves c ≤ 4

theorem State.ListInOrder.fits {s : State} (h : s.ListInOrder) {q : Cue} (hq : q ∈ s.cues) : q.Fits := by
  obtain ⟨-, -, -, each⟩ := h
  obtain ⟨low, high, moves, named⟩ := each q hq
  exact ⟨⟨low, high⟩, moves, named⟩

theorem State.listInOrder_of {s : State} (order : Ascending s.cues) (length : s.cues.length ≤ 512)
    (pool : movesInUse s.cues ≤ 2048) (fits : ∀ q ∈ s.cues, q.Fits) : s.ListInOrder :=
  ⟨order, length, pool, fun q hq =>
    ⟨(fits q hq).number.1, (fits q hq).number.2, (fits q hq).moves, (fits q hq).named⟩⟩

/-- A cue within its sizes takes its place where the list and the pool have room for it. -/
theorem State.ListInOrder.putCue {s : State} (h : s.ListInOrder) {c : Cue} (hc : c.Fits)
    (room : findCue s.cues c.number = none → s.cues.length < 512)
    (pool : movesInUse s.cues + c.moves.length ≤ 2048 + s.movesHeld c.number) :
    (s.setCues (putCue c s.cues)).ListInOrder := by
  have ⟨order, length, _⟩ := h
  refine State.listInOrder_of (Ascending.of_putCue order c) ?_ ?_ fun q hq => ?_
  · show (Machine.putCue c s.cues).length ≤ 512
    rw [Ascending.length_putCue order]
    split
    · exact room ‹_›
    · exact length
  · have := Ascending.movesInUse_putCue order c
    show movesInUse (Machine.putCue c s.cues) ≤ 2048
    unfold State.movesHeld at pool
    omega
  · rcases mem_putCue hq with rfl | hq
    · exact hc
    · exact h.fits hq

theorem State.ListInOrder.removeCue {s : State} (h : s.ListInOrder) (n : Nat) :
    (s.setCues (removeCue s.cues n)).ListInOrder := by
  have sub : (Machine.removeCue s.cues n).Sublist s.cues := List.filter_sublist
  have ⟨order, length, pool, _⟩ := h
  refine State.listInOrder_of (Ascending.filter order _) (sub.length_le.trans length) ?_
    fun q hq => h.fits (sub.subset hq)
  exact (List.Sublist.sum_le_sum (sub.map _) fun _ _ => Nat.zero_le _).trans pool

/-- The pool's free count, while it is not exceeded (R43). -/
theorem State.ListInOrder.pool {s : State} (h : s.ListInOrder) :
    poolFree s.cues + movesInUse s.cues = 2048 := by
  obtain ⟨-, -, pool, -⟩ := h
  exact Nat.sub_add_cancel pool

/-! ### Channels that a cue's moves crowd (R54) -/

theorem namedMoves_append (a b : List StoredMove) (c : Chan) :
    namedMoves (a ++ b) c = namedMoves a c + namedMoves b c := by
  simp [namedMoves]

/-- No new move is its channel's fifth, while each finds fewer than four before it. -/
theorem crowdedAt_eq_zero {held ms : List StoredMove} {k : Nat} (hk : k ≠ 0) :
    crowdedAt k held ms = 0 ↔
      ∀ l m more, ms = l ++ m :: more → namedMoves (held ++ l) m.channel < 4 := by
  induction ms generalizing held k with
  | nil => simp [crowdedAt]
  | cons m ms ih =>
    unfold crowdedAt
    split
    · rename_i full
      refine ⟨fun e => absurd e hk, fun h => absurd (h [] m ms rfl) ?_⟩
      simpa using full
    · rename_i free
      rw [ih (Nat.succ_ne_zero k)]
      constructor
      · rintro h l x more e
        cases l with
        | nil =>
          obtain ⟨rfl, rfl⟩ := List.cons.inj e
          simpa using free
        | cons y l =>
          obtain ⟨rfl, rest⟩ := List.cons.inj e
          simpa using h l x more rest
      · rintro h l x more rfl
        simpa using h (m :: l) x more rfl

/-- The position of the first new move that would be its channel's fifth. -/
theorem crowdedAt_first {held l more : List StoredMove} {m : StoredMove} (k : Nat)
    (full : 4 ≤ namedMoves (held ++ l) m.channel)
    (free : ∀ l' m' more', l = l' ++ m' :: more' → namedMoves (held ++ l') m'.channel < 4) :
    crowdedAt k held (l ++ m :: more) = k + l.length := by
  induction l generalizing held k with
  | nil =>
    rw [List.append_nil] at full
    rw [List.nil_append, crowdedAt, if_pos full]
    rfl
  | cons x l ih =>
    have first := free [] x l rfl
    rw [List.append_nil] at first
    rw [List.cons_append, crowdedAt, if_neg (by omega), ih (k + 1) (by simpa using full), List.length_cons]
    · omega
    · rintro l' m' more' rfl
      simpa using free (x :: l') m' more' rfl

/-- The moves of a cue with new moves stay at four for each channel while no channel is crowded. -/
theorem namedMoves_le {held ms : List StoredMove} {k : Nat} (hk : k ≠ 0) (h : ∀ c, namedMoves held c ≤ 4)
    (free : crowdedAt k held ms = 0) (c : Chan) : namedMoves (held ++ ms) c ≤ 4 := by
  induction ms generalizing held k with
  | nil => simpa using h c
  | cons m ms ih =>
    unfold crowdedAt at free
    split at free
    · exact absurd free hk
    · rename_i room
      rw [List.append_cons]
      refine ih (Nat.succ_ne_zero k) (fun d => ?_) free
      have hd := h d
      rw [namedMoves_append]
      by_cases e : m.channel = d
      · rw [show namedMoves [m] d = 1 by simp [namedMoves, e]]
        rw [e] at room
        omega
      · rw [show namedMoves [m] d = 0 by simp [namedMoves, e]]
        exact hd

end Sys2Proof.Machine
end

section
/-!
PROOF. The relation that every command keeps between the show and the cue list before and after it: the show
states stay consistent, the list in order, the playhead on it, and SAFE is not left (R40, R42, R46, R60, R66,
R67). It holds of each operation on the show and of the resets.
-/

namespace Sys2Proof.Machine

/-- What an operation keeps of the show and the cue list. `leaves` says that it may leave SAFE. -/
structure State.KeepsShow (leaves : Bool) (s t : State) : Prop where
  consistent : s.ShowConsistent → t.ShowConsistent
  order : s.ListInOrder → t.ListInOrder
  playhead : s.PlayheadInList → t.PlayheadInList
  safe : leaves = false → s.seq.state = .safe → t.seq.state = .safe

variable {leaves : Bool}

theorem State.KeepsShow.refl (s : State) : s.KeepsShow leaves s := ⟨id, id, id, fun _ => id⟩

theorem State.KeepsShow.trans {s t u : State} (h : s.KeepsShow leaves t) (k : t.KeepsShow leaves u) :
    s.KeepsShow leaves u :=
  ⟨k.consistent ∘ h.consistent, k.order ∘ h.order, k.playhead ∘ h.playhead,
    fun e => k.safe e ∘ h.safe e⟩

theorem State.KeepsShow.foldl {α : Type} (f : State → α → State)
    (h : ∀ (t : State) (a : α), t.KeepsShow leaves (f t a)) (l : List α) (s : State) :
    s.KeepsShow leaves (l.foldl f s) :=
  foldl_closed f (fun t a ht => ht.trans (h t a)) l s (refl s)

/-! ### Operations that reach neither the sequencer nor the list -/

theorem State.KeepsShow.of_eq {s t : State} (hs : t.seq = s.seq) (hc : t.cues = s.cues) :
    s.KeepsShow leaves t := by
  constructor
  · unfold State.ShowConsistent
    rw [hs]
    exact id
  · unfold State.ListInOrder
    rw [hc]
    exact id
  · unfold State.PlayheadInList State.Names
    rw [hs, hc]
    exact id
  · rw [hs]
    exact fun _ => id

section
variable (s : State)

theorem State.KeepsShow.raise (e : Event) : s.KeepsShow leaves (s.raise e) := of_eq rfl rfl
theorem State.KeepsShow.setClock (x : Clock) : s.KeepsShow leaves (s.setClock x) := of_eq rfl rfl
theorem State.KeepsShow.setContacts (x : Contacts) : s.KeepsShow leaves (s.setContacts x) := of_eq rfl rfl
theorem State.KeepsShow.setLink (x : Link) : s.KeepsShow leaves (s.setLink x) := of_eq rfl rfl
theorem State.KeepsShow.setEvents (x : Events) : s.KeepsShow leaves (s.setEvents x) := of_eq rfl rfl
theorem State.KeepsShow.setSurface (x : Surface) : s.KeepsShow leaves (s.setSurface x) := of_eq rfl rfl
theorem State.KeepsShow.setChannels (x : Tab 56 Channel) : s.KeepsShow leaves (s.setChannels x) :=
  of_eq rfl rfl
theorem State.KeepsShow.setChan (c : Chan) (r : Channel) : s.KeepsShow leaves (s.setChan c r) := of_eq rfl rfl
theorem State.KeepsShow.setFader (f : Slot) (d : Fader) : s.KeepsShow leaves (s.setFader f d) := of_eq rfl rfl

end

/-! ### Operations on moves and firings (R72 to R74, R77, R92 to R100) -/

theorem Names.of_cueAfter {s : State} (n : Nat) : s.Names (cueAfter s.cues n) := by
  intro k hk
  obtain ⟨q, hq, rfl⟩ := Option.map_eq_some_iff.mp hk
  exact ⟨q, List.mem_of_find?_eq_some hq, rfl⟩

theorem Names.of_firstCue {s : State} : s.Names (firstCue s.cues) := by
  intro k hk
  obtain ⟨q, hq, rfl⟩ := Option.map_eq_some_iff.mp hk
  exact ⟨q, List.mem_of_mem_head? hq, rfl⟩

theorem Names.of_lastCue {s : State} : s.Names (lastCue s.cues) := by
  intro k hk
  obtain ⟨q, hq, rfl⟩ := Option.map_eq_some_iff.mp hk
  exact ⟨q, List.mem_of_getLast? hq, rfl⟩

theorem Names.of_cueBefore {s : State} (n : Nat) : s.Names (cueBefore s.cues n) := by
  intro k hk
  obtain ⟨q, hq, rfl⟩ := Option.map_eq_some_iff.mp hk
  exact ⟨q, List.mem_of_mem_filter (List.mem_of_getLast? hq), rfl⟩

theorem State.KeepsShow.notify (s : State) (n : Notice) : s.KeepsShow leaves (s.notify n) := by
  unfold State.notify
  split <;> exact ⟨id, id, id, fun _ => id⟩

/-- In SHOW and HOLD the return state alone is to be looked at. -/
theorem State.showConsistent_shown {s : State} (h : s.seq.state = .running ∨ s.seq.state = .hold)
    (hr : s.seq.ret = .edit) : s.ShowConsistent := by
  refine ⟨fun e => ?_, fun _ => hr, .inl hr⟩
  rcases h with h | h <;> simp [h] at e

theorem State.ShowConsistent.ret_edit {s : State} (h : s.ShowConsistent) (hs : s.seq.state ≠ .safe) :
    s.seq.ret = .edit := h.2.1 hs

/-- The elementary updates of the show keep the show states consistent: in EDIT and SAFE there is no firing to
end and no arm to give way. -/
theorem State.ShowConsistent.closed : ShowClosed State.ShowConsistent where
  raise _ h := h
  notify n h := (KeepsShow.notify (leaves := true) _ n).consistent h
  flight l h hl := by
    obtain ⟨idle, ret⟩ := h
    refine ⟨fun e => ?_, ret⟩
    obtain ⟨flight, arm⟩ := idle e
    rw [flight] at hl
    exact ⟨List.length_eq_zero_iff.mp (Nat.le_zero.mp hl), arm⟩
  arm a h ha := by
    obtain ⟨idle, ret⟩ := h
    refine ⟨fun e => ?_, ret⟩
    obtain ⟨flight, arm, crossed⟩ := idle e
    refine ⟨flight, ?_, crossed⟩
    rcases ha with ha | ha | ha
    · exact ha
    · rcases e with e | e <;> cases ha.symm.trans e
    · exact absurd arm ha
  enter cue cause _ h hr := by
    have state := (ShowFrame.makeRoom _).state.trans hr
    exact showConsistent_shown (.inl state) (h.ret_edit (by rw [state]; decide))
  playhead _ h _ := h
  chan _ _ _ _ _ h := h
  crossed n h hn := by
    obtain ⟨idle, ret⟩ := h
    refine ⟨fun e => ?_, ret⟩
    obtain ⟨flight, arm, crossed⟩ := idle e
    refine ⟨flight, arm, hn.resolve_right fun hr => ?_⟩
    rcases e with e | e <;> cases hr.symm.trans e
  without _ h := h

/-- A property of what the operations on moves and firings leave as it was. -/
theorem ShowClosed.of_frame {P : State → Prop} (h : ∀ {s t : State}, s.ShowFrame t → P s → P t) :
    ShowClosed P where
  raise _ := h (State.ShowFrame.raise _ _)
  notify _ := h (State.ShowFrame.notify _ _)
  flight _ hs _ := h (State.ShowFrame.setFlight _ _) hs
  arm _ hs _ := h (State.ShowFrame.setArm _ _) hs
  enter _ _ _ hs _ := h (State.ShowFrame.enterFiring _ _ _) hs
  playhead _ hs _ := h (State.ShowFrame.setPlayhead _ _ _ _ _) hs
  chan _ _ _ _ _ := h (State.ShowFrame.setChan _ _ _ _ _ _)
  crossed _ hs _ := h (State.ShowFrame.setCrossed _ _ _) hs
  without _ := h (State.ShowFrame.setChannels _ _ fun c => by simp [Channel.withoutFiring, State.chan])

/-- The playhead of a firing stays on the list (R67). -/
theorem State.PlayheadInList.closed : ShowClosed State.PlayheadInList where
  raise _ h := h
  notify n h := (KeepsShow.notify (leaves := true) _ n).playhead h
  flight _ h _ := h
  arm _ h _ := h
  enter _ _ _ h _ := h
  playhead cue h hc := by
    obtain ⟨-, -, scan⟩ := h
    refine ⟨Names.of_cueAfter cue.number, ?_, scan⟩
    rintro _ ⟨⟩
    exact ⟨cue, hc, rfl⟩
  chan _ _ _ _ _ h := h
  crossed _ h _ := h
  without _ h := h

/-- What every property keeps that the elementary updates of the show keep. -/
theorem State.KeepsShow.of_closed {s t : State} (h : ∀ {P : State → Prop}, ShowClosed P → P s → P t) :
    s.KeepsShow leaves t where
  consistent := h ShowConsistent.closed
  order := h (ShowClosed.of_frame fun f hs => by unfold ListInOrder; rwa [f.cues])
  playhead := h PlayheadInList.closed
  safe _ := h (ShowClosed.of_frame fun f hs => f.state.trans hs)

section
variable (s : State)

theorem State.KeepsShow.settled : s.KeepsShow leaves s.settled := of_closed fun k => k.settled

theorem State.KeepsShow.settledFrom (u : State) : s.KeepsShow leaves (s.settledFrom u) :=
  of_closed fun k => k.settledFrom u

theorem State.KeepsShow.takeCrossing : s.KeepsShow leaves s.takeCrossing := of_closed fun k => k.takeCrossing

/-- Everything that a firing in SHOW brings about at its instant. -/
theorem State.KeepsShow.fireChain (cause : Cause) (h : s.seq.state = .running) :
    s.KeepsShow leaves (s.fireChain cause) := of_closed fun k => k.fireChain cause h

theorem State.KeepsShow.completeMove (c : Chan) : s.KeepsShow leaves (s.completeMove c) :=
  of_closed fun k => k.completeMove c

theorem State.KeepsShow.startDue (n : Nat) (c : Chan) : s.KeepsShow leaves (State.startDue n s c) :=
  of_closed fun k => k.startDue n c

theorem State.KeepsShow.startLevel (c : Chan) (target : Int) (duration : Nat) (curve : Curve)
    (base : Timebase) (owner : Owner) :
    s.KeepsShow leaves (s.startLevel c target duration curve base owner) :=
  of_closed fun k => k.startLevel c target duration curve base owner

theorem State.KeepsShow.reportActive (c : Chan) : s.KeepsShow leaves (s.reportActive c) :=
  of_closed fun k => k.reportActive c

theorem State.KeepsShow.allMoves : s.KeepsShow leaves s.allMoves := of_closed fun k => k.allMoves

theorem State.KeepsShow.clearShow : s.KeepsShow leaves s.clearShow where
  consistent h := ShowConsistent.closed.clearShow h id
  order := by unfold ListInOrder; rw [(ShowFrame.clearShow s).cues]; exact id
  playhead h := PlayheadInList.closed.clearShow h id
  safe _ := (ShowFrame.clearShow s).state.trans

/-- The arm is emptied, or set in SHOW or HOLD (R76). -/
theorem State.KeepsShow.setArm {a : Arm}
    (h : a = .empty ∨ s.seq.state = .running ∨ s.seq.state = .hold) : s.KeepsShow leaves (s.setArm a) where
  consistent k := by
    rcases h with h | h
    · exact ShowConsistent.closed.arm a k (.inl h)
    · exact showConsistent_shown h (k.ret_edit (by rcases h with h | h <;> rw [h] <;> decide))
  order := id
  playhead := id
  safe _ := id

end

/-! ### Show states (R60 to R66, R80, R81, R188) -/

theorem State.setShow_seq (s : State) (st : ShowState) : (s.setShow st).seq = { s.seq with state := st } := by
  unfold State.setShow
  split
  · rename_i h
    rw [← h]
  · rfl

/-- The show goes from another state than SAFE into SHOW or HOLD. -/
theorem State.KeepsShow.setShow {s : State} {st : ShowState} (hs : s.seq.state ≠ .safe)
    (ht : st = .running ∨ st = .hold) : s.KeepsShow leaves (s.setShow st) where
  consistent h := by
    have e := s.setShow_seq st
    exact showConsistent_shown (by rw [e]; exact ht) (by rw [e]; exact h.ret_edit hs)
  order := by unfold ListInOrder; rw [(PlayFrame.setShow s st).cues]; exact id
  playhead := by
    unfold PlayheadInList Names
    rw [(PlayFrame.setShow s st).cues, s.setShow_seq]
    exact id
  safe _ h := absurd h hs

section
variable (s : State)

theorem State.KeepsShow.holdShow : s.KeepsShow leaves s.holdShow := by
  unfold State.holdShow
  split
  · rename_i h
    exact setShow (by rw [h]; decide) (.inr rfl)
  · exact refl s

theorem State.KeepsShow.resumeShow (hs : s.seq.state ≠ .safe) : s.KeepsShow leaves s.resumeShow := by
  have shown : s.KeepsShow leaves (s.setShow .running) := setShow hs (.inl rfl)
  have state : (s.setShow .running).seq.state = .running := by rw [s.setShow_seq]
  unfold State.resumeShow
  dsimp only
  split
  · exact (shown.trans (setArm _ (.inr (.inl state)))).trans (settled _)
  · exact shown.trans (settled _)

/-- SAFE is entered with every firing and arm cleared, and its return state set (R65). -/
theorem State.KeepsShow.enterSafe : s.KeepsShow leaves s.enterSafe where
  consistent h := by
    obtain ⟨state, ret⟩ := s.enterSafe_state
    obtain ⟨idle, -, rets⟩ := h
    refine ⟨fun _ => ?_, fun e => absurd state e, ?_⟩
    · unfold State.enterSafe
      split
      · exact idle (.inr ‹_›)
      · exact ⟨rfl, rfl, rfl⟩
    · rw [ret]
      split
      · exact rets
      · split
        · exact .inl rfl
        · exact .inr rfl
  order := by unfold ListInOrder; rw [(PlayFrame.enterSafe s).cues]; exact id
  playhead h := by
    unfold State.enterSafe
    split
    · exact h
    · refine PlayheadInList.closed.clearShow ?_ id
      unfold PlayheadInList Names
      rw [(PlayFrame.setShow _ _).cues, State.setShow_seq]
      exact h
  safe _ _ := s.enterSafe_state.1

theorem State.KeepsShow.raiseWithAct (e : Event) : s.KeepsShow leaves (s.raiseWithAct e) := by
  unfold State.raiseWithAct State.apply
  split
  · exact raise s e
  · exact (raise s e).trans (holdShow _)
  · exact (raise s e).trans (enterSafe _)

theorem State.KeepsShow.openGate : s.KeepsShow leaves (s.setSeq { s.seq with gateTime := 0 }) :=
  ⟨id, id, id, fun _ => id⟩

theorem State.KeepsShow.go (cause : Cause) (n : Nat) : s.KeepsShow leaves (s.go cause n).state := by
  unfold State.go
  split
  · exact refl s
  · split
    · exact refl s
    · exact refl s
    · rename_i hold
      split
      · exact (openGate s).trans (resumeShow _ (by rw [State.setSeq_seq, hold]; decide))
      · exact refl s
    · rename_i running
      split
      · split
        · exact raise s _
        · split
          · exact refl s
          · exact (openGate s).trans (fireChain _ cause running)
      · exact refl s

theorem State.backTarget_names {n : Nat} (h : s.backTarget = some n) : s.Names (some n) := by
  unfold State.backTarget at h
  rw [← h]
  split
  · exact Names.of_lastCue
  · exact Names.of_cueBefore _

/-- A BACK that is taken leaves next on the list, in SHOW or HOLD (R80). -/
theorem State.KeepsShow.back : s.KeepsShow leaves s.back.1 := by
  unfold State.back
  split
  · exact refl s
  · split
    · exact refl s
    · rename_i shown
      split
      · exact raise s _
      · rename_i n hn
        have moved : s.KeepsShow leaves (s.setSeq { s.seq with next := some n, crossed := none }) := by
          refine ⟨fun h => ShowConsistent.closed.crossed none h (.inl rfl), id, ?_, fun _ => id⟩
          rintro ⟨-, standing, scan⟩
          exact ⟨s.backTarget_names hn, standing, scan⟩
        refine moved.trans (setArm _ (.inr ?_))
        show s.seq.state = .running ∨ s.seq.state = .hold
        cases e : s.seq.state <;> simp_all

/-- SAFE_RELEASE leaves SAFE for EDIT, or for HOLD with an arm of its own (R66). -/
theorem State.KeepsShow.leaveSafe (hs : s.seq.state = .safe) : s.KeepsShow true s.leaveSafe := by
  have left : s.KeepsShow true
      ((s.setShow s.seq.ret).setSeq { (s.setShow s.seq.ret).seq with ret := .edit }) := by
    rw [State.setShow_seq]
    refine ⟨?_, ?_, ?_, nofun⟩
    · rintro ⟨idle, -, -⟩
      exact ⟨fun _ => idle (.inr hs), fun _ => rfl, .inl rfl⟩
    · unfold ListInOrder
      rw [State.setSeq_cues, (PlayFrame.setShow s _).cues]
      exact id
    · unfold PlayheadInList Names
      rw [State.setSeq_cues, (PlayFrame.setShow s _).cues]
      exact id
  unfold State.leaveSafe
  dsimp only
  split
  · rename_i h
    exact left.trans (setArm _ (.inr (.inr h.1)))
  · exact left

end

/-! ### Resets (R89, R192, R195) -/

/-- A reset brings the show up in SAFE with its playhead, or in EDIT at the first cue (R89). -/
theorem State.KeepsShow.takeReset (s : State) (cause : ResetCause) :
    s.KeepsShow true (s.takeReset cause) := by
  have seq : (s.takeReset cause).seq = if s.live then Sequencer.afterReset .safe .hold s.seq.next s.seq.standing
    else Sequencer.afterReset .edit .edit (firstCue s.cues) none := rfl
  refine ⟨fun _ => ?_, id, fun h => ?_, nofun⟩
  · unfold ShowConsistent
    rw [seq]
    split <;> simp [Sequencer.afterReset]
  · unfold PlayheadInList
    rw [seq]
    split
    · exact ⟨h.1, h.2.1, nofun⟩
    · exact ⟨Names.of_firstCue, nofun, nofun⟩

theorem State.KeepsShow.takePowerOn (s : State) (straps : BitVec 5) :
    s.KeepsShow true (s.takePowerOn straps) := by
  obtain ⟨-, -, -, consistent, order, playhead, -⟩ := resetMeetsInvariants
  exact ⟨fun _ => consistent, fun _ => order, fun _ => playhead, nofun⟩

/-- The reset pin and the link restart that falls together with it (R192). -/
theorem State.KeepsShow.resetPin (s : State) (straps : BitVec 5) : s.KeepsShow true
    ((if s.link.restartDue then
      ((s.setLink { s.link with straps }).takeReset .resetPin).takeReset .linkRestart
    else (s.setLink { s.link with straps }).takeReset .resetPin).setResetLow true) := by
  have taken := (setLink (leaves := true) s { s.link with straps }).trans (takeReset _ .resetPin)
  have held (t : State) : t.KeepsShow true (t.setResetLow true) := of_eq rfl rfl
  split
  · exact (taken.trans (takeReset _ _)).trans (held _)
  · exact taken.trans (held _)

end Sys2Proof.Machine
end

section
/-!
PROOF. What the part does by itself keeps the show states consistent and the playhead on the list: hands and
scan passes, the wall millisecond, time marks, contact lines and tracking scans (R42, R46, R60, R67).
-/

namespace Sys2Proof.Machine

variable {leaves : Bool}

/-- An operation that is taken under a condition and leaves the state otherwise. -/
theorem State.KeepsShow.ifTaken {s t : State} (c : Prop) [Decidable c] (h : ¬ c → s.KeepsShow leaves t) :
    s.KeepsShow leaves (if c then s else t) := by
  split
  · exact refl _
  · exact h ‹_›

/-! ### Hands, scan passes, banks and modes (R130, R131, R135 to R146)

Of all that the surface does, an active move that a release ends in KEEP mode reaches the show (R101, R140). -/

section
variable (s : State) (f : Slot)

theorem State.KeepsShow.takeTouch : s.KeepsShow leaves (s.takeTouch f) := by
  unfold State.takeTouch
  split
  · exact refl s
  · split <;> exact of_eq rfl rfl

theorem State.KeepsShow.handBack (c : Chan) (h : Int) : s.KeepsShow leaves (s.handBack c h) := by
  unfold State.handBack
  split
  · exact setChan s _ _
  · exact (reportActive s c).trans (setChan _ _ _)

theorem State.KeepsShow.remap : s.KeepsShow leaves (s.remap f) := by
  unfold State.remap
  split
  · exact refl s
  · exact of_eq rfl rfl

theorem State.KeepsShow.releaseFader : s.KeepsShow leaves (s.releaseFader f) := by
  unfold State.releaseFader
  split
  · exact refl s
  · exact (setFader s f _).trans (remap _ f)
  · dsimp only
    split
    · exact (setFader s f _).trans (remap _ f)
    · exact ((setFader s f _).trans (handBack _ _ _)).trans (remap _ f)

theorem State.KeepsShow.handOn : s.KeepsShow leaves (s.handOn f) := by
  unfold State.handOn
  split
  · exact takeTouch s f
  · exact refl s

theorem State.KeepsShow.handOff : s.KeepsShow leaves (s.handOff f) := by
  unfold State.handOff
  split
  · exact (releaseFader s f).trans (settledFrom _ s)
  · exact refl s

theorem State.KeepsShow.keyOn : s.KeepsShow leaves (s.keyOn f) := by
  unfold State.keyOn State.toggleOperator
  repeat' split
  · exact refl s
  · exact setChan s _ _
  · exact refl s

theorem State.KeepsShow.passFader (readings : Tab 16 (BitVec 10)) :
    s.KeepsShow leaves (s.passFader readings f) := by
  have reading (t : State) (p : Nat) : t.KeepsShow leaves (t.takeReading f p) := by
    unfold State.takeReading
    dsimp only
    repeat' split
    all_goals exact of_eq rfl rfl
  unfold State.passFader
  dsimp only
  repeat' split
  · exact reading s _
  · exact (setFader s f _).trans (reading _ _)
  · exact refl s
  · exact (setFader s f _).trans (raise _ _)
  · exact refl s

theorem State.KeepsShow.mapFree (m : Option Chan) : s.KeepsShow leaves (s.mapFree f m) := by
  unfold State.mapFree
  dsimp only
  split
  · exact (setFader s f _).trans (takeTouch _ f)
  · exact setFader s f _

theorem State.KeepsShow.applyBank : s.KeepsShow leaves s.applyBank := by
  refine foldl _ (fun t g => ?_) _ s
  unfold State.applySlot
  split
  · split
    · exact mapFree t g _
    · exact setFader t g _
    · exact setFader t g _
  · exact refl t

theorem State.KeepsShow.modeChanged : s.KeepsShow leaves s.modeChanged := by
  unfold State.modeChanged
  dsimp only
  split
  · exact (setSurface s _).trans (foldl _ (fun t g => (releaseFader t g).trans (setFader _ g _)) _ _)
  · exact (setSurface s _).trans (foldl _ (fun t g => (setFader t g _).trans (mapFree _ g _)) _ _)

end

/-! ### Contact lines (R149 to R153) -/

section
variable (s : State)

theorem State.KeepsShow.judgedPress (r : Result) : s.KeepsShow leaves (s.judgedPress r) := by
  unfold State.judgedPress
  split <;> exact of_eq rfl rfl

theorem State.KeepsShow.contactRequest (l : ContactLine) : s.KeepsShow leaves (s.contactRequest l) := by
  cases l with
  | cgo => exact (go s .goContact 0).trans (judgedPress _ _)
  | cback => exact (back s).trans (judgedPress _ _)
  | chold => exact holdShow s
  | csafe => exact enterSafe s

/-- A press makes the request of its line (R150). -/
theorem State.KeepsShow.press (l : ContactLine) : s.KeepsShow leaves (s.press l fun t => t.contactRequest l) :=
  ifTaken _ fun _ => (setContacts s _).trans (contactRequest _ l)

/-! ### The wall millisecond (R26, R77, R98, R114, R124, R132, R149) -/

/-- The counters of a millisecond: a crossing of the one before is over (R49). -/
theorem State.KeepsShow.tickCounters : s.KeepsShow leaves s.tickCounters where
  consistent := by
    rintro ⟨idle, ret⟩
    refine ⟨fun e => ?_, ret⟩
    obtain ⟨flight, arm, -⟩ := idle e
    exact ⟨flight, arm, rfl⟩
  order := id
  playhead := by
    rintro ⟨next, standing, scan⟩
    refine ⟨next, standing, ?_⟩
    show s.Names ((s.seq.scan.map fun k => { k with age := k.age + 1 }).map Scan.cue)
    rw [Option.map_map]
    exact scan
  safe _ := id

/-- A WAITING arm that counts down stays one (R77). -/
theorem State.KeepsShow.armTick : s.KeepsShow leaves s.armTick := by
  unfold State.armTick
  repeat' split
  case h_4.isTrue h _ => exact of_closed fun k hs => k.arm _ hs (.inr (.inr (by rw [h]; exact Arm.noConfusion)))
  all_goals exact refl s

theorem State.KeepsShow.advanceAll : s.KeepsShow leaves s.advanceAll := by
  have ticked : s.KeepsShow leaves s.ticked :=
    ((tickCounters s).trans (setChannels _ _)).trans (armTick _)
  have moved : s.KeepsShow leaves s.moved := (ticked.trans (allMoves _)).trans (settledFrom _ _)
  rw [s.advanceAll_eq]
  split
  · exact moved.trans (takeCrossing _)
  · exact moved

theorem State.KeepsShow.sampleAll (x : Pins) : s.KeepsShow leaves (s.sampleAll x) := by
  have sampled : s.KeepsShow leaves (s.sampled x) := of_eq (s.sampled_seq x) (s.sampled_cues x)
  have touched : (s.sampled x).KeepsShow leaves (s.touched x) := by
    refine foldl _ (fun t f => ?_) _ _
    unfold State.touchActs
    split
    · exact handOn t f
    · exact handOff t f
    · exact refl t
    · exact refl t
  have keyed : (s.touched x).KeepsShow leaves (s.keyed x) := by
    refine foldl _ (fun t f => ?_) _ _
    unfold State.keyActs
    split
    · exact keyOn t f
    · exact refl t
  have contacts : (s.keyed x).KeepsShow leaves (s.sampleAll x) := by
    refine foldl _ (fun t l => ?_) _ _
    unfold State.contactActs
    split
    · exact contactRequest t l
    · exact refl t
  exact ((sampled.trans touched).trans keyed).trans contacts

theorem State.KeepsShow.millisecond : s.KeepsShow leaves s.wallMillisecond :=
  ((advanceAll s).trans (sampleAll _ _)).trans (of_eq rfl rfl)

/-! ### The show clock and the frame event (R112, R116 to R121, R158, R168) -/

theorem State.KeepsShow.runningMark (song m : Nat) : s.KeepsShow leaves (s.runningMark song m) := by
  unfold State.runningMark State.correct
  dsimp only
  repeat' split
  · exact (setClock s _).trans (raise _ _)
  · exact ((setClock s _).trans (raise _ _)).trans (takeCrossing _)
  · exact (setClock s _).trans (takeCrossing _)
  · exact (setClock s _).trans (raise _ _)
  · exact setClock s _

theorem State.KeepsShow.stoppedMark (song m : Nat) : s.KeepsShow leaves (s.stoppedMark song m) := by
  unfold State.stoppedMark
  dsimp only
  split <;> exact of_eq rfl rfl

theorem State.KeepsShow.loseClock : s.KeepsShow leaves s.loseClock :=
  (setClock s _).trans (raiseWithAct _ _)

theorem State.KeepsShow.timeoutClock : s.KeepsShow leaves s.timeoutClock := by
  unfold State.timeoutClock
  repeat' split
  case h_2.isTrue => exact loseClock s
  all_goals exact of_eq rfl rfl

theorem State.KeepsShow.judgeTimers : s.KeepsShow leaves s.judgeTimers := by
  unfold State.judgeTimers
  repeat' split
  · exact timeoutClock s
  · exact loseClock s
  · exact refl s

theorem State.KeepsShow.frameEvent : s.KeepsShow leaves s.frameEvent := by
  obtain ⟨seq, -⟩ := s.placed_seq
  rw [State.frameEvent_eq]
  exact State.raiseLate_keeps (fun u hu => hu.trans (raiseWithAct u _)) s (of_eq seq s.formed_cues)

theorem State.KeepsShow.sendEnd (l : OutLine) : s.KeepsShow leaves (s.sendEnd l) := by
  unfold State.sendEnd
  repeat' split
  all_goals exact of_eq rfl rfl

/-! ### The link (R177, R193) -/

theorem State.KeepsShow.linkFault (after : Receiver) (quiet : Nat) (count : Link → Link) :
    s.KeepsShow leaves (s.linkFault after quiet count) := by
  unfold State.linkFault
  split <;> exact of_eq rfl rfl

theorem State.KeepsShow.sequenceIdle : s.KeepsShow leaves s.sequenceIdle := by
  unfold State.sequenceIdle
  split <;> exact of_eq rfl rfl

/-! ### Tracking scans (R82 to R85) -/

/-- The scan's cue, which is on the list, becomes the standing cue, and the scan ends (R84, R85). -/
theorem State.KeepsShow.loadScan {k : Scan} (hk : s.seq.scan = some k) :
    s.KeepsShow leaves (s.loadScan k) := by
  have cleared := clearShow (leaves := leaves) s
  have frame := ShowFrame.clearShow s
  have loaded : s.KeepsShow leaves (s.clearShow.setSeq { s.clearShow.seq with
      standing := some k.cue, next := cueAfter s.clearShow.cues k.cue, scan := none }) := by
    refine ⟨cleared.consistent, cleared.order, fun h => ?_, cleared.safe⟩
    obtain ⟨-, -, scan⟩ := cleared.playhead h
    rw [frame.scan, hk] at scan
    exact ⟨Names.of_cueAfter (s := s.clearShow) k.cue, scan, nofun⟩
  unfold State.loadScan
  dsimp only
  split
  · rename_i shown
    exact (loaded.trans (setChannels _ _)).trans (setArm _ (.inr shown))
  · exact loaded.trans (setChannels _ _)

end

end Sys2Proof.Machine
end

section
/-!
PROOF. What the requests leave of the show and the cue list (R42, R45 to R47, R50 to R56, R60 to R66, R82).
-/

namespace Sys2Proof.Machine

variable {leaves : Bool}

/-! ### Receiving and judging a request (R178, R179, R193) -/

section
variable (s : State)

theorem State.KeepsShow.receive (d : Dest) (code : Byte) {serve : Bool → State → Served}
    (h : ∀ (b : Bool) (t : State), t.KeepsShow leaves (serve b t).state) :
    s.KeepsShow leaves (s.receive d code serve) := by
  have enqueue (v : Served) (b : Bool) : v.state.KeepsShow leaves (State.enqueue v code b) := by
    unfold State.enqueue
    split <;> exact of_eq rfl rfl
  unfold State.receive
  dsimp only
  repeat' split
  · exact ((setLink s _).trans (h _ _)).trans (enqueue _ _)
  · exact of_eq rfl rfl
  · exact refl s

/-- A request keeps what its own block keeps when it serves it. -/
theorem State.KeepsShow.request {α : Type} (d : Dest) (code : Byte) (parsed : Option α)
    {serve : α → Bool → State → Served} (h : ∀ f b (t : State), t.KeepsShow leaves (serve f b t).state)
    (carried : State → List Byte := fun _ => []) :
    s.KeepsShow leaves (s.request d code parsed serve carried) := by
  refine receive s d code fun b t => ?_
  unfold judge
  split
  · exact sequenceIdle t
  · split
    · exact sequenceIdle t
    · exact h _ b t

end

/-- A request that is answered without effect under a condition. -/
theorem State.KeepsShow.ifRefused {s : State} (c : Prop) [Decidable c] {w v : Served} (hw : w.state = s)
    (h : ¬ c → s.KeepsShow leaves v.state) : s.KeepsShow leaves (if c then w else v).state := by
  split
  · rw [hw]
    exact refl s
  · exact h ‹_›

/-! ### The cue list (R42, R50 to R56) -/

/-- A cue that is put into the list keeps every number on it. -/
theorem State.Names.putCue {s : State} {n : Option Nat} (h : s.Names n) (c : Cue) :
    (s.setCues (putCue c s.cues)).Names n := by
  intro k hk
  have found := findCue_isSome.mpr (h k hk)
  refine findCue_isSome.mp ?_
  rw [State.setCues_cues]
  by_cases e : k = c.number
  · rw [e, findCue_putCue_self]
    exact Option.some_ne_none c
  · rwa [findCue_putCue_ne c s.cues e]

theorem State.KeepsShow.putCue {s : State} {c : Cue} (hc : s.ListInOrder → c.Fits)
    (room : findCue s.cues c.number = none → s.cues.length < 512)
    (pool : s.ListInOrder → movesInUse s.cues + c.moves.length ≤ 2048 + s.movesHeld c.number) :
    s.KeepsShow leaves (s.setCues (putCue c s.cues)) where
  consistent := id
  order h := h.putCue (hc h) room (pool h)
  playhead := by
    rintro ⟨next, standing, scan⟩
    exact ⟨next.putCue c, standing.putCue c, scan.putCue c⟩
  safe _ := id

/-- The moves that a CUE_PUT leaves its cue are none, or those of the cue that it replaces (R50, R51). -/
theorem keptMoves_cases (old : Option Cue) (keep : Bool) :
    keptMoves old keep = [] ∨ ∃ q, old = some q ∧ keptMoves old keep = q.moves := by
  cases old with
  | none => exact .inl rfl
  | some q =>
    cases keep with
    | false => exact .inl rfl
    | true => exact .inr ⟨q, rfl, rfl⟩

section
variable (b : Bool) (s : State)

/-- A cue that is put with the moves it had, or with none, stays within its sizes (R50, R51). -/
theorem State.KeepsShow.serveCuePut (f : CuePut) : s.KeepsShow leaves (serveCuePut f b s).state := by
  unfold Machine.serveCuePut
  split
  · rename_i trigger base _ _
    refine ifRefused _ rfl fun good => ifRefused _ rfl fun _ => ifRefused _ rfl fun _ =>
      ifRefused _ rfl fun full => ?_
    have number : 1 ≤ f.number ∧ f.number ≤ 9999 := by
      refine cueNumberOk_eq_true.mp ?_
      simp only [Bool.or_eq_true, not_or, Bool.not_eq_true', Bool.not_eq_false] at good
      exact good.1
    refine putCue (fun order => ?_) (fun absent => ?_) fun order => ?_
    · rcases keptMoves_cases (findCue s.cues f.number) f.keep with e | ⟨q, hq, e⟩
      · exact ⟨number, by simp [CuePut.cue, e], by simp [CuePut.cue, e, namedMoves]⟩
      · obtain ⟨-, moves, named⟩ := order.fits (findCue_mem hq)
        exact ⟨number, by simpa [CuePut.cue, e] using moves, by simpa [CuePut.cue, e] using named⟩
    · have absent : findCue s.cues f.number = none := absent
      simp only [absent, Option.isNone_none, Bool.true_and, decide_eq_true_iff] at full
      omega
    · have pool := order.pool
      show movesInUse s.cues + (keptMoves (findCue s.cues f.number) f.keep).length ≤
        2048 + s.movesHeld f.number
      rcases keptMoves_cases (findCue s.cues f.number) f.keep with e | ⟨q, hq, e⟩
      · rw [e, List.length_nil]
        omega
      · rw [e, State.movesHeld_of_found hq]
        omega
  · exact refl s

/-- New moves are taken while the cue, each of its channels and the pool have room for them (R54). -/
theorem State.KeepsShow.serveMovesAdd (f : MovesAdd) : s.KeepsShow leaves (serveMovesAdd f b s).state := by
  unfold Machine.serveMovesAdd
  refine ifRefused _ rfl fun _ => ifRefused _ rfl fun _ => ifRefused _ rfl fun _ => ?_
  cases hq : findCue s.cues f.cue with
  | none => exact refl s
  | some q =>
    refine ifRefused _ rfl fun _ => ifRefused _ rfl fun full => ifRefused _ rfl fun crowded =>
      ifRefused _ rfl fun empty => putCue (fun order => ?_) (fun absent => ?_) fun order => ?_
    · obtain ⟨number, -, named⟩ := order.fits (findCue_mem hq)
      refine ⟨number, ?_, namedMoves_le (k := 1) (by decide) named (by simpa using crowded)⟩
      rw [List.length_append]
      omega
    · have absent : findCue s.cues q.number = none := absent
      rw [findCue_number hq, hq] at absent
      cases absent
    · have held : s.movesHeld q.number = q.moves.length := by
        rw [findCue_number hq, State.movesHeld_of_found hq]
      have pool := order.pool
      dsimp only
      rw [held, List.length_append]
      omega

/-- The cue leaves the list, and the playhead leaves the cue (R47, R55). -/
theorem State.KeepsShow.serveCueDelete (n : Nat) : s.KeepsShow leaves (serveCueDelete n b s).state := by
  have other {k : Option Nat} (h : s.Names k) (hk : k ≠ some n) :
      (s.setCues (removeCue s.cues n)).Names k := by
    rintro m rfl
    obtain ⟨q, hq, rfl⟩ := h m rfl
    exact ⟨q, mem_removeCue.mpr ⟨hq, fun e => hk (congrArg some e)⟩, rfl⟩
  have after : (s.setCues (removeCue s.cues n)).Names (cueAfter s.cues n) := by
    refine other (Names.of_cueAfter n) fun e => ?_
    obtain ⟨q, hq, hn⟩ := Option.map_eq_some_iff.mp e
    have := List.find?_some hq
    simp [hn] at this
  unfold Machine.serveCueDelete
  refine ifRefused _ rfl fun _ => ifRefused _ rfl fun idle => ifRefused _ rfl fun _ =>
    ifRefused _ rfl fun _ => ?_
  have noScan : s.seq.scan = none := by simpa [State.scanning] using idle
  have removed : s.KeepsShow leaves ((s.playheadWithout n).setCues (removeCue s.cues n)) := by
    refine ⟨id, fun h => h.removeCue n, fun ⟨next, standing, _⟩ => ⟨?_, ?_, ?_⟩, fun _ => id⟩
    · show (s.setCues (removeCue s.cues n)).Names
        (if s.seq.next = some n then cueAfter s.cues n else s.seq.next)
      split
      · exact after
      · exact other next ‹_›
    · show (s.setCues (removeCue s.cues n)).Names (if s.seq.standing = some n then none else s.seq.standing)
      split
      · exact nofun
      · exact other standing ‹_›
    · show (s.setCues (removeCue s.cues n)).Names (s.seq.scan.map Scan.cue)
      rw [noScan]
      exact nofun
  show s.KeepsShow leaves (s.deleteCue n)
  unfold State.deleteCue
  dsimp only
  split
  · rename_i h
    exact removed.trans (setArm _ (.inr h.2))
  · exact removed

theorem State.KeepsShow.serveListClear (u : Unit) : s.KeepsShow leaves (serveListClear u b s).state := by
  unfold Machine.serveListClear
  refine ifRefused _ rfl fun idle => ?_
  have noScan : s.seq.scan = none := by simpa [State.scanning] using idle
  split
  · refine ⟨id, fun _ => ⟨List.Pairwise.nil, Nat.zero_le _, Nat.zero_le _, nofun⟩,
      fun _ => ⟨nofun, nofun, ?_⟩, fun _ => id⟩
    rw [Served.state, State.reply, State.setSeq_seq, noScan]
    exact nofun
  · exact refl s

/-! ### The show (R61 to R66, R69, R80 to R82, R87) -/

/-- The show begins at next, or at the first cue (R61). -/
theorem State.KeepsShow.serveShowStart (u : Unit) : s.KeepsShow leaves (serveShowStart u b s).state := by
  unfold Machine.serveShowStart
  refine ifRefused _ rfl fun _ => ifRefused _ rfl fun edit => ifRefused _ rfl fun _ => ?_
  have edit : s.seq.state = .edit := not_not.mp edit
  have shown : s.KeepsShow leaves (s.setShow .running) := setShow (by rw [edit]; decide) (.inl rfl)
  have placed : (s.setShow .running).KeepsShow leaves
      ((s.setShow .running).setSeq { (s.setShow .running).seq with
        next := match (s.setShow .running).seq.next with
        | none => firstCue (s.setShow .running).cues
        | some n => some n }) := by
    refine ⟨id, id, fun ⟨next, standing, scan⟩ => ⟨?_, standing, scan⟩, fun _ => id⟩
    dsimp only [State.setSeq_seq]
    split
    · exact Names.of_firstCue (s := s.setShow .running)
    · rename_i hn
      exact hn ▸ next
  refine (shown.trans placed).trans (setArm _ (.inr (.inl ?_)))
  rw [State.setSeq_seq, s.setShow_seq]

/-- The show ends with no firing, no arm and no crossing (R62). -/
theorem State.KeepsShow.serveShowEnd (u : Unit) : s.KeepsShow leaves (serveShowEnd u b s).state := by
  unfold Machine.serveShowEnd
  refine ifRefused _ rfl fun _ => ifRefused _ rfl fun running => ifRefused _ rfl fun empty => ?_
  have running : s.seq.state = .running := not_not.mp running
  have empty : s.seq.flight = [] := by simpa using empty
  have ended := ((s.setSeq { s.seq with crossed := none }).setArm .empty).setShow_seq .edit
  have cues := (PlayFrame.setShow ((s.setSeq { s.seq with crossed := none }).setArm .empty) .edit).cues
  show s.KeepsShow leaves (((s.setSeq { s.seq with crossed := none }).setArm .empty).setShow .edit)
  refine ⟨fun h => ?_, ?_, ?_, fun _ h => ?_⟩
  · have ret := h.ret_edit (by rw [running]; decide)
    unfold ShowConsistent
    rw [ended]
    exact ⟨fun _ => ⟨empty, rfl, rfl⟩, fun _ => ret, .inl ret⟩
  · unfold ListInOrder
    rw [cues]
    exact id
  · unfold PlayheadInList Names
    rw [ended, cues]
    exact id
  · cases running.symm.trans h

theorem State.KeepsShow.serveGo (n : Nat) : s.KeepsShow leaves (serveGo n b s).state := by
  unfold Machine.serveGo
  dsimp only
  split
  · exact refl s
  · exact go s _ _

theorem State.KeepsShow.serveHold (u : Unit) : s.KeepsShow leaves (serveHold u b s).state := by
  unfold Machine.serveHold
  split
  · exact holdShow s
  · exact refl s

theorem State.KeepsShow.serveResume (u : Unit) : s.KeepsShow leaves (serveResume u b s).state := by
  unfold Machine.serveResume
  split
  · rename_i hold
    exact resumeShow s (by rw [hold]; decide)
  · exact refl s

theorem State.KeepsShow.serveStop (u : Unit) : s.KeepsShow leaves (serveStop u b s).state := by
  unfold Machine.serveStop
  split
  · exact clearShow s
  · exact refl s

theorem State.KeepsShow.serveSafeRelease (u : Unit) : s.KeepsShow true (serveSafeRelease u b s).state := by
  unfold Machine.serveSafeRelease
  split
  · exact leaveSafe s ‹_›
  · exact refl s

/-- The scan's cue is a cue of the list (R82, R85). -/
theorem State.KeepsShow.serveGoto (f : GotoBody) : s.KeepsShow leaves (serveGoto f b s).state := by
  unfold Machine.serveGoto
  refine ifRefused _ rfl fun _ => ifRefused _ rfl fun _ => ifRefused _ rfl fun found => ?_
  refine State.KeepsShow.trans (t := s.setSeq { s.seq with scan := some _ }) ?_ (setArm _ (.inl rfl))
  refine ⟨id, id, fun ⟨next, standing, _⟩ => ⟨next, standing, ?_⟩, fun _ => id⟩
  rintro _ ⟨⟩
  exact findCue_isSome.mp (by simpa using found)

theorem State.KeepsShow.serveNoticesRead (n : Byte) : s.KeepsShow leaves (serveNoticesRead n b s).state := by
  unfold Machine.serveNoticesRead
  exact ifRefused _ rfl fun _ => ifRefused _ rfl fun _ => ⟨id, id, id, fun _ => id⟩

/-! ### The other blocks (R13, R15, R16, R105, R126, R134, R135, R146, R155, R163, R170, R184, R190, R193) -/

theorem State.KeepsShow.serveLinkSetup (f : LinkSetup) : s.KeepsShow leaves (serveLinkSetup f b s).state := by
  unfold Machine.serveLinkSetup
  dsimp only
  split <;> exact of_eq rfl rfl

theorem State.KeepsShow.serveEventsSetup (f : EventsSetup) :
    s.KeepsShow leaves (serveEventsSetup f b s).state := by
  unfold Machine.serveEventsSetup
  split <;> exact of_eq rfl rfl

theorem State.KeepsShow.serveEventsRead (g : Byte) : s.KeepsShow leaves (serveEventsRead g b s).state := by
  unfold Machine.serveEventsRead
  exact ifRefused _ rfl fun _ => ifRefused _ rfl fun _ => setEvents s _

/-- A RESTART may restart the part at once (R193). -/
theorem State.KeepsShow.serveRestart (step : Nat) : s.KeepsShow true (serveRestart step b s).state := by
  unfold Machine.serveRestart
  split
  · exact sequenceIdle s
  · cases s.events.sequence with
    | idle => dsimp only; split <;> exact of_eq rfl rfl
    | step1 => dsimp only; split <;> exact of_eq rfl rfl
    | step2 =>
      dsimp only
      repeat' split
      · exact (setEvents s _).trans (takeReset _ _)
      · exact setEvents s _
      · exact setEvents s _
    | due => exact of_eq rfl rfl

theorem State.KeepsShow.serveChannelSetup (f : ChannelSetup) :
    s.KeepsShow leaves (serveChannelSetup f b s).state := by
  unfold Machine.serveChannelSetup
  repeat' split
  all_goals exact of_eq rfl rfl

theorem State.KeepsShow.serveTrim (f : TrimBody) : s.KeepsShow leaves (serveTrim f b s).state := by
  unfold Machine.serveTrim
  split <;> exact of_eq rfl rfl

theorem State.KeepsShow.serveMuteRemote (f : MuteRemote) :
    s.KeepsShow leaves (serveMuteRemote f b s).state := by
  unfold Machine.serveMuteRemote
  split <;> exact of_eq rfl rfl

theorem State.KeepsShow.serveLevel (f : LevelBody) : s.KeepsShow leaves (serveLevel f b s).state := by
  unfold Machine.serveLevel
  split
  · exact (startLevel s _ _ _ _ _ _).trans (settledFrom _ s)
  · exact refl s

theorem State.KeepsShow.serveClockSetup (f : ClockConfig) :
    s.KeepsShow leaves (serveClockSetup f b s).state := (setClock s _).trans (judgeTimers _)

theorem State.KeepsShow.serveSurfaceSetup (f : SurfaceSetup) :
    s.KeepsShow leaves (serveSurfaceSetup f b s).state := by
  unfold Machine.serveSurfaceSetup
  split
  · exact refl s
  · dsimp only
    split
    · exact setSurface s _
    · exact ((setSurface s _).trans (modeChanged _)).trans (settledFrom _ s)

theorem State.KeepsShow.serveBankPut (f : BankPut) : s.KeepsShow leaves (serveBankPut f b s).state := by
  unfold Machine.serveBankPut
  split
  · refine ifRefused _ rfl fun _ => ?_
    dsimp only
    split
    · exact (setSurface s _).trans (applyBank _)
    · exact setSurface s _
  · exact refl s

theorem State.KeepsShow.serveBankSelect (k : Byte) : s.KeepsShow leaves (serveBankSelect k b s).state := by
  unfold Machine.serveBankSelect
  split
  · exact refl s
  · exact (setSurface s _).trans (applyBank _)

theorem State.KeepsShow.serveContactSetup (f : ContactSetup) :
    s.KeepsShow leaves (serveContactSetup f b s).state := by
  unfold Machine.serveContactSetup
  split <;> exact of_eq rfl rfl

theorem State.KeepsShow.serveOutputSetup (f : OutputSetup) :
    s.KeepsShow leaves (serveOutputSetup f b s).state := by
  unfold Machine.serveOutputSetup
  split <;> exact of_eq rfl rfl

theorem State.KeepsShow.serveRoutePut (f : RoutePut) : s.KeepsShow leaves (serveRoutePut f b s).state := by
  unfold Machine.serveRoutePut
  repeat' split
  all_goals exact of_eq rfl rfl

end

end Sys2Proof.Machine
end

section
/-!
PROOF. O55 and O57: every command, and so every step, keeps the show states consistent, the list in order and
the playhead on it, and SAFE is left by SAFE_RELEASE and the resets alone (R40, R42, R46, R60, R66, R67).
-/

namespace Sys2Proof.Machine

/-- The commands that may leave SAFE: SAFE_RELEASE, and those that reset the part (R60, R192). -/
def leavesSafe : Instr → Bool
  | .safeRelease _ _ => true
  | .restart _ _ => true
  | .replyEnd => true
  | .powerOn _ => true
  | .resetPin _ => true
  | _ => false

theorem leavesSafe_eq_true {i : Instr} (h : leavesSafe i = true) :
    (∃ d b, i = .safeRelease d b) ∨ (∃ d b, i = .restart d b) ∨ i = .replyEnd ∨
      (∃ x, i = .powerOn x) ∨ ∃ x, i = .resetPin x := by
  unfold leavesSafe at h
  split at h
  · exact .inl ⟨_, _, rfl⟩
  · exact .inr (.inl ⟨_, _, rfl⟩)
  · exact .inr (.inr (.inl rfl))
  · exact .inr (.inr (.inr (.inl ⟨_, rfl⟩)))
  · exact .inr (.inr (.inr (.inr ⟨_, rfl⟩)))
  · cases h

section
variable {leaves : Bool} (s : State)

/-! ### Commands whose effect is written in their arm -/

theorem State.KeepsShow.timeMark (song : Byte) (position : BitVec 32) (flags check : Byte) :
    ∃ u, execTimeMark song position flags check s = .next u ∧ s.KeepsShow leaves u := by
  refine ⟨_, rfl, ifTaken _ fun _ => ?_⟩
  dsimp only
  repeat' split
  · exact of_eq rfl rfl
  · exact of_eq rfl rfl
  · exact (setClock s _).trans (runningMark _ _ _)
  · exact (setClock s _).trans (stoppedMark _ _ _)

theorem State.KeepsShow.passEnd (readings : Tab 16 (BitVec 10)) :
    ∃ u, execPassEnd readings s = .next u ∧ s.KeepsShow leaves u :=
  ⟨_, rfl, ifTaken _ fun _ => (setSurface s _).trans (foldl _ (fun t f => passFader t f readings) _ _)⟩

/-- An expiry is due in SHOW alone (R77). -/
theorem State.running_of_expiryDue {s : State} (h : s.expiryDue = true) : s.seq.state = .running := by
  unfold State.expiryDue at h
  rcases Bool.or_eq_true_iff.mp h with h | h
  · unfold State.waitDue at h
    exact beq_iff_eq.mp (Bool.and_eq_true_iff.mp h).1
  · split at h
    · rename_i left base _
      have counts : s.showAdvances base = true :=
        (Bool.and_eq_true_iff.mp (Bool.and_eq_true_iff.mp h).1).1
      exact beq_iff_eq.mp (Bool.and_eq_true_iff.mp counts).1
    all_goals cases h

theorem State.KeepsShow.waitExpiry : ∃ u, execWaitExpiry s = .next u ∧ s.KeepsShow leaves u := by
  refine ⟨_, rfl, ifTaken _ fun due => fireChain s _ (State.running_of_expiryDue ?_)⟩
  simp only [Bool.or_eq_true, not_or, Bool.not_eq_true', Bool.not_eq_false] at due
  exact due.2

theorem State.KeepsShow.gotoComplete : ∃ u, execGotoComplete s = .next u ∧ s.KeepsShow leaves u := by
  refine ⟨_, rfl, ifTaken _ fun _ => ?_⟩
  split
  · exact refl s
  · exact (loadScan s ‹_›).trans (setLink _ _)

theorem State.KeepsShow.moveStart (c : Chan) : ∃ u, execMoveStart c s = .next u ∧ s.KeepsShow leaves u := by
  refine ⟨_, rfl, ifTaken _ fun _ => ?_⟩
  repeat' split
  · exact refl s
  · exact ((setChan s c _).trans (startDue _ _ c)).trans (settledFrom _ s)
  · exact refl s

theorem State.KeepsShow.moveComplete (c : Chan) :
    ∃ u, execMoveComplete c s = .next u ∧ s.KeepsShow leaves u := by
  refine ⟨_, rfl, ifTaken _ fun _ => ?_⟩
  repeat' split
  · exact refl s
  · exact (completeMove s c).trans (settledFrom _ s)
  · exact refl s

theorem State.KeepsShow.replySend : ∃ u, execReplySend s = .next u ∧ s.KeepsShow leaves u := by
  refine ⟨_, rfl, ?_⟩
  repeat' split
  all_goals exact of_eq rfl rfl

/-- The end of a reply may bring the link restart about (R181, R193). -/
theorem State.KeepsShow.replyEnd : ∃ u, execReplyEnd s = .next u ∧ s.KeepsShow true u := by
  refine ⟨_, rfl, ifTaken _ fun _ => ?_⟩
  dsimp only
  repeat' split
  case h_3 => exact (setLink s _).trans (takeReset _ _)
  all_goals exact of_eq rfl rfl

theorem State.KeepsShow.otherTraffic :
    ∃ u, execTrafficForOtherParts s = .next u ∧ s.KeepsShow leaves u := by
  refine ⟨_, rfl, ?_⟩
  repeat' split
  · exact setLink s _
  · exact linkFault s _ _ _
  · exact refl s

theorem State.KeepsShow.requestOverrun :
    ∃ u, execRequestOverrun s = .next u ∧ s.KeepsShow leaves u := by
  refine ⟨_, rfl, ?_⟩
  split <;> exact of_eq rfl rfl

theorem State.KeepsShow.restart (d : Dest) (body : List Byte) :
    ∃ u, execRestart d body s = .next u ∧ s.KeepsShow true u := by
  refine ⟨_, rfl, receive s d _ fun b t => ?_⟩
  split
  · exact sequenceIdle t
  · exact serveRestart b t _

end

/-- Every command keeps the show states and the list, and SAFE unless it is one that may leave it. -/
theorem State.KeepsShow.exec (i : Instr) (s : State) :
    ∃ u, exec i s = .next u ∧ s.KeepsShow (leavesSafe i) u := by
  cases i with
  | nop | linkQuery | restartQuery | channelQuery | cueQuery | movesQuery | listQuery | showQuery | clockQuery
  | surfaceQuery | contactQuery | routeQuery | outputQuery =>
    exact ⟨_, rfl, request s _ _ _ fun _ _ t => refl t⟩
  | linkSetup => exact ⟨_, rfl, request s _ _ _ fun f b t => serveLinkSetup b t f⟩
  | eventsSetup => exact ⟨_, rfl, request s _ _ _ fun f b t => serveEventsSetup b t f⟩
  | eventsRead => exact ⟨_, rfl, request s _ _ _ fun f b t => serveEventsRead b t f⟩
  | restart => exact restart s _ _
  | channelSetup => exact ⟨_, rfl, request s _ _ _ fun f b t => serveChannelSetup b t f⟩
  | trim => exact ⟨_, rfl, request s _ _ _ fun f b t => serveTrim b t f⟩
  | muteRemote => exact ⟨_, rfl, request s _ _ _ fun f b t => serveMuteRemote b t f⟩
  | level => exact ⟨_, rfl, request s _ _ _ fun f b t => serveLevel b t f⟩
  | cuePut => exact ⟨_, rfl, request s _ _ _ fun f b t => serveCuePut b t f⟩
  | movesAdd => exact ⟨_, rfl, request s _ _ _ fun f b t => serveMovesAdd b t f⟩
  | cueDelete => exact ⟨_, rfl, request s _ _ _ fun f b t => serveCueDelete b t f⟩
  | listClear => exact ⟨_, rfl, request s _ _ _ fun f b t => serveListClear b t f⟩
  | showStart => exact ⟨_, rfl, request s _ _ _ fun f b t => serveShowStart b t f⟩
  | showEnd => exact ⟨_, rfl, request s _ _ _ fun f b t => serveShowEnd b t f⟩
  | go => exact ⟨_, rfl, request s _ _ _ (fun f b t => serveGo b t f) _⟩
  | back => exact ⟨_, rfl, request s _ _ _ (fun _ _ t => back t) _⟩
  | hold => exact ⟨_, rfl, request s _ _ _ fun f b t => serveHold b t f⟩
  | resume => exact ⟨_, rfl, request s _ _ _ fun f b t => serveResume b t f⟩
  | stop => exact ⟨_, rfl, request s _ _ _ fun f b t => serveStop b t f⟩
  | safe => exact ⟨_, rfl, request s _ _ _ fun _ _ t => enterSafe t⟩
  | safeRelease => exact ⟨_, rfl, request s _ _ _ fun f b t => serveSafeRelease b t f⟩
  | gotoCue => exact ⟨_, rfl, request s _ _ _ fun f b t => serveGoto b t f⟩
  | noticesRead => exact ⟨_, rfl, request s _ _ _ fun f b t => serveNoticesRead b t f⟩
  | clockSetup => exact ⟨_, rfl, request s _ _ _ fun f b t => serveClockSetup b t f⟩
  | surfaceSetup => exact ⟨_, rfl, request s _ _ _ fun f b t => serveSurfaceSetup b t f⟩
  | bankPut => exact ⟨_, rfl, request s _ _ _ fun f b t => serveBankPut b t f⟩
  | bankSelect => exact ⟨_, rfl, request s _ _ _ fun f b t => serveBankSelect b t f⟩
  | contactSetup => exact ⟨_, rfl, request s _ _ _ fun f b t => serveContactSetup b t f⟩
  | outputSetup => exact ⟨_, rfl, request s _ _ _ fun f b t => serveOutputSetup b t f⟩
  | routePut => exact ⟨_, rfl, request s _ _ _ fun f b t => serveRoutePut b t f⟩
  | unknownType => exact ⟨_, rfl, receive s _ _ fun _ t => sequenceIdle t⟩
  | requestOverrun => exact requestOverrun s
  | linkFramingFault | linkGapFault | linkFormFault | linkCheckFault => exact ⟨_, rfl, linkFault s _ _ _⟩
  | replySend => exact replySend s
  | replyEnd => exact replyEnd s
  | linkSilence => exact ⟨_, rfl, ifTaken _ fun _ => (setLink s _).trans (raiseWithAct _ _)⟩
  | restartWindowLapse => exact ⟨_, rfl, ifTaken _ fun _ => sequenceIdle s⟩
  | powerOn => exact ⟨_, rfl, takePowerOn s _⟩
  | resetPin => exact ⟨_, rfl, ifTaken _ fun _ => resetPin s _⟩
  | resetPinRelease => exact ⟨_, rfl, of_eq rfl rfl⟩
  | timeMark => exact timeMark s _ _ _ _
  | markFramingFault | markGapFault => exact ⟨_, rfl, ifTaken _ fun _ => of_eq rfl rfl⟩
  | markTimeout => exact ⟨_, rfl, ifTaken _ fun _ => timeoutClock s⟩
  | freewheelLimit => exact ⟨_, rfl, ifTaken _ fun _ => loseClock s⟩
  | clockAdvance => exact ⟨_, rfl, ifTaken _ fun _ => millisecond s⟩
  | waitExpiry => exact waitExpiry s
  | gotoComplete => exact gotoComplete s
  | moveStart => exact moveStart s _
  | moveComplete => exact moveComplete s _
  | passEnd => exact passEnd s _
  | qualifiedTouch => exact ⟨_, rfl, ifTaken _ fun _ => (setSurface s _).trans (handOn _ _)⟩
  | qualifiedRelease => exact ⟨_, rfl, ifTaken _ fun _ => (setSurface s _).trans (handOff _ _)⟩
  | keyPress => exact ⟨_, rfl, ifTaken _ fun _ => (setSurface s _).trans (keyOn _ _)⟩
  | keyRelease => exact ⟨_, rfl, ifTaken _ fun _ => setSurface s _⟩
  | contactGoPress => exact ⟨_, rfl, press s .cgo⟩
  | contactBackPress => exact ⟨_, rfl, press s .cback⟩
  | contactHoldPress => exact ⟨_, rfl, press s .chold⟩
  | contactSafePress => exact ⟨_, rfl, press s .csafe⟩
  | contactRelease => exact ⟨_, rfl, ifTaken _ fun _ => setContacts s _⟩
  | frameEvent => exact ⟨_, rfl, ifTaken _ fun _ => frameEvent s⟩
  | sendEnd => exact ⟨_, rfl, ifTaken _ fun _ => sendEnd s _⟩
  | trafficForOtherParts => exact otherTraffic s

theorem State.KeepsShow.of_exec {i : Instr} {s t : State} (h : Machine.exec i s = .next t) :
    s.KeepsShow (leavesSafe i) t := by
  obtain ⟨u, hu, k⟩ := exec i s
  cases hu.symm.trans h
  exact k

/-! ### The step -/

theorem State.KeepsShow.anyway {leaves : Bool} {s t : State} (h : s.KeepsShow leaves t) :
    s.KeepsShow true t := ⟨h.consistent, h.order, h.playhead, nofun⟩

/-- A character that is judged reaches neither the sequencer nor the list (R111, R176). -/
theorem State.KeepsShow.nextCharacter {leaves : Bool} {s t : State} {i : Option Instr}
    (h : s.nextCharacter = some (t, i)) : s.KeepsShow leaves t := by
  have link (x : LinkHeard) (rest : List LinkHeard) : s.KeepsShow leaves (s.judgeLink x rest).1 := by
    unfold State.judgeLink
    repeat' split
    all_goals exact of_eq rfl rfl
  have mark (x : MarkHeard) (rest : List MarkHeard) : s.KeepsShow leaves (s.judgeMark x rest).1 := by
    unfold State.judgeMark
    repeat' split
    all_goals exact of_eq rfl rfl
  unfold State.nextCharacter at h
  repeat' split at h
  · cases h
  · rename_i x rest _
    have k := link x rest
    rwa [Option.some.inj h] at k
  · rename_i x rest _ _
    have k := mark x rest
    rwa [Option.some.inj h] at k
  · cases h

/-- Every step: the command taken, the character judged, or the part's own event. -/
theorem State.KeepsShow.step {s t : State} (h : Machine.step s = .next t) : s.KeepsShow true t := by
  unfold Machine.step at h
  repeat' split at h
  · rename_i rest _
    have taken : s.KeepsShow true (s.setPending rest) := of_eq rfl rfl
    exact taken.trans (of_exec h).anyway
  · rename_i hc
    exact (nextCharacter hc).trans (of_exec h).anyway
  · rename_i hc
    cases h
    exact nextCharacter hc
  · exact (of_exec h).anyway
  · cases h
    exact refl s

/-- Settles O55: the relation that every step keeps, and for SAFE the one that every command keeps. -/
theorem showKept : Obligations.ShowKept := by
  refine ⟨fun s t h => (State.KeepsShow.step h).consistent, fun i s t h safe left => leavesSafe_eq_true ?_⟩
  by_contra keeps
  exact left ((State.KeepsShow.of_exec h).safe (Bool.eq_false_of_not_eq_true keeps) safe)

/-- Settles O57: the relation that every step keeps. -/
theorem storeKept : Obligations.StoreKept := fun _ _ h =>
  ⟨(State.KeepsShow.step h).order, (State.KeepsShow.step h).playhead⟩

end Sys2Proof.Machine
end

section
/-!
PROOF. CUE_PUT: the body read back, the header that is stored, and the refusals in the order of their checks
(R45, R46, R49 to R52).
-/

namespace Sys2Proof.Machine

/-! ### What is read back -/

theorem natOf_bytesOf_three {n : Nat} (h : n < 16777216) : natOf (bytesOf 3 n) = n := by
  simp only [natOf, bytesOf, List.foldl, BitVec.toNat_ofNat]
  omega

theorem Trigger.ofCode_code (g : Trigger) : Trigger.ofCode g.code = some g := by cases g <;> rfl

theorem Timebase.ofCode_code (b : Timebase) : Timebase.ofCode b.code = some b := by cases b <;> rfl

theorem Trigger.code_of_ofCode {b : Byte} {g : Trigger} (h : Trigger.ofCode b = some g) :
    b.toNat ≤ 3 ∧ (b.toNat = 3 → g = .clock) := by
  unfold Trigger.ofCode at h
  split at h
  case h_4 => exact ⟨by omega, fun _ => (Option.some.inj h).symm⟩
  case h_5 => cases h
  all_goals exact ⟨by omega, fun _ => by omega⟩

theorem Timebase.code_of_ofCode {b : Byte} {v : Timebase} (h : Timebase.ofCode b = some v) :
    b.toNat ≤ 1 := by
  unfold Timebase.ofCode at h
  split at h
  · omega
  · omega
  · cases h

theorem parseCuePut_body {n wait song position : Nat} {g : Trigger} (good : CuePutGood n g wait song position)
    (b : Timebase) (flags : Byte) : parseCuePut (cuePutBody n g b wait song position flags) =
      some ⟨n, g.code, b.code, wait, song, position, flags.getLsbD 0⟩ := by
  obtain ⟨-, hn, hwait, hsong, -, hposition⟩ := good
  show some (CuePut.mk (natOf (bytesOf 2 n)) g.code b.code (natOf (bytesOf 3 wait)) (byte song).toNat
    (natOf (bytesOf 3 position)) (flags.getLsbD 0)) = _
  rw [natOf_bytesOf_two (by omega), natOf_bytesOf_three hwait, natOf_bytesOf_three hposition, toNat_byte hsong]

/-- An edit that R46 or R49 refuses. -/
theorem State.editArmed_iff {s : State} {n : Nat} : s.editArmed n = true ↔ s.Armed n := by
  simp [State.editArmed, State.Armed]

theorem State.editArmed_of_not {s : State} {n : Nat} (h : ¬ s.Armed n) : s.editArmed n = false :=
  Bool.eq_false_of_not_eq_true (mt State.editArmed_iff.mp h)

theorem State.scanning_iff {s : State} : s.scanning = true ↔ s.seq.scan ≠ none := Option.isSome_iff_ne_none

theorem State.scanning_of_none {s : State} (h : s.seq.scan = none) : s.scanning = false := by
  rw [State.scanning, h]
  rfl

/-! ### The header that is stored (R50 to R52) -/

theorem Trigger.waits_iff (g : Trigger) : g.waits = true ↔ g = .follow ∨ g = .withCue := by
  cases g <;> simp [Trigger.waits]

theorem keptMoves_eq (old : Option Cue) (keep : Bool) :
    keptMoves old keep = if keep then (old.map Cue.moves).getD [] else [] := by
  cases old <;> simp [keptMoves]

theorem Result.applied_iff {p : Prop} [Decidable p] {b : Bool} (h : b = true ↔ p) :
    Result.applied b = if p then .okClamped else .ok := by
  simp only [Result.applied, h]

theorem CuePut.clamped_iff (f : CuePut) (g : Trigger) : f.clamped g = true ↔
    (g = .follow ∨ g = .withCue) ∧ 600000 < f.wait ∨ g = .clock ∧ 5999999 < f.position := by
  simp [CuePut.clamped, g.waits_iff]

/-- The cue that a CUE_PUT with these fields stores in place of `old`. -/
def headerPut (n : Nat) (g : Trigger) (b : Timebase) (wait song position : Nat) (keep : Bool)
    (old : Option Cue) : Cue :=
  (CuePut.mk n g.code b.code wait song position keep).cue g b (keptMoves old keep)

/-- What a CUE_PUT with good fields does, check by check (R45, R46, R50 to R52). -/
theorem exec_cuePut {s : State} (h : s.Open) {n wait song position : Nat} {g : Trigger} (b : Timebase)
    (flags : Byte) (good : CuePutGood n g wait song position) :
    exec (.cuePut .own (cuePutBody n g b wait song position flags)) s = .next (
      let q := headerPut n g b wait song position (flags.getLsbD 0) (findCue s.cues n)
      if s.scanning then s.answeredBare 0x20 .busy
      else if s.editArmed n then s.answeredBare 0x20 .armed
      else if (findCue s.cues n).isNone && decide (512 ≤ s.cues.length) then s.answeredBare 0x20 .listFull
      else (s.setCues (putCue q s.cues)).heard.replying 0x20
        (if (g = .follow ∨ g = .withCue) ∧ 600000 < wait ∨ g = .clock ∧ 5999999 < position
          then .okClamped else .ok) (headerBytes q)) := by
  have fields : (!cueNumberOk n || (g == .clock && decide (99 < song))) = false := by
    obtain ⟨low, high, -, -, song, -⟩ := good
    simpa [cueNumberOk_eq_true.mpr ⟨low, high⟩] using song
  refine State.request_answers h (parseCuePut_body good b flags) ?_
  rw [serveCuePut, g.ofCode_code, b.ofCode_code]
  dsimp only
  rw [fields, Result.applied_iff (CuePut.clamped_iff _ g)]
  show State.enqueue (if s.scanning then _ else if s.editArmed n then _ else
    if (findCue s.cues n).isNone && decide (512 ≤ s.cues.length) then _ else _) 0x20 false = _
  repeat' split
  all_goals rfl

/-- Settles O20: the cue takes its place in the list with the header R52 gives it. -/
theorem cuePutStores : Obligations.CuePutStores := by
  intro s n wait song position g b flags h order good idle free room
  let q := headerPut n g b wait song position (flags.getLsbD 0) (findCue s.cues n)
  have fits : ((findCue s.cues n).isNone && decide (512 ≤ s.cues.length)) = false := by
    simpa using room
  have put := exec_cuePut h b flags good
  rw [State.scanning_of_none idle, State.editArmed_of_not free, fits] at put
  refine ⟨_, q, put, rfl, findCue_putCue_self q s.cues, ?_, fun k hk => findCue_putCue_ne q s.cues hk,
    Ascending.length_putCue order.1 q⟩
  simp only [q, headerPut, CuePut.cue, keptMoves_eq, g.waits_iff]

/-! ### Refusals (R45, R46, R49, R50) -/

/-- A field of a CUE_PUT that is bad is found before anything else (R50). -/
theorem serveCuePut_badField (f : CuePut) (b : Bool) (s : State)
    (bad : f.number = 0 ∨ 9999 < f.number ∨ 3 < f.trigger.toNat ∨ 1 < f.base.toNat ∨
      f.trigger.toNat = 3 ∧ 99 < f.song) : serveCuePut f b s = s.refuse .badField := by
  unfold serveCuePut
  split
  · rename_i g v hg hv
    obtain ⟨trigger, clock⟩ := Trigger.code_of_ofCode hg
    have base := Timebase.code_of_ofCode hv
    refine if_pos ?_
    rcases bad with bad | bad | bad | bad | ⟨code, bad⟩
    · simp [cueNumberOk, bad]
    · simp [cueNumberOk, bad]
    · omega
    · omega
    · simp [clock code, bad]
  · rfl

theorem cuePut_badField {s : State} (h : s.Open) {n : Nat} {trigger base song : Byte}
    {rest positions : List Byte} (flags : Byte) (hn : n < 65536) (hr : rest.length = 3)
    (hp : positions.length = 3) (bad : n = 0 ∨ 9999 < n ∨ 3 < trigger.toNat ∨ 1 < base.toNat ∨
      trigger.toNat = 3 ∧ 99 < song.toNat) :
    exec (.cuePut .own
        (bytesOf 2 n ++ [trigger, base] ++ rest ++ [song] ++ positions ++ [flags])) s =
      .next (s.answeredBare 0x20 .badField) := by
  obtain ⟨w2, w1, w0, rfl⟩ := List.length_eq_three.mp hr
  obtain ⟨p2, p1, p0, rfl⟩ := List.length_eq_three.mp hp
  refine State.request_answers h rfl ?_
  rw [serveCuePut_badField]
  · rfl
  · show natOf (bytesOf 2 n) = 0 ∨ 9999 < natOf (bytesOf 2 n) ∨ _
    rwa [natOf_bytesOf_two hn]

theorem cuePut_refused {s : State} (h : s.Open) {n wait song position : Nat} {g : Trigger} (b : Timebase)
    (flags : Byte) {r : Result} (good : CuePutGood n g wait song position)
    (why : r = .busy ∧ s.seq.scan ≠ none ∨ s.seq.scan = none ∧
      (r = .armed ∧ s.Armed n ∨
        r = .listFull ∧ ¬ s.Armed n ∧ findCue s.cues n = none ∧ 512 ≤ s.cues.length)) :
    exec (.cuePut .own (cuePutBody n g b wait song position flags)) s =
      .next (s.answeredBare 0x20 r) := by
  rw [exec_cuePut h b flags good]
  rcases why with ⟨rfl, scan⟩ | ⟨idle, ⟨rfl, armed⟩ | ⟨rfl, free, absent, full⟩⟩
  · rw [State.scanning_iff.mpr scan]
    rfl
  · rw [State.scanning_of_none idle, State.editArmed_iff.mpr armed]
    rfl
  · rw [State.scanning_of_none idle, State.editArmed_of_not free, absent, decide_eq_true full]
    rfl

end Sys2Proof.Machine
end

section
/-!
PROOF. MOVES_ADD: the entries read back, what they store, and the refusals in the order of their checks (R45,
R46, R49, R53, R54).
-/

namespace Sys2Proof.Machine

/-! ### The bytes of an entry -/

/-- Bits 1..0 of an entry's second byte (R197). -/
theorem toNat_and_three (k : Byte) : (k &&& 3).toNat = k.toNat % 4 := by
  rw [BitVec.toNat_and]
  exact Nat.and_two_pow_sub_one_eq_mod k.toNat 2

/-- Bits 4..2 of an entry's second byte (R197). -/
theorem toNat_shift_and_seven (k : Byte) : (k >>> 2 &&& 7).toNat = k.toNat / 4 % 8 := by
  rw [BitVec.toNat_and, BitVec.toNat_ushiftRight, Nat.shiftRight_eq_div_pow]
  exact Nat.and_two_pow_sub_one_eq_mod (k.toNat / 4) 3

theorem Action.code_le (a : Action) : a.code.toNat ≤ 2 := by cases a <;> decide

theorem Curve.code_le (c : Curve) : c.code.toNat ≤ 5 := by cases c <;> decide

theorem Timebase.code_le (b : Timebase) : b.code.toNat ≤ 1 := by cases b <;> decide

theorem Action.ofCode_code (a : Action) : Action.ofCode a.code = some a := by cases a <;> rfl

theorem Curve.ofCode_code (c : Curve) : Curve.ofCode c.code = some c := by cases c <;> rfl

/-- An entry's second byte carries the action, the curve and the timebase without mixing them. -/
theorem toNat_moveCodes (a : Action) (c : Curve) (b : Timebase) :
    (byte (a.code.toNat + 4 * c.code.toNat + 32 * b.code.toNat)).toNat =
      a.code.toNat + 4 * c.code.toNat + 32 * b.code.toNat := by
  have := a.code_le
  have := c.code_le
  have := b.code_le
  exact toNat_byte (by omega)

theorem intOf_int2 {v : Int} (low : -32768 ≤ v) (high : v < 32768) :
    intOf (BitVec.ofNat 8 ((v % 65536).toNat / 256 ^ 1))
      (BitVec.ofNat 8 ((v % 65536).toNat / 256 ^ 0)) = v := by
  have word := natOf_bytesOf_two (n := (v % 65536).toNat) (by omega)
  rw [show bytesOf 2 (v % 65536).toNat = [_, _] from rfl, natOf_pair] at word
  rw [intOf, BitVec.toInt_eq_toNat_cond, word]
  split <;> omega

/-! ### Entries of good moves -/

/-- The entry that a move's ten bytes stand for. -/
def StoredMove.entry (m : StoredMove) : MoveEntry :=
  { channel := byte (m.channel.val + 1), action := m.action.code, curve := m.curve.code
    target := m.target, delay := m.delay, duration := m.duration }

theorem parseEntries_moveBytes {m : StoredMove} (fits : m.Fits) (base : Timebase) (rest : List Byte) :
    parseEntries (moveBytes base m ++ rest) = (parseEntries rest).map (m.entry :: ·) := by
  obtain ⟨low, high, delay, duration⟩ := fits
  have codes := toNat_moveCodes m.action m.curve base
  have action := m.action.code_le
  have curve := m.curve.code_le
  have head : MoveEntry.mk (byte (m.channel.val + 1))
      (byte (m.action.code.toNat + 4 * m.curve.code.toNat + 32 * base.code.toNat) &&& 3)
      (byte (m.action.code.toNat + 4 * m.curve.code.toNat + 32 * base.code.toNat) >>> 2 &&& 7)
      (intOf (BitVec.ofNat 8 ((m.target % 65536).toNat / 256 ^ 1))
        (BitVec.ofNat 8 ((m.target % 65536).toNat / 256 ^ 0)))
      (natOf (bytesOf 3 m.delay)) (natOf (bytesOf 3 m.duration)) = m.entry := by
    rw [intOf_int2 low high, natOf_bytesOf_three delay, natOf_bytesOf_three duration, StoredMove.entry]
    congr 1
    · exact BitVec.eq_of_toNat_eq (by rw [toNat_and_three, codes]; omega)
    · exact BitVec.eq_of_toNat_eq (by rw [toNat_shift_and_seven, codes]; omega)
  rw [← head]
  show parseEntries (_ :: _ :: _ :: _ :: _ :: _ :: _ :: _ :: _ :: _ :: rest) = _
  rw [parseEntries]
  cases parseEntries rest <;> rfl

theorem parseEntries_flatMap {ms : List StoredMove} (fits : ∀ m ∈ ms, m.Fits) (base : Timebase)
    (rest : List Byte) : parseEntries (ms.flatMap (moveBytes base) ++ rest) =
      (parseEntries rest).map (ms.map StoredMove.entry ++ ·) := by
  induction ms with
  | nil => simp
  | cons m ms ih =>
    rw [List.flatMap_cons, List.append_assoc, parseEntries_moveBytes (fits m List.mem_cons_self),
      ih fun x hx => fits x (List.mem_cons_of_mem m hx), Option.map_map]
    rfl

theorem parseMovesAdd_of_entries {n : Nat} (hn : n < 65536) {body : List Byte} {es : List MoveEntry}
    (he : parseEntries body = some es) (low : 1 ≤ es.length) (high : es.length ≤ 24) :
    parseMovesAdd (bytesOf 2 n ++ body) = some ⟨n, es⟩ := by
  show parseMovesAdd (_ :: _ :: body) = _
  rw [parseMovesAdd, he]
  dsimp only
  rw [if_pos ⟨low, high⟩]
  exact congrArg (fun k => some (MovesAdd.mk k es)) (natOf_bytesOf_two hn)

theorem parseMovesAdd_moves {n : Nat} (hn : n < 65536) {ms : List StoredMove} (low : 1 ≤ ms.length)
    (high : ms.length ≤ 24) (fits : ∀ m ∈ ms, m.Fits) (base : Timebase) :
    parseMovesAdd (bytesOf 2 n ++ ms.flatMap (moveBytes base)) = some ⟨n, ms.map StoredMove.entry⟩ := by
  refine parseMovesAdd_of_entries hn ?_ (by simpa using low) (by simpa using high)
  have := parseEntries_flatMap fits base []
  rw [List.append_nil] at this
  rw [this]
  simp [parseEntries]

/-! ### What entries store (R53) -/

theorem StoredMove.entry_stored (m : StoredMove) : m.entry.stored = some m.kept := by
  unfold MoveEntry.stored StoredMove.entry StoredMove.kept
  dsimp only
  rw [chanOf_byte, Action.ofCode_code]
  obtain ⟨c, a, t, d, u, v⟩ := m
  cases a with
  | level =>
    dsimp only
    rw [Curve.ofCode_code]
    rfl
  | mute => rfl
  | unmute => rfl

theorem clampLevel_eq_self {v : Int} : clampLevel v = v ↔ -800 ≤ v ∧ v ≤ 100 := by
  unfold clampLevel clampInt
  omega

theorem StoredMove.entry_clamped (m : StoredMove) : m.entry.clamped = m.beyond := by
  unfold MoveEntry.clamped StoredMove.entry StoredMove.beyond
  dsimp only
  rw [Action.ofCode_code, Bool.eq_iff_iff]
  simp [clampLevel_eq_self]
  grind

theorem filterMap_entries (ms : List StoredMove) :
    (ms.map StoredMove.entry).filterMap MoveEntry.stored = ms.map StoredMove.kept := by
  induction ms with
  | nil => rfl
  | cons m ms ih => rw [List.map_cons, List.filterMap_cons_some m.entry_stored, ih, List.map_cons]

theorem badEntry_entries (k : Nat) (ms : List StoredMove) (rest : List MoveEntry) :
    badEntry k (ms.map StoredMove.entry ++ rest) = badEntry (k + ms.length) rest := by
  induction ms generalizing k with
  | nil => rfl
  | cons m ms ih =>
    rw [List.map_cons, List.cons_append, badEntry, m.entry_stored, Option.isNone_some,
      if_neg Bool.false_ne_true, ih, List.length_cons, Nat.add_assoc, Nat.add_comm 1]

theorem badEntry_entries_eq_zero (k : Nat) (ms : List StoredMove) :
    badEntry k (ms.map StoredMove.entry) = 0 := by
  rw [← List.append_nil (ms.map _), badEntry_entries]
  rfl

theorem StoredMove.kept_channel (m : StoredMove) : m.kept.channel = m.channel := by
  unfold StoredMove.kept
  split <;> rfl

/-- A move keeps its channel when it is stored, so storing moves crowds no other channel. -/
theorem crowdedAt_kept {held held' : List StoredMove} (same : namedMoves held = namedMoves held') (k : Nat)
    (ms : List StoredMove) : crowdedAt k held (ms.map StoredMove.kept) = crowdedAt k held' ms := by
  induction ms generalizing held held' k with
  | nil => rfl
  | cons m ms ih =>
    have more : namedMoves (held ++ [m.kept]) = namedMoves (held' ++ [m]) := by
      funext c
      rw [namedMoves_append, namedMoves_append, same]
      simp only [namedMoves, List.filter_cons, m.kept_channel, List.filter_nil]
      split <;> rfl
    rw [List.map_cons, crowdedAt, crowdedAt, m.kept_channel, same, ih more]

/-! ### MOVES_ADD, check by check (R45, R53, R54) -/

/-- A MOVES_ADD heard and refused with the counts as they stand (log entry 8). -/
def State.refusedAdd (s : State) (r : Result) (n position : Nat) : State :=
  s.heard.replying 0x21 r ([byte position, byte (s.movesHeld n)] ++ bytesOf 2 (poolFree s.cues))

theorem movesAddReply_eq (s : State) (n position : Nat) :
    movesAddReply s n position = [byte position, byte (s.movesHeld n)] ++ bytesOf 2 (poolFree s.cues) := by
  unfold movesAddReply State.movesHeld
  cases findCue s.cues n <;> rfl

theorem enqueue_refuseAdd (s : State) (r : Result) (n position : Nat) :
    State.enqueue (s.heard.refuseAdd r n position) 0x21 false = s.refusedAdd r n position := by
  rw [State.refuseAdd, movesAddReply_eq]
  rfl

theorem serveMovesAdd_badNumber {n : Nat} (hn : n = 0 ∨ 9999 < n) (es : List MoveEntry) (b : Bool)
    (s : State) : serveMovesAdd ⟨n, es⟩ b s = s.refuseAdd .badField n 0 :=
  if_pos (by simpa [cueNumberOk, Nat.lt_iff_add_one_le] using hn)

theorem serveMovesAdd_badEntry {n : Nat} (low : 1 ≤ n) (high : n ≤ 9999) {es : List MoveEntry}
    (bad : badEntry 1 es ≠ 0) (b : Bool) (s : State) :
    serveMovesAdd ⟨n, es⟩ b s = s.refuseAdd .badField n (badEntry 1 es) := by
  unfold serveMovesAdd
  dsimp only
  rw [cueNumberOk_eq_true.mpr ⟨low, high⟩, if_neg (by decide), if_pos bad]

/-- What a MOVES_ADD of good moves to a cue number does while a scan is in flight, and without such a
cue. -/
theorem serveMovesAdd_absent {s : State} {n : Nat} (low : 1 ≤ n) (high : n ≤ 9999) (ms : List StoredMove)
    (b : Bool) (absent : s.scanning = true ∨ findCue s.cues n = none) :
    serveMovesAdd ⟨n, ms.map StoredMove.entry⟩ b s =
      s.refuseAdd (if s.scanning then .busy else .noCue) n 0 := by
  unfold serveMovesAdd
  dsimp only
  rw [cueNumberOk_eq_true.mpr ⟨low, high⟩, if_neg (by decide), badEntry_entries_eq_zero,
    if_neg (fun h => h rfl)]
  split
  · rfl
  · rename_i idle
    rw [absent.resolve_left idle]

/-- What a MOVES_ADD of good moves to a cue of the list does, check by check. -/
theorem serveMovesAdd_found {s : State} {n : Nat} (low : 1 ≤ n) (high : n ≤ 9999)
    (idle : s.seq.scan = none) {q : Cue} (found : findCue s.cues n = some q) (ms : List StoredMove) (b : Bool) :
    serveMovesAdd ⟨n, ms.map StoredMove.entry⟩ b s =
      let t := s.setCues (putCue { q with moves := q.moves ++ ms.map StoredMove.kept } s.cues)
      if s.editArmed n then s.refuseAdd .armed n 0
      else if 64 < q.moves.length + ms.length then s.refuseAdd .cueFull n (65 - q.moves.length)
      else if crowdedAt 1 q.moves ms ≠ 0 then s.refuseAdd .channelCrowded n (crowdedAt 1 q.moves ms)
      else if poolFree s.cues < ms.length then s.refuseAdd .poolFull n (poolFree s.cues + 1)
      else t.reply (if ms.any StoredMove.beyond then .okClamped else .ok) (movesAddReply t n 0) := by
  have beyond : (ms.map StoredMove.entry).any MoveEntry.clamped = ms.any StoredMove.beyond := by
    rw [List.any_map]
    exact congrArg ms.any (funext StoredMove.entry_clamped)
  unfold serveMovesAdd
  dsimp only
  rw [cueNumberOk_eq_true.mpr ⟨low, high⟩, if_neg (by decide), badEntry_entries_eq_zero,
    if_neg (fun h => h rfl),
    State.scanning_of_none idle, if_neg (by decide), found, filterMap_entries, beyond]
  dsimp only
  rw [crowdedAt_kept rfl, List.length_map]
  rfl

/-- Settles O21: no check stops the moves, and the cue takes its place with them behind its own. -/
theorem movesAddAppends : Obligations.MovesAddAppends := by
  intro s n q ms h low high idle found free order nonempty most room pool named fits
  have crowded : crowdedAt 1 q.moves ms = 0 := by
    refine (crowdedAt_eq_zero Nat.one_ne_zero).mpr fun l m more e => ?_
    have total := named m.channel
    have one : namedMoves [m] m.channel = 1 := by simp [namedMoves]
    rw [e, List.append_cons, ← List.append_assoc, ← List.append_assoc, namedMoves_append, namedMoves_append,
      one] at total
    omega
  have number : q.number = n := findCue_number found
  let p : Cue := { q with moves := q.moves ++ ms.map StoredMove.kept }
  have put : findCue (putCue p s.cues) n = some p := by
    rw [← number]
    exact findCue_putCue_self p s.cues
  have held : (s.setCues (putCue p s.cues)).movesHeld n = q.moves.length + ms.length := by
    rw [State.movesHeld, show (s.setCues (putCue p s.cues)).cues = putCue p s.cues from rfl, put]
    simp [p]
  refine ⟨_, State.request_answers h (parseMovesAdd_moves (by omega) nonempty most fits q.base) rfl, ?_⟩
  rw [serveMovesAdd_found (s := s.heard) low high idle found,
    if_neg (ne_true_of_eq_false (State.editArmed_of_not (s := s.heard) free)), if_neg (by omega), crowded,
    if_neg (by decide), if_neg (by exact pool.not_gt), movesAddReply_eq]
  refine ⟨?_, put, fun k hk => findCue_putCue_ne p s.cues (by rwa [show p.number = n from number])⟩
  rw [← held]
  rfl

end Sys2Proof.Machine
end

section
/-!
PROOF. The refusals of MOVES_ADD, CUE_DELETE and LIST_CLEAR, and what CUE_DELETE and LIST_CLEAR remove (R45 to
R47, R53 to R56).
-/

namespace Sys2Proof.Machine

/-! ### An entry that fails a field check (R53) -/

theorem parseEntries_entry {tail : List Byte} (h : tail.length = 8) (c k : Byte) (rest : List Byte) :
    ∃ e : MoveEntry, e.channel = c ∧ e.action = k &&& 3 ∧ e.curve = k >>> 2 &&& 7 ∧
      parseEntries (c :: k :: tail ++ rest) = (parseEntries rest).map (e :: ·) := by
  match tail, h with
  | [t1, t0, d2, d1, d0, u2, u1, u0], _ =>
    refine ⟨⟨c, k &&& 3, k >>> 2 &&& 7, intOf t1 t0, natOf [d2, d1, d0], natOf [u2, u1, u0]⟩,
      rfl, rfl, rfl, ?_⟩
    simp only [List.cons_append, List.nil_append, parseEntries]
    cases parseEntries rest <;> rfl

/-- Whole entries are read, whatever they say. -/
theorem parseEntries_whole {rest : List Byte} {j : Nat} (h : rest.length = 10 * j) :
    ∃ es, parseEntries rest = some es ∧ es.length = j := by
  induction j generalizing rest with
  | zero => exact ⟨[], by rw [List.length_eq_zero_iff.mp h]; rfl, rfl⟩
  | succ j ih =>
    match rest, h with
    | c :: k :: more, h =>
      simp only [List.length_cons] at h
      obtain ⟨es, parsed, count⟩ := ih (rest := more.drop 8) (by rw [List.length_drop]; omega)
      obtain ⟨e, -, -, -, entry⟩ := parseEntries_entry (tail := more.take 8)
        (by rw [List.length_take]; omega) c k (more.drop 8)
      rw [List.cons_append, List.cons_append, List.take_append_drop, parsed] at entry
      exact ⟨e :: es, entry, congrArg Nat.succ count⟩

theorem Action.ofCode_eq_none {b : Byte} (h : 2 < b.toNat) : Action.ofCode b = none := by
  unfold Action.ofCode
  split
  case h_4 => rfl
  all_goals omega

theorem Curve.ofCode_eq_none {b : Byte} (h : 5 < b.toNat) : Curve.ofCode b = none := by
  unfold Curve.ofCode
  split
  case h_7 => rfl
  all_goals omega

/-- A channel, an action or, for a LEVEL move, a curve that no move has. -/
theorem MoveEntry.stored_eq_none {e : MoveEntry} (h : e.channel.toNat = 0 ∨ 56 < e.channel.toNat ∨
    e.action.toNat = 3 ∨ e.action.toNat = 0 ∧ 5 < e.curve.toNat) : e.stored = none := by
  unfold MoveEntry.stored
  rcases or_assoc.mpr h with channel | action | ⟨level, curve⟩
  · rw [chanOf_eq_none.mpr channel]
  · rw [Action.ofCode_eq_none (by omega)]
    cases chanOf e.channel <;> rfl
  · rw [show Action.ofCode e.action = some .level by simp [Action.ofCode, level], Curve.ofCode_eq_none curve]
    cases chanOf e.channel <;> rfl

/-- A bad entry is found before any state is looked at, but after the cue number (log entry 8). -/
theorem movesAdd_badEntry {s : State} (h : s.Open) {n j : Nat} {ms : List StoredMove} (base : Timebase)
    {c k : Byte} {tail rest : List Byte} (hn : n < 65536) (fits : ∀ m ∈ ms, m.Fits) (ht : tail.length = 8)
    (hr : rest.length = 10 * j) (most : ms.length + 1 + j ≤ 24)
    (bad : c.toNat = 0 ∨ 56 < c.toNat ∨ k.toNat % 4 = 3 ∨ k.toNat % 4 = 0 ∧ 5 < k.toNat / 4 % 8) :
    exec (.movesAdd .own (bytesOf 2 n ++ ms.flatMap (moveBytes base) ++ (c :: k :: tail ++ rest))) s =
      .next (s.refusedAdd .badField n (if n = 0 ∨ 9999 < n then 0 else ms.length + 1)) := by
  obtain ⟨es, restParsed, count⟩ := parseEntries_whole hr
  obtain ⟨e, rfl, action, curve, entry⟩ := parseEntries_entry ht c k rest
  have unstored : e.stored = none := MoveEntry.stored_eq_none (by
    rwa [action, curve, toNat_and_three, toNat_shift_and_seven])
  have first : badEntry 1 (ms.map StoredMove.entry ++ e :: es) = ms.length + 1 := by
    rw [badEntry_entries, badEntry, unstored, Option.isNone_none, if_pos rfl, Nat.add_comm]
  have parsed : parseEntries (ms.flatMap (moveBytes base) ++ (e.channel :: k :: tail ++ rest)) =
      some (ms.map StoredMove.entry ++ e :: es) := by
    rw [parseEntries_flatMap fits, entry, restParsed]
    rfl
  rw [List.append_assoc]
  refine State.request_answers h (parseMovesAdd_of_entries hn parsed (by simp; omega) (by simp; omega)) ?_
  split
  case isTrue number => rw [serveMovesAdd_badNumber number, enqueue_refuseAdd]
  case isFalse number =>
    rw [serveMovesAdd_badEntry (by omega) (by omega) (first ▸ Nat.succ_ne_zero _), first, enqueue_refuseAdd]

/-! ### Good moves refused (R45, R46, R49, R53, R54) -/

/-- A refusal reaches the link with the counts as they stand. -/
theorem movesAdd_refused {s : State} (h : s.Open) {n : Nat} {ms : List StoredMove} (base : Timebase)
    {r : Result} {position : Nat} (hn : n < 65536) (nonempty : 1 ≤ ms.length) (most : ms.length ≤ 24)
    (fits : ∀ m ∈ ms, m.Fits)
    (why : ∀ b, serveMovesAdd ⟨n, ms.map StoredMove.entry⟩ b s.heard = s.heard.refuseAdd r n position) :
    exec (.movesAdd .own (bytesOf 2 n ++ ms.flatMap (moveBytes base))) s =
      .next (s.refusedAdd r n position) := by
  refine State.request_answers h (parseMovesAdd_moves hn nonempty most fits base) ?_
  rw [why, enqueue_refuseAdd]

/-- The refusals of good moves to a cue of the list, in the order of their checks. -/
theorem serveMovesAdd_refused {s : State} {n : Nat} {ms : List StoredMove} {r : Result} {position : Nat}
    (low : 1 ≤ n) (high : n ≤ 9999) (idle : s.seq.scan = none) {q : Cue} (found : findCue s.cues n = some q)
    (b : Bool)
    (why : r = .armed ∧ position = 0 ∧ s.Armed n ∨ ¬ s.Armed n ∧
      (r = .cueFull ∧ 64 < q.moves.length + ms.length ∧ position = 65 - q.moves.length ∨
        q.moves.length + ms.length ≤ 64 ∧
          ((r = .channelCrowded ∧ ∃ l m more, ms = l ++ m :: more ∧ position = l.length + 1 ∧
              4 ≤ namedMoves (q.moves ++ l) m.channel ∧ ∀ l' m' more', l = l' ++ m' :: more' →
                namedMoves (q.moves ++ l') m'.channel < 4) ∨
            r = .poolFull ∧ position = poolFree s.cues + 1 ∧ poolFree s.cues < ms.length ∧
              ∀ l m more, ms = l ++ m :: more → namedMoves (q.moves ++ l) m.channel < 4))) :
    serveMovesAdd ⟨n, ms.map StoredMove.entry⟩ b s = s.refuseAdd r n position := by
  rw [serveMovesAdd_found low high idle found]
  dsimp only
  rcases why with ⟨rfl, rfl, armed⟩ | ⟨free, why⟩
  · rw [if_pos (State.editArmed_iff.mpr armed)]
  rw [if_neg (mt State.editArmed_iff.mp free)]
  rcases why with ⟨rfl, full, rfl⟩ | ⟨room, ⟨rfl, l, m, more, rfl, rfl, full, before⟩ |
    ⟨rfl, rfl, full, uncrowded⟩⟩
  · rw [if_pos full]
  · have crowded := crowdedAt_first (more := more) 1 full before
    rw [if_neg room.not_gt, if_pos (by omega), crowded, Nat.add_comm]
  · rw [if_neg room.not_gt, (crowdedAt_eq_zero Nat.one_ne_zero).mpr uncrowded, if_neg (fun h => h rfl),
      if_pos full]

/-! ### CUE_DELETE and LIST_CLEAR (R47, R55, R56) -/

theorem cueNumberOk_eq_false {n : Nat} (h : n = 0 ∨ 9999 < n) : cueNumberOk n = false := by
  unfold cueNumberOk
  exact decide_eq_false (by omega)

theorem State.heard_deleteCue (s : State) (n : Nat) : s.heard.deleteCue n = (s.deleteCue n).heard := by
  show (if s.seq.next = some n ∧ (s.seq.state = .running ∨ s.seq.state = .hold) then _ else _) =
    State.heard (ite _ _ _)
  split <;> rfl

/-- What a CUE_DELETE does, check by check. -/
theorem exec_cueDelete {s : State} (h : s.Open) {n : Nat} (hn : n < 65536) :
    exec (.cueDelete .own (bytesOf 2 n)) s = .next (
      let t := s.deleteCue n
      if !cueNumberOk n then s.answeredBare 0x22 .badField
      else if s.scanning then s.answeredBare 0x22 .busy
      else if (findCue s.cues n).isNone then s.answeredBare 0x22 .noCue
      else if s.editArmed n then s.answeredBare 0x22 .armed
      else t.heard.replying 0x22 .ok
        (bytesOf 2 (poolFree t.cues) ++ cueField t.seq.next ++ cueField t.seq.standing)) := by
  refine State.request_answers h (parseNumber_bytesOf hn) ?_
  show State.enqueue (if !cueNumberOk n then _ else if s.scanning then _ else
    if (findCue s.cues n).isNone then _ else if s.editArmed n then _ else
      (s.heard.deleteCue n).reply .ok _) 0x22 false = _
  rw [s.heard_deleteCue]
  repeat' split
  all_goals rfl

theorem cueDelete_refused {s : State} (h : s.Open) {n : Nat} {r : Result} (hn : n < 65536)
    (why : r = .badField ∧ (n = 0 ∨ 9999 < n) ∨ 1 ≤ n ∧ n ≤ 9999 ∧
      (r = .busy ∧ s.seq.scan ≠ none ∨ s.seq.scan = none ∧
        (r = .noCue ∧ findCue s.cues n = none ∨ r = .armed ∧ findCue s.cues n ≠ none ∧ s.Armed n))) :
    exec (.cueDelete .own (bytesOf 2 n)) s = .next (s.answeredBare 0x22 r) := by
  rw [exec_cueDelete h hn]
  rcases why with ⟨rfl, bad⟩ | ⟨low, high, why⟩
  · rw [cueNumberOk_eq_false bad]
    rfl
  rw [cueNumberOk_eq_true.mpr ⟨low, high⟩]
  rcases why with ⟨rfl, scan⟩ | ⟨idle, ⟨rfl, absent⟩ | ⟨rfl, found, armed⟩⟩
  · rw [State.scanning_iff.mpr scan]
    rfl
  · rw [State.scanning_of_none idle, absent]
    rfl
  · rw [State.scanning_of_none idle, Option.isNone_eq_false_iff.mpr (Option.isSome_iff_ne_none.mpr found),
      State.editArmed_iff.mpr armed]
    rfl

/-- What a LIST_CLEAR does, check by check. -/
theorem exec_listClear {s : State} (h : s.Open) : exec (.listClear .own []) s = .next (
    if s.scanning then s.answeredBare 0x23 .busy
    else if s.seq.state = .edit then
      ((s.setCues []).setSeq { s.seq with next := none, standing := none }).heard.replying 0x23 .ok []
    else s.answeredBare 0x23 .wrongState) := by
  refine State.request_answers (f := ()) h rfl ?_
  show State.enqueue (if s.scanning then _ else if s.seq.state = .edit then _ else _) 0x23 false = _
  repeat' split
  all_goals rfl

/-- Settles O23: each check is met on the state as it stands, and a refusal is a reply alone. -/
theorem editsRefused : Obligations.EditsRefused := by
  refine fun s h => ⟨fun _ _ _ _ _ _ flags hn hr hp => cuePut_badField h flags hn hr hp,
    fun _ _ _ _ _ b flags _ => cuePut_refused h b flags, fun _ _ => cueDelete_refused h,
    fun scan => ?_, fun idle show_ => ?_,
    fun _ _ _ base _ _ _ _ => movesAdd_badEntry h base,
    fun n ms base r position hn nonempty most fits why =>
      movesAdd_refused h base hn nonempty most fits fun b => ?_⟩
  · rw [exec_listClear h, if_pos (State.scanning_iff.mpr scan)]
  · rw [exec_listClear h, State.scanning_of_none idle, if_neg Bool.false_ne_true, if_neg show_]
  · rcases why with ⟨rfl, rfl, bad⟩ | ⟨low, high, why⟩
    · exact serveMovesAdd_badNumber bad _ b _
    rcases why with ⟨rfl, rfl, scan⟩ | ⟨idle, ⟨rfl, rfl, absent⟩ | ⟨q, found, why⟩⟩
    · rw [serveMovesAdd_absent (s := s.heard) low high ms b (.inl (State.scanning_iff.mpr scan)),
        State.scanning_iff (s := s.heard) |>.mpr scan]
      rfl
    · rw [serveMovesAdd_absent (s := s.heard) low high ms b (.inr absent),
        State.scanning_of_none (s := s.heard) idle]
      rfl
    · exact serveMovesAdd_refused (s := s.heard) low high idle found b why

/-! ### What is removed (R47, R55, R56) -/

theorem State.clockArm_eq_empty {s : State} (h : s.nextCue = none) : s.clockArm = .empty := by
  rw [State.clockArm, h]

theorem State.clockArm_eq {s : State} {q : Cue} (h : s.nextCue = some q) :
    s.clockArm = if q.trigger = .clock then .clock q.song q.position else .empty := by
  rw [State.clockArm, h]

/-- The playhead and the list without cue `n`, before the arm is set for a new next cue (R47). -/
def State.without (s : State) (n : Nat) : State := (s.playheadWithout n).setCues (removeCue s.cues n)

/-- What a deletion writes: the list, the playhead, and the arm where next moves in SHOW and HOLD (R47,
R55). -/
theorem State.deleteCue_writes (s : State) (n : Nat) : ∃ arm point,
    s.deleteCue n = ((s.without n).setSeq { (s.without n).seq with arm }).setClock { s.clock with point } ∧
      (s.seq.next ≠ some n ∨ s.seq.state = .edit ∨ s.seq.state = .safe →
        arm = s.seq.arm ∧ point = s.clock.point) ∧
      (s.seq.next = some n → s.seq.state = .running ∨ s.seq.state = .hold →
        arm = (s.without n).clockArm ∧ point = arm.point) := by
  by_cases moved : s.seq.next = some n ∧ (s.seq.state = .running ∨ s.seq.state = .hold)
  · refine ⟨_, _, if_pos moved, fun kept => ?_, fun _ _ => ⟨rfl, rfl⟩⟩
    rcases kept with other | state | state <;> simp_all
  · exact ⟨s.seq.arm, s.clock.point, if_neg moved, fun _ => ⟨rfl, rfl⟩,
      fun next live => absurd ⟨next, live⟩ moved⟩

/-- Settles O22: the deletion and the clearing pass their checks. -/
theorem cuesRemoved : Obligations.CuesRemoved := by
  refine ⟨fun s n q h low high idle found free => ?_, fun s h idle edit => ?_⟩
  · have taken := exec_cueDelete h (n := n) (by omega)
    obtain ⟨arm, point, writes, kept, rearmed⟩ := s.deleteCue_writes n
    rw [cueNumberOk_eq_true.mpr ⟨low, high⟩, State.scanning_of_none idle, found,
      State.editArmed_of_not free, writes] at taken
    refine ⟨_, taken, rfl, findCue_removeCue_self s.cues n, fun _ => findCue_removeCue_ne s.cues, rfl, rfl,
      rfl, fun h => ?_, fun next live => ?_⟩
    · obtain ⟨rfl, rfl⟩ := kept h
      exact ⟨rfl, rfl⟩
    · obtain ⟨rfl, rfl⟩ := rearmed next live
      exact ⟨rfl, State.clockArm_eq_empty (s := s.without n), fun _ => State.clockArm_eq (s := s.without n)⟩
  · rw [exec_listClear h, State.scanning_of_none idle, if_neg Bool.false_ne_true, if_pos edit]

end Sys2Proof.Machine
end

section
/-!
PROOF. BACK from the link and from the contact (R80, R85, R152, R153), and the neighbours of a cue number on the
list (R42, R67).
-/

namespace Sys2Proof.Machine

/-! ### What a BACK does, case by case (R80, R85) -/

theorem State.back_refused {s : State} {r : Result} (why : r = .busy ∧ s.seq.scan ≠ none ∨
    r = .wrongState ∧ s.seq.scan = none ∧ (s.seq.state = .edit ∨ s.seq.state = .safe)) :
    s.back = (s, r) := by
  unfold State.back
  rcases why with ⟨rfl, scan⟩ | ⟨rfl, idle, still⟩
  · rw [if_pos (State.scanning_iff.mpr scan)]
  · rw [State.scanning_of_none idle, if_neg Bool.false_ne_true, if_pos still]

theorem ShowState.not_still {a : ShowState} (h : a = .running ∨ a = .hold) :
    ¬ (a = .edit ∨ a = .safe) := by
  rcases h with rfl | rfl <;> decide

section
variable {s : State} (idle : s.seq.scan = none) (live : s.seq.state = .running ∨ s.seq.state = .hold)
include idle live

theorem State.back_end (none_before : s.backTarget = none) :
    s.back = (s.raise .endOfList, .endOfList) := by
  rw [State.back, State.scanning_of_none idle, if_neg Bool.false_ne_true,
    if_neg (ShowState.not_still live), none_before]

theorem State.back_moves {n : Nat} {q : Cue} (target : s.backTarget = some n)
    (found : findCue s.cues n = some q) {arm : Arm}
    (harm : arm = if q.trigger = .clock then .clock q.song q.position else .empty) : s.back =
    ((s.setSeq { s.seq with next := some n, arm, crossed := none }).setClock
      { s.clock with point := arm.point }, .ok) := by
  rw [State.back, State.scanning_of_none idle, if_neg Bool.false_ne_true,
    if_neg (ShowState.not_still live), target, harm,
    ← State.clockArm_eq (s := s.setSeq { s.seq with next := some n, crossed := none }) found]
  rfl

end

theorem State.backTarget_eq_some {s : State} {n : Nat} : s.backTarget = some n ↔
    s.seq.next = none ∧ lastCue s.cues = some n ∨
      ∃ k, s.seq.next = some k ∧ cueBefore s.cues k = some n := by
  unfold State.backTarget
  cases s.seq.next <;> simp

theorem State.backTarget_eq_none {s : State} : s.backTarget = none ↔
    s.seq.next = none ∧ s.cues = [] ∨ ∃ k, s.seq.next = some k ∧ cueBefore s.cues k = none := by
  unfold State.backTarget
  cases s.seq.next <;> simp [lastCue_eq_none]

/-! ### Its two sources -/

theorem exec_back {s t : State} (h : s.Open) {r : Result} (back : s.heard.back = (t, r)) :
    exec (.back .own []) s = .next (t.replying 0x33 r (cueField t.seq.next)) :=
  State.request_answers (f := ()) h rfl (by rw [serveBack, back]; rfl)

theorem exec_contactBackPress {s t : State} (awake : s.resetLow = false)
    (released : (s.contact .cback).qualified = false) {r : Result}
    (back : (s.contactChanged .cback true).back = (t, r)) :
    exec .contactBackPress s = .next (t.judgedPress r) := by
  show Host.Outcome.next (s.press .cback State.contactBack) = _
  rw [State.press, awake, released, Bool.or_false, if_neg Bool.false_ne_true, State.contactBack, back]

theorem State.contactChanged_qualified (s : State) (l : ContactLine) (active : Bool) :
    ((s.contactChanged l active).contact l).qualified = active := by
  simp [State.contact, State.contactChanged]

/-- Settles O30: the list's own facts, and each case of BACK from either source. -/
theorem backMoves : Obligations.BackMoves := by
  refine ⟨fun s n ⟨order, _⟩ => ⟨fun k => cueBefore_eq_some order, cueBefore_eq_none,
      fun k => cueAfter_eq_some order, cueAfter_eq_none, fun k => firstCue_eq_some order, firstCue_eq_none,
      fun k => lastCue_eq_some order, lastCue_eq_none, fun q => findCue_eq_some order⟩,
    fun s idle live => ⟨fun n q found target arm harm t ht => ?_, fun ended => ?_⟩, fun s r why => ?_⟩
  · replace target := State.backTarget_eq_some.mpr target
    subst ht
    refine ⟨fun h => exec_back h (State.back_moves (s := s.heard) idle live target found harm),
      fun awake released => ⟨_, exec_contactBackPress awake released
        (State.back_moves (s := s.contactChanged .cback true) idle live target found harm), rfl, rfl, ?_⟩⟩
    exact s.contactChanged_qualified .cback true
  · replace ended := State.backTarget_eq_none.mpr ended
    refine ⟨fun h => exec_back h (State.back_end (s := s.heard) idle live ended),
      fun awake released => ⟨_, exec_contactBackPress awake released
        (State.back_end (s := s.contactChanged .cback true) idle live ended), rfl, rfl, ?_, ?_⟩⟩
    · exact State.ended_raised _
    · exact State.raise_raised _ _
  · refine ⟨fun h => exec_back h (State.back_refused (s := s.heard) why), fun awake released =>
      ⟨_, exec_contactBackPress awake released
        (State.back_refused (s := s.contactChanged .cback true) why), ?_⟩⟩
    have counted : r ≠ .ok := by rcases why with ⟨rfl, -⟩ | ⟨rfl, -⟩ <;> decide
    rw [State.judgedPress, if_neg counted]
    exact ⟨rfl, rfl, s.contactChanged_qualified .cback true⟩

end Sys2Proof.Machine
end

section
/-!
PROOF. The relation that every command keeps between the clock, the queues and the pending lists before and
after it: the clock's figures in their ranges and its point the arm's, the tables, queues and replies within
their sizes, the pending lists in order (R71, R76, R86, R91, R93, R113, R123, R126, R179, R180). It holds of
each operation on the show and of the resets.
-/

namespace Sys2Proof.Machine

/-- What an operation keeps of the clock, the queues and the pending lists. The list in order is what the
pending lists of a firing rest on, and the sizes of the queues what the replies rest on. -/
structure State.KeepsQueues (s t : State) : Prop where
  order : s.ListInOrder → t.ListInOrder
  clock : s.ClockInRange → t.ClockInRange
  point : s.PointMatches → t.PointMatches
  fit : s.QueuesFit → t.QueuesFit
  pending : s.ListInOrder → s.PendingKept → t.PendingKept
  replies : s.QueuesFit → s.RepliesFit → t.RepliesFit

theorem State.KeepsQueues.refl (s : State) : s.KeepsQueues s := ⟨id, id, id, id, fun _ => id, fun _ => id⟩

theorem State.KeepsQueues.trans {s t u : State} (h : s.KeepsQueues t) (k : t.KeepsQueues u) :
    s.KeepsQueues u where
  order := k.order ∘ h.order
  clock := k.clock ∘ h.clock
  point := k.point ∘ h.point
  fit := k.fit ∘ h.fit
  pending o := k.pending (h.order o) ∘ h.pending o
  replies f := k.replies (h.fit f) ∘ h.replies f

theorem State.KeepsQueues.foldl {α : Type} (f : State → α → State)
    (h : ∀ (t : State) (a : α), t.KeepsQueues (f t a)) (l : List α) (s : State) :
    s.KeepsQueues (l.foldl f s) :=
  foldl_closed f (fun t a ht => ht.trans (h t a)) l s (refl s)

/-! ### Pending lists (R91, R93) -/

/-- Moves that leave a pending list leave it in order. -/
theorem Channel.ListKept.fewer {r q : Channel} (h : r.ListKept) (k : q.waiting.Sublist r.waiting) :
    q.ListKept := ⟨k.length_le.trans h.1, h.2.sublist k⟩

/-- A pending list whose delays have fallen, the order among them kept. -/
theorem Channel.ListKept.later {r q : Channel} (h : r.ListKept) {f : PendingMove → PendingMove}
    (keeps : ∀ p, (f p).firing = p.firing ∧ (f p).base = p.base)
    (falls : ∀ p q : PendingMove, p.delay ≤ q.delay → (f p).delay ≤ (f q).delay)
    (k : q.waiting.Sublist (r.waiting.map f)) : q.ListKept := by
  refine ⟨k.length_le.trans (by simpa using h.1), List.Pairwise.sublist k (List.pairwise_map.mpr ?_)⟩
  refine h.2.imp fun {p q} ⟨delay, firing, base⟩ => ⟨falls p q delay, ?_, ?_⟩
  · rw [(keeps p).1, (keeps q).1, firing]
  · rw [(keeps p).2, (keeps q).2, base]

/-- No pending list of `t` holds a move more than it does in `s`. -/
def State.Fewer (s t : State) : Prop := ∀ c, (t.chan c).waiting.Sublist (s.chan c).waiting

theorem State.Fewer.of_chan {s t : State} (h : t.chan = s.chan) : s.Fewer t := fun c => by rw [h]

theorem State.Fewer.trans {s t u : State} (h : s.Fewer t) (k : t.Fewer u) : s.Fewer u :=
  fun c => (k c).trans (h c)

theorem State.Fewer.pending {s t : State} (h : s.Fewer t) (k : s.PendingKept) : t.PendingKept :=
  fun c => (k c).fewer (h c)

/-- What touches one channel alone takes moves out of that channel's list alone. -/
theorem State.Fewer.of_one {s t : State} (c : Chan) (other : ∀ d, c ≠ d → t.chan d = s.chan d)
    (own : (t.chan c).waiting.Sublist (s.chan c).waiting) : s.Fewer t := by
  intro d
  by_cases e : c = d
  · exact e ▸ own
  · rw [other d e]

theorem State.Fewer.setChan (s : State) (c : Chan) {r : Channel}
    (h : r.waiting.Sublist (s.chan c).waiting) : s.Fewer (s.setChan c r) :=
  of_one c (fun _ e => s.setChan_chan_ne r e) (by rwa [State.setChan_chan_self])

theorem State.Fewer.startDue (n : Nat) (s : State) (c : Chan) : s.Fewer (State.startDue n s c) :=
  of_one c (fun _ e => s.startDue_other n e) (s.startDue_waiting n c).sublist

theorem State.Fewer.startLevel (s : State) (c : Chan) (target : Int) (duration : Nat) (curve : Curve)
    (base : Timebase) (owner : Owner) : s.Fewer (s.startLevel c target duration curve base owner) := by
  refine of_one c (fun _ e => s.startLevel_other target duration curve base owner e) ?_
  unfold State.startLevel
  dsimp only
  split <;> simp

theorem State.Fewer.completeMove (s : State) (c : Chan) : s.Fewer (s.completeMove c) := by
  unfold State.completeMove
  split
  · exact of_chan rfl
  · intro d
    rw [State.reportEnd_chan]
    exact setChan s c (r := { s.chan c with level := _, active := none }) (.refl _) d

theorem State.Fewer.clearShow (s : State) : s.Fewer s.clearShow := fun c => by
  rw [s.clearShow_chan c]
  exact List.nil_sublist _

theorem State.Fewer.makeRoom (s : State) : s.Fewer s.makeRoom := fun c => by
  rw [s.makeRoom_chan c]
  unfold State.channelKept
  repeat' split
  · exact .refl _
  · exact .refl _
  · exact List.filter_sublist

/-! ### The list of a firing (R91 to R93) -/

theorem insertMove_length (p : PendingMove) (l : List PendingMove) :
    (insertMove p l).length = l.length + 1 := by
  induction l with
  | nil => rfl
  | cons q l ih =>
    unfold insertMove
    split
    · rfl
    · rw [List.length_cons, ih, List.length_cons]

/-- A move takes its place among moves in ascending order of delay. -/
theorem insertMove_ascending (p : PendingMove) {l : List PendingMove}
    (h : l.Pairwise fun a b => a.delay ≤ b.delay) :
    (insertMove p l).Pairwise fun a b => a.delay ≤ b.delay := by
  induction l with
  | nil => exact List.pairwise_singleton _ p
  | cons q l ih =>
    obtain ⟨first, rest⟩ := List.pairwise_cons.mp h
    unfold insertMove
    split
    · rename_i earlier
      refine List.pairwise_cons.mpr ⟨fun x hx => ?_, h⟩
      rcases List.mem_cons.mp hx with rfl | hx
      · exact earlier.le
      · exact earlier.le.trans (first x hx)
    · rename_i later
      refine List.pairwise_cons.mpr ⟨fun x hx => ?_, ih rest⟩
      rcases mem_insertMove.mp hx with rfl | hx
      · exact Nat.le_of_not_lt later
      · exact first x hx

theorem pendingFor_length (cue : Cue) (id : Nat) (c : Chan) :
    (pendingFor cue id c).length = (cue.moves.filter fun m => m.channel == c).length := by
  have all (l m : List PendingMove) : (l.foldl (fun l p => insertMove p l) m).length = m.length + l.length := by
    induction l generalizing m with
    | nil => rfl
    | cons p l ih => rw [List.foldl_cons, ih, insertMove_length, List.length_cons]; omega
  rw [pendingFor, all, List.length_nil, List.length_map, Nat.zero_add]

theorem pendingFor_ascending (cue : Cue) (id : Nat) (c : Chan) :
    (pendingFor cue id c).Pairwise fun p q => p.delay ≤ q.delay := by
  have all (l m : List PendingMove) (h : m.Pairwise fun p q => p.delay ≤ q.delay) :
      (l.foldl (fun l p => insertMove p l) m).Pairwise fun p q => p.delay ≤ q.delay := by
    induction l generalizing m with
    | nil => exact h
    | cons p l ih => exact ih _ (insertMove_ascending p h)
  exact all _ [] List.Pairwise.nil

/-- A cue of a list in order gives a channel a pending list that is kept (R40, R91, R93). -/
theorem pendingFor_kept {s : State} (order : s.ListInOrder) {cue : Cue} (h : cue ∈ s.cues) (id : Nat)
    (c : Chan) {r : Channel} (hr : r.waiting = pendingFor cue id c) : r.ListKept := by
  obtain ⟨-, -, -, cues⟩ := order
  obtain ⟨-, -, -, named⟩ := cues cue h
  unfold Channel.ListKept
  rw [hr]
  refine ⟨?_, (pendingFor_ascending cue id c).imp_of_mem fun {p q} hp hq delay => ⟨delay, ?_⟩⟩
  · rw [pendingFor_length]
    exact named c
  · obtain ⟨m, -, -, rfl⟩ := mem_pendingFor.mp hp
    obtain ⟨n, -, -, rfl⟩ := mem_pendingFor.mp hq
    exact ⟨rfl, rfl⟩

/-- The moves of a firing that start at once leave the rest of its list (R94). -/
theorem State.Fewer.startOwn (s : State) (id : Nat) (c : Chan) : s.Fewer (s.startOwn id c) := by
  unfold State.startOwn
  repeat' split
  · exact of_chan rfl
  · exact startDue _ s c
  · exact of_chan rfl

theorem State.Fewer.foldl {α : Type} (f : State → α → State) (h : ∀ (t : State) (a : α), t.Fewer (f t a))
    (l : List α) (s : State) : s.Fewer (l.foldl f s) :=
  foldl_closed f (fun t a ht => ht.trans (h t a)) l s (of_chan rfl)

theorem State.PendingKept.fire {s : State} (order : s.ListInOrder) (h : s.PendingKept) (cause : Cause) :
    (s.fire cause).PendingKept := by
  unfold State.fire
  split
  · exact h
  · rename_i cue hc
    refine (Fewer.foldl _ (fun t c => Fewer.startOwn t _ c) _ _).pending fun c => ?_
    rw [State.fireSteps_chan]
    split
    · exact pendingFor_kept order (State.nextCue_mem hc) _ c rfl
    · rw [← s.makeRoom_chan c]
      exact (Fewer.makeRoom s).pending h c

theorem State.PendingKept.settled {s : State} (order : s.ListInOrder) (h : s.PendingKept) :
    s.settled.PendingKept := by
  have all (n : Nat) (t : State) (o : t.ListInOrder) (k : t.PendingKept) :
      (State.settle n t).PendingKept := by
    induction n generalizing t with
    | zero => exact k
    | succ n ih =>
      unfold State.settle
      split
      · refine ih _ ?_ (k.fire o _)
        unfold State.ListInOrder
        rwa [(ShowFrame.fire t _).cues]
      · exact k
  exact all _ s order h

/-- The moves of a millisecond take moves out of the pending lists, and their delays fall together (R93). -/
theorem State.PendingKept.movesTick {s : State} (h : s.PendingKept) (c : Chan) :
    (s.movesTick c).PendingKept := by
  intro d
  by_cases e : c = d
  · subst e
    obtain ⟨n, less | less⟩ := s.movesTick_waiting c
    · exact (h c).fewer less.sublist
    · exact (h c).later (f := fun p => { p with delay := p.delay - n, counted := true })
        (fun _ => ⟨rfl, rfl⟩) (fun _ _ le => Nat.sub_le_sub_right le n) less.sublist
  · rw [s.movesTick_other e]
    exact h d

/-! ### Operations that reach no queue -/

/-- A state with the same list, clock, arm, tables and buffer, and no move more in a pending list. -/
theorem State.KeepsQueues.of_fewer {s t : State} (fewer : s.Fewer t) (cues : t.cues = s.cues := by rfl)
    (clock : t.clock = s.clock := by rfl) (arm : t.seq.arm = s.seq.arm := by rfl)
    (flight : t.seq.flight = s.seq.flight := by rfl) (notices : t.seq.notices = s.seq.notices := by rfl)
    (buffer : t.link.buffer = s.link.buffer := by rfl) : s.KeepsQueues t where
  order := by unfold ListInOrder; rw [cues]; exact id
  clock := by unfold ClockInRange; rw [clock]; exact id
  point := by unfold PointMatches; rw [clock, arm]; exact id
  fit := by unfold QueuesFit; rw [flight, notices, buffer]; exact id
  pending _ := fewer.pending
  replies := by unfold RepliesFit; rw [buffer]; exact fun _ => id

/-- The same with every channel as it was. -/
theorem State.KeepsQueues.of_eq {s t : State} (chan : t.chan = s.chan := by rfl)
    (cues : t.cues = s.cues := by rfl) (clock : t.clock = s.clock := by rfl)
    (arm : t.seq.arm = s.seq.arm := by rfl) (flight : t.seq.flight = s.seq.flight := by rfl)
    (notices : t.seq.notices = s.seq.notices := by rfl)
    (buffer : t.link.buffer = s.link.buffer := by rfl) : s.KeepsQueues t :=
  of_fewer (.of_chan chan) cues clock arm flight notices buffer

/-- A clock with the same point, its figures still in their ranges. -/
theorem State.KeepsQueues.setClock (s : State) {k : Clock}
    (range : s.ClockInRange → (s.setClock k).ClockInRange) (point : k.point = s.clock.point := by rfl) :
    s.KeepsQueues (s.setClock k) where
  order := id
  clock := range
  point h := point.trans h
  fit := id
  pending _ := id
  replies _ := id

section
variable (s : State)

theorem State.KeepsQueues.raise (e : Event) : s.KeepsQueues (s.raise e) := of_eq

theorem State.KeepsQueues.setSurface (x : Surface) : s.KeepsQueues (s.setSurface x) := of_eq

theorem State.KeepsQueues.setContacts (x : Contacts) : s.KeepsQueues (s.setContacts x) := of_eq

theorem State.KeepsQueues.setEvents (x : Events) : s.KeepsQueues (s.setEvents x) := of_eq

theorem State.KeepsQueues.setFader (f : Slot) (d : Fader) : s.KeepsQueues (s.setFader f d) := of_eq

theorem State.KeepsQueues.setLink (x : Link) (h : x.buffer = s.link.buffer := by rfl) :
    s.KeepsQueues (s.setLink x) := of_eq (buffer := h)

theorem State.KeepsQueues.setChan (c : Chan) (r : Channel) (h : r.waiting = (s.chan c).waiting := by rfl) :
    s.KeepsQueues (s.setChan c r) := of_fewer (.setChan s c (h ▸ .refl _))

/-! ### Operations on moves and firings (R72 to R74, R77, R92 to R100) -/

/-- A sequencer with fewer firings, or with none more than it may hold, and with the same notices and arm. -/
theorem State.KeepsQueues.notify (n : Notice) : s.KeepsQueues (s.notify n) := by
  have keeps {t : State} (ht : s.ShowFrame t) (chan : t.chan = s.chan) (arm : t.seq.arm = s.seq.arm)
      (clock : t.clock = s.clock) (flight : t.seq.flight = s.seq.flight)
      (notices : s.seq.notices.length ≤ 16 → t.seq.notices.length ≤ 16) : s.KeepsQueues t := by
    refine ⟨?_, ?_, ?_, ?_, fun _ => (Fewer.of_chan chan).pending, ?_⟩
    · unfold ListInOrder; rw [ht.cues]; exact id
    · unfold ClockInRange; rw [clock]; exact id
    · unfold PointMatches; rw [clock, arm]; exact id
    · rintro ⟨hf, hn, hb⟩
      exact ⟨flight ▸ hf, notices hn, ht.link ▸ hb⟩
    · unfold RepliesFit; rw [ht.link]; exact fun _ => id
  refine keeps (ShowFrame.notify s n) ?_ (s.notify_seq n).1 ?_ ?_ fun h => ?_
  · exact funext fun c => congrArg (fun x => Tab.get x c) (s.notify_channels n)
  · exact (s.notify_seq n).2.2.2.1
  · exact (s.notify_seq n).2.2.2.2
  · unfold State.notify
    split
    · simpa using Nat.succ_le_of_lt ‹_›
    · exact h

/-- The arm and its point are set together (R76, R123). -/
theorem State.KeepsQueues.setArm (a : Arm) : s.KeepsQueues (s.setArm a) :=
  ⟨id, id, fun _ => rfl, id, fun _ => id, fun _ => id⟩

end

/-- The clock point stays the arm's: where the arm is set its point is set with it (R76, R123). -/
theorem State.PointMatches.closed : ShowClosed State.PointMatches where
  raise _ h := h
  notify n h := (KeepsQueues.notify _ n).point h
  flight _ h _ := h
  arm _ _ _ := rfl
  enter _ _ _ h _ := h
  playhead _ h _ := h
  chan _ _ _ _ _ h := h
  crossed _ h _ := h
  without _ h := h

/-- A firing joins the flight table once room is made, and a notice the queue where there is room (R73,
R86). -/
theorem State.QueuesFit.closed : ShowClosed State.QueuesFit where
  raise _ h := h
  notify n h := (KeepsQueues.notify _ n).fit h
  flight l h hl := ⟨hl.trans h.1, h.2⟩
  arm _ h _ := h
  enter cue cause h hm _ := by
    refine ⟨?_, hm.2⟩
    have room := State.makeRoom_flight _ h.1
    rw [State.enterFiring, State.setSeq_seq, List.length_append, List.length_singleton]
    exact room
  playhead _ h _ := h
  chan _ _ _ _ _ h := h
  crossed _ h _ := h
  without _ h := h

/-- What every property keeps that the elementary updates of the show keep, and the pending lists with it. -/
theorem State.KeepsQueues.of_closed {s t : State}
    (h : ∀ {P : State → Prop}, ShowClosed P → P s → P t) (frame : s.PlayFrame t)
    (pending : s.ListInOrder → s.PendingKept → t.PendingKept) : s.KeepsQueues t where
  order := by unfold ListInOrder; rw [frame.cues]; exact id
  clock := by unfold ClockInRange; rw [frame.clock]; exact id
  point := h PointMatches.closed
  fit := h QueuesFit.closed
  pending := pending
  replies := by unfold RepliesFit; rw [frame.link]; exact fun _ => id

section
variable (s : State)

theorem State.KeepsQueues.settled : s.KeepsQueues s.settled :=
  of_closed (fun k => k.settled) (ShowFrame.settled s).play fun o h => h.settled o

theorem State.KeepsQueues.settledFrom (u : State) : s.KeepsQueues (s.settledFrom u) := by
  unfold State.settledFrom
  split
  · exact refl s
  · exact settled s

/-- Everything that a firing in SHOW brings about at its instant. -/
theorem State.KeepsQueues.fireChain (cause : Cause) (h : s.seq.state = .running) :
    s.KeepsQueues (s.fireChain cause) :=
  (of_closed (fun k => k.fire cause h) (ShowFrame.fire s cause).play fun o p => p.fire o cause).trans
    (settled _)

theorem State.KeepsQueues.takeCrossing : s.KeepsQueues s.takeCrossing := by
  unfold State.takeCrossing
  split
  · exact (fireChain s .clock ‹_›).trans of_eq
  · exact refl s

theorem State.KeepsQueues.reportActive (c : Chan) : s.KeepsQueues (s.reportActive c) :=
  of_closed (fun k => k.reportActive c) (ShowFrame.reportActive s c).play
    fun _ => (Fewer.of_chan (s.reportActive_chan c)).pending

theorem State.KeepsQueues.completeMove (c : Chan) : s.KeepsQueues (s.completeMove c) :=
  of_closed (fun k => k.completeMove c) (ShowFrame.completeMove s c).play
    fun _ => (Fewer.completeMove s c).pending

theorem State.KeepsQueues.startDue (n : Nat) (c : Chan) : s.KeepsQueues (State.startDue n s c) :=
  of_closed (fun k => k.startDue n c) (ShowFrame.startDue n s c).play
    fun _ => (Fewer.startDue n s c).pending

theorem State.KeepsQueues.startLevel (c : Chan) (target : Int) (duration : Nat) (curve : Curve)
    (base : Timebase) (owner : Owner) :
    s.KeepsQueues (s.startLevel c target duration curve base owner) :=
  of_closed (fun k => k.startLevel c target duration curve base owner)
    (ShowFrame.startLevel s c target duration curve base owner).play
    fun _ => (Fewer.startLevel s c target duration curve base owner).pending

theorem State.KeepsQueues.allMoves : s.KeepsQueues s.allMoves :=
  of_closed (fun k => k.allMoves) (ShowFrame.allMoves s).play
    fun _ h => foldl_closed _ (fun _ c k => k.movesTick c) _ s h

theorem State.KeepsQueues.clearShow : s.KeepsQueues s.clearShow where
  order := by unfold ListInOrder; rw [(ShowFrame.clearShow s).cues]; exact id
  clock := by unfold ClockInRange; rw [(ShowFrame.clearShow s).clock]; exact id
  point h := PointMatches.closed.clearShow h id
  fit h := QueuesFit.closed.clearShow h id
  pending _ := (Fewer.clearShow s).pending
  replies := by unfold RepliesFit; rw [(ShowFrame.clearShow s).link]; exact fun _ => id

/-! ### Show states (R60 to R66, R80, R81, R188) -/

theorem State.KeepsQueues.setShow (st : ShowState) : s.KeepsQueues (s.setShow st) := by
  unfold State.setShow
  split
  · exact refl s
  · exact of_eq

theorem State.KeepsQueues.holdShow : s.KeepsQueues s.holdShow := by
  unfold State.holdShow
  split
  · exact setShow s _
  · exact refl s

theorem State.KeepsQueues.resumeShow : s.KeepsQueues s.resumeShow := by
  unfold State.resumeShow
  dsimp only
  split
  · exact ((setShow s _).trans (setArm _ _)).trans (settled _)
  · exact (setShow s _).trans (settled _)

theorem State.KeepsQueues.enterSafe : s.KeepsQueues s.enterSafe := by
  unfold State.enterSafe
  split
  · exact refl s
  · exact (KeepsQueues.trans of_eq (setShow _ _)).trans (clearShow _)

theorem State.KeepsQueues.leaveSafe : s.KeepsQueues s.leaveSafe := by
  unfold State.leaveSafe
  dsimp only
  split
  · exact ((setShow s _).trans of_eq).trans (setArm _ _)
  · exact (setShow s _).trans of_eq

theorem State.KeepsQueues.raiseWithAct (e : Event) : s.KeepsQueues (s.raiseWithAct e) := by
  unfold State.raiseWithAct State.apply
  split
  · exact raise s e
  · exact (raise s e).trans (holdShow _)
  · exact (raise s e).trans (enterSafe _)

theorem State.KeepsQueues.go (cause : Cause) (n : Nat) : s.KeepsQueues (s.go cause n).state := by
  have opened : s.KeepsQueues (s.setSeq { s.seq with gateTime := 0 }) := of_eq
  unfold State.go
  repeat' split
  case h_3.isTrue => exact opened.trans (resumeShow _)
  case h_2.isFalse running _ _ _ _ _ => exact opened.trans (fireChain _ cause running)
  all_goals exact of_eq

theorem State.KeepsQueues.back : s.KeepsQueues s.back.1 := by
  unfold State.back
  repeat' split
  case h_2 => exact State.KeepsQueues.trans of_eq (setArm _ _)
  all_goals exact of_eq

end

/-! ### Resets (R89, R113, R186, R192, R195) -/

/-- A reset leaves no move, no arm, no firing, no notice and no request, and the clock at its reset figures with
the settings it has (R89, R91, R113, R186). -/
theorem State.KeepsQueues.takeReset (s : State) (cause : ResetCause) : s.KeepsQueues (s.takeReset cause) where
  order := id
  clock h := by
    obtain ⟨-, -, -, -, -, -, -, -, -, settings⟩ := h
    refine ⟨?_, ?_, ?_, ?_, ?_, ?_, ?_, ?_, ?_, settings⟩
    all_goals exact Nat.le_of_ble_eq_true rfl
  point _ := by
    show none = (if s.live then Sequencer.afterReset .safe .hold s.seq.next s.seq.standing
      else Sequencer.afterReset .edit .edit (firstCue s.cues) none).arm.point
    split <;> rfl
  fit _ := by
    have seq := (s.takeReset_afresh cause).seq
    obtain ⟨flight, -, -, -, -, notices, -⟩ := seq
    refine ⟨?_, ?_, Nat.zero_le _⟩
    · rw [flight]
      exact Nat.zero_le _
    · rw [notices]
      exact Nat.zero_le _
  pending _ _ c := by
    obtain ⟨-, -, -, -, -, -, waiting, -⟩ := (s.takeReset_afresh cause).chan c
    unfold Channel.ListKept
    rw [waiting]
    exact ⟨Nat.zero_le _, List.Pairwise.nil⟩
  replies _ _ := nofun

theorem State.KeepsQueues.takePowerOn (s : State) (straps : BitVec 5) :
    s.KeepsQueues (s.takePowerOn straps) := by
  obtain ⟨clock, point, fit, -, order, -, -, -, -, -, -, pending, -⟩ := resetMeetsInvariants
  exact ⟨fun _ => order, fun _ => clock, fun _ => point, fun _ => fit, fun _ _ => pending,
    fun _ _ => nofun⟩

theorem State.KeepsQueues.resetPin (s : State) (straps : BitVec 5) : s.KeepsQueues
    ((if s.link.restartDue then
      ((s.setLink { s.link with straps }).takeReset .resetPin).takeReset .linkRestart
    else (s.setLink { s.link with straps }).takeReset .resetPin).setResetLow true) := by
  have taken := (setLink s { s.link with straps }).trans (takeReset _ .resetPin)
  have held (t : State) : t.KeepsQueues (t.setResetLow true) := of_eq
  split
  · exact (taken.trans (takeReset _ _)).trans (held _)
  · exact taken.trans (held _)

end Sys2Proof.Machine
end

section
/-!
PROOF. What the part does by itself keeps the clock, the queues and the pending lists: hands and scan passes,
contact lines, the wall millisecond, time marks, frame events and tracking scans (R71, R86, R91, R93, R113,
R117 to R119, R123).
-/

namespace Sys2Proof.Machine

/-- An operation that is taken under a condition and leaves the state otherwise. -/
theorem State.KeepsQueues.ifTaken {s t : State} (c : Prop) [Decidable c] (h : ¬ c → s.KeepsQueues t) :
    s.KeepsQueues (if c then s else t) := by
  split
  · exact refl _
  · exact h ‹_›

/-! ### Hands, scan passes, banks and modes (R130, R131, R135 to R146)

Of all that the surface does, an active move that a release ends in KEEP mode reaches the show (R101, R140). -/

section
variable (s : State) (f : Slot)

theorem State.KeepsQueues.takeTouch : s.KeepsQueues (s.takeTouch f) := by
  unfold State.takeTouch
  repeat' split
  · exact refl s
  · exact (setFader s f _).trans (raise _ _)
  · exact (setFader s f _).trans (setChan _ _ _)
  · exact (setFader s f _).trans (setChan _ _ _)

theorem State.KeepsQueues.handBack (c : Chan) (h : Int) : s.KeepsQueues (s.handBack c h) := by
  unfold State.handBack
  split
  · exact setChan s _ _
  · exact (reportActive s c).trans (setChan _ _ _)

theorem State.KeepsQueues.remap : s.KeepsQueues (s.remap f) := by
  unfold State.remap
  split
  · exact refl s
  · exact (setFader s f _).trans (raise _ _)

theorem State.KeepsQueues.releaseFader : s.KeepsQueues (s.releaseFader f) := by
  unfold State.releaseFader
  split
  · exact refl s
  · exact (setFader s f _).trans (remap _ f)
  · dsimp only
    split
    · exact (setFader s f _).trans (remap _ f)
    · exact ((setFader s f _).trans (handBack _ _ _)).trans (remap _ f)

theorem State.KeepsQueues.handOn : s.KeepsQueues (s.handOn f) := by
  unfold State.handOn
  split
  · exact takeTouch s f
  · exact refl s

theorem State.KeepsQueues.handOff : s.KeepsQueues (s.handOff f) := by
  unfold State.handOff
  split
  · exact (releaseFader s f).trans (settledFrom _ s)
  · exact refl s

theorem State.KeepsQueues.keyOn : s.KeepsQueues (s.keyOn f) := by
  unfold State.keyOn State.toggleOperator
  repeat' split
  · exact refl s
  · exact setChan s _ _
  · exact refl s

theorem State.KeepsQueues.passFader (readings : Tab 16 (BitVec 10)) :
    s.KeepsQueues (s.passFader readings f) := by
  have reading (t : State) (p : Nat) : t.KeepsQueues (t.takeReading f p) := by
    unfold State.takeReading
    dsimp only
    repeat' split
    · exact (setFader t f _).trans (setChan _ _ _)
    · exact setFader t f _
    · exact refl t
  unfold State.passFader
  dsimp only
  repeat' split
  · exact reading s _
  · exact (setFader s f _).trans (reading _ _)
  · exact refl s
  · exact (setFader s f _).trans (raise _ _)
  · exact refl s

theorem State.KeepsQueues.mapFree (m : Option Chan) : s.KeepsQueues (s.mapFree f m) := by
  unfold State.mapFree
  dsimp only
  split
  · exact (setFader s f _).trans (takeTouch _ f)
  · exact setFader s f _

theorem State.KeepsQueues.applyBank : s.KeepsQueues s.applyBank := by
  refine foldl _ (fun t g => ?_) _ s
  unfold State.applySlot
  split
  · split
    · exact mapFree t g _
    · exact setFader t g _
    · exact setFader t g _
  · exact refl t

theorem State.KeepsQueues.modeChanged : s.KeepsQueues s.modeChanged := by
  unfold State.modeChanged
  dsimp only
  split
  · exact (setSurface s _).trans (foldl _ (fun t g => (releaseFader t g).trans (setFader _ g _)) _ _)
  · exact (setSurface s _).trans (foldl _ (fun t g => (setFader t g _).trans (mapFree _ g _)) _ _)

end

/-! ### Contact lines (R149 to R153) -/

section
variable (s : State)

theorem State.KeepsQueues.judgedPress (r : Result) : s.KeepsQueues (s.judgedPress r) := by
  unfold State.judgedPress
  split
  · exact refl s
  · exact (setContacts s _).trans (raise _ _)

theorem State.KeepsQueues.contactRequest (l : ContactLine) : s.KeepsQueues (s.contactRequest l) := by
  cases l with
  | cgo => exact (go s .goContact 0).trans (judgedPress _ _)
  | cback => exact (back s).trans (judgedPress _ _)
  | chold => exact holdShow s
  | csafe => exact enterSafe s

/-- A press makes the request of its line (R150). -/
theorem State.KeepsQueues.press (l : ContactLine) : s.KeepsQueues (s.press l fun t => t.contactRequest l) :=
  ifTaken _ fun _ => (setContacts s _).trans (contactRequest _ l)

/-! ### The wall millisecond (R26, R77, R98, R114, R124, R132, R149) -/

theorem countUp_le {top n : Nat} (h : n ≤ top) : countUp top n ≤ top := by
  unfold countUp
  split <;> omega

/-- The timers stop at 65535, the whole part of P at 4,294,967,295, and the fraction counts modulo 65536
(R113, R114, R120, R121). -/
theorem State.ClockInRange.tick {s : State} (h : s.ClockInRange) : (s.setClock s.clock.tick).ClockInRange := by
  obtain ⟨low, high, frac, whole, song, good, mark, wheel, errors, settings⟩ := h
  refine ⟨low, high, ?_, ?_, song, good, countUp_le mark, ?_, errors, settings⟩
  · show (if s.clock.runs then (s.clock.frac + s.clock.rate) % 65536 else s.clock.frac) ≤ 65535
    split
    · omega
    · exact frac
  · show (if s.clock.runs then wholePart _ else s.clock.whole) ≤ 4294967295
    split
    · exact Nat.min_le_right _ _
    · exact whole
  · show (if s.clock.state = .freewheel then countUp 65535 s.clock.freewheelTimer
      else s.clock.freewheelTimer) ≤ 65535
    split
    · exact countUp_le wheel
    · exact wheel

/-- The counters of a millisecond reach the clock alone (R113). -/
theorem State.KeepsQueues.tickCounters : s.KeepsQueues s.tickCounters :=
  (setClock s fun h => h.tick).trans of_eq

/-- A glide goes on and leaves the moves of its channel (R26). -/
theorem State.KeepsQueues.glide : s.KeepsQueues s.glide :=
  of_fewer fun c => by
    rw [State.chan, State.glide, State.setChannels_channels, Tab.get_map]
    exact .refl _

theorem State.KeepsQueues.armTick : s.KeepsQueues s.armTick := by
  unfold State.armTick
  repeat' split
  case h_4.isTrue => exact setArm s _
  all_goals exact refl s

theorem State.KeepsQueues.advanceAll : s.KeepsQueues s.advanceAll := by
  have ticked : s.KeepsQueues s.ticked := ((tickCounters s).trans (glide _)).trans (armTick _)
  have moved : s.KeepsQueues s.moved := (ticked.trans (allMoves _)).trans (settledFrom _ _)
  rw [s.advanceAll_eq]
  split
  · exact moved.trans (takeCrossing _)
  · exact moved

theorem State.KeepsQueues.sampleAll (x : Pins) : s.KeepsQueues (s.sampleAll x) := by
  have sampled : s.KeepsQueues (s.sampled x) := (setSurface s _).trans (setContacts _ _)
  have touched : (s.sampled x).KeepsQueues (s.touched x) := by
    refine foldl _ (fun t f => ?_) _ _
    unfold State.touchActs
    split
    · exact handOn t f
    · exact handOff t f
    · exact refl t
    · exact refl t
  have keyed : (s.touched x).KeepsQueues (s.keyed x) := by
    refine foldl _ (fun t f => ?_) _ _
    unfold State.keyActs
    split
    · exact keyOn t f
    · exact refl t
  have contacts : (s.keyed x).KeepsQueues (s.sampleAll x) := by
    refine foldl _ (fun t l => ?_) _ _
    unfold State.contactActs
    split
    · exact contactRequest t l
    · exact refl t
  exact ((sampled.trans touched).trans keyed).trans contacts

/-- Pins that are taken leave their characters to be judged (R111, R176). -/
theorem State.KeepsQueues.takePins (x : Pins) : s.KeepsQueues (s.takePins x) :=
  (setLink s _).trans (setClock _ id)

theorem State.KeepsQueues.millisecond : s.KeepsQueues s.wallMillisecond :=
  (((advanceAll s).trans (sampleAll _ _)).trans (takePins _ _)).trans of_eq

/-! ### The show clock (R112, R116 to R121) -/

theorem State.KeepsQueues.badMark : s.KeepsQueues s.badMark := by
  refine (setClock s fun h => ?_).trans (raise _ _)
  obtain ⟨low, high, frac, whole, song, good, mark, wheel, errors, settings⟩ := h
  exact ⟨low, high, frac, whole, song, good, mark, wheel, countUp_le errors, settings⟩

/-- A mark of a good song and position places P within its range (R112, R116). -/
theorem State.ClockInRange.relocated {s : State} (h : s.ClockInRange) {song m : Nat} (hs : song ≤ 99)
    (hm : m ≤ 5999999) : (s.setClock (s.clock.relocated song m)).ClockInRange := by
  obtain ⟨low, high, -, -, -, -, -, wheel, errors, settings⟩ := h
  refine ⟨low, high, Nat.zero_le _, ?_, hs, Nat.zero_le _, Nat.zero_le _, wheel, errors, settings⟩
  have delay : s.clock.cfg.markDelay ≤ 50 := settings.1
  show m + s.clock.cfg.markDelay ≤ 4294967295
  omega

/-- The rate is clamped and the whole part stops at its limit (R114, R117). -/
theorem State.ClockInRange.corrected {s : State} (h : s.ClockInRange) (m : Nat) :
    (s.setClock (s.clock.corrected m)).ClockInRange := by
  obtain ⟨-, -, frac, -, song, good, -, wheel, errors, settings⟩ := h
  have rate : 64225 ≤ (s.clock.corrected m).rate ∧ (s.clock.corrected m).rate ≤ 66847 := by
    unfold Clock.corrected clampInt
    dsimp only
    omega
  exact ⟨rate.1, rate.2, frac, Nat.min_le_right _ _, song, good, Nat.zero_le _, wheel, errors, settings⟩

/-- A correcting mark reaches of the clock its state and its good count, which stops at 4 (R118). -/
theorem Clock.counted_eq (k : Clock) (within : Bool) : (k.counted within).1 =
    { k with state := (k.counted within).1.state, good := (k.counted within).1.good } ∧
      (k.good ≤ 4 → (k.counted within).1.good ≤ 4) := by
  unfold Clock.counted
  repeat' split
  all_goals exact ⟨rfl, fun h => by first | exact h | (dsimp only; omega)⟩

theorem State.KeepsQueues.correct (m : Nat) : s.KeepsQueues (s.correct m) := by
  have counted (within : Bool) :
      s.KeepsQueues (s.setClock ((s.clock.corrected m).counted within).1) := by
    obtain ⟨same, good⟩ := (s.clock.corrected m).counted_eq within
    refine setClock s (fun h => ?_) (by rw [same]; rfl)
    obtain ⟨low, high, frac, whole, song, four, mark, wheel, errors, settings⟩ := h.corrected m
    unfold ClockInRange
    rw [State.setClock_clock, same]
    exact ⟨low, high, frac, whole, song, good four, mark, wheel, errors, settings⟩
  unfold State.correct
  dsimp only
  repeat' split
  · exact ((counted _).trans (raise _ _)).trans (takeCrossing _)
  · exact (counted _).trans (takeCrossing _)
  · exact (counted _).trans (raise _ _)
  · exact counted _

theorem State.KeepsQueues.runningMark {song m : Nat} (hs : song ≤ 99) (hm : m ≤ 5999999) :
    s.KeepsQueues (s.runningMark song m) := by
  unfold State.runningMark
  split
  · exact (setClock s fun h => h.relocated hs hm).trans (raise _ _)
  · exact correct s m

theorem State.KeepsQueues.stoppedMark {song m : Nat} (hs : song ≤ 99) (hm : m ≤ 5999999) :
    s.KeepsQueues (s.stoppedMark song m) := by
  have stopped : s.KeepsQueues (s.setClock { s.clock with
      whole := m, frac := 0, song, good := 0, markTimer := 0, state := .stopped }) := by
    refine setClock s fun h => ?_
    obtain ⟨low, high, -, -, -, -, -, wheel, errors, settings⟩ := h
    exact ⟨low, high, Nat.zero_le _, hm.trans (by decide), hs, Nat.zero_le _, Nat.zero_le _, wheel, errors,
      settings⟩
  unfold State.stoppedMark
  dsimp only
  split
  · exact stopped
  · exact stopped.trans (raise _ _)

theorem State.KeepsQueues.loseClock : s.KeepsQueues s.loseClock :=
  (setClock s (k := { s.clock with state := .lost }) id).trans (raiseWithAct _ _)

theorem State.KeepsQueues.timeoutClock : s.KeepsQueues s.timeoutClock := by
  unfold State.timeoutClock
  repeat' split
  · refine setClock s fun h => ?_
    obtain ⟨low, high, frac, whole, song, -, mark, wheel, errors, settings⟩ := h
    exact ⟨low, high, frac, whole, song, Nat.zero_le _, mark, wheel, errors, settings⟩
  · exact loseClock s
  · refine (setClock s fun h => ?_).trans (raise _ _)
    obtain ⟨low, high, frac, whole, song, good, mark, -, errors, settings⟩ := h
    exact ⟨low, high, frac, whole, song, good, mark, Nat.zero_le _, errors, settings⟩
  all_goals exact refl s

theorem State.KeepsQueues.judgeTimers : s.KeepsQueues s.judgeTimers := by
  unfold State.judgeTimers
  repeat' split
  · exact timeoutClock s
  · exact loseClock s
  · exact refl s

/-! ### Frame events and the link (R158, R168, R177, R193) -/

/-- A channel formed at a frame event keeps its moves (R159). -/
theorem State.placed_fewer : s.Fewer s.placed := by
  have frame (r : Nat) (c : Chan) : (s.startPeriod.atFrame r c).waiting = (s.chan c).waiting := by
    unfold State.atFrame
    split <;> rfl
  intro c
  show ((s.startPeriod.formChannels s.output.stored.period).chan c).waiting.Sublist _
  rw [State.formChannels_chan, frame]

theorem State.KeepsQueues.frameEvent : s.KeepsQueues s.frameEvent := by
  obtain ⟨seq, clock, -⟩ := s.placed_seq
  have placed : s.KeepsQueues s.placed :=
    of_fewer s.placed_fewer s.formed_cues clock (by rw [seq]) (by rw [seq]) (by rw [seq])
      (congrArg Link.buffer (State.formChannels_link _ _))
  rw [State.frameEvent_eq]
  exact State.raiseLate_keeps (fun u hu => hu.trans (raiseWithAct u _)) s placed

theorem State.KeepsQueues.sendEnd (l : OutLine) : s.KeepsQueues (s.sendEnd l) := by
  unfold State.sendEnd
  repeat' split
  all_goals exact of_eq

theorem State.KeepsQueues.linkFault (after : Receiver) (quiet : Nat) {count : Link → Link}
    (h : ∀ k, (count k).buffer = k.buffer := by intro; rfl) : s.KeepsQueues (s.linkFault after quiet count) := by
  unfold State.linkFault
  split
  · exact (setLink s (count { s.link with receiver := after, rxQuiet := quiet }) (h _)).trans (raise _ _)
  · exact refl s

theorem State.KeepsQueues.sequenceIdle : s.KeepsQueues s.sequenceIdle := by
  unfold State.sequenceIdle
  split
  · exact setEvents s _
  · exact refl s

/-! ### Tracking scans (R82 to R85) -/

/-- A load leaves the pending lists, which the clearing has emptied, as they are (R84, R107). -/
theorem Channel.loaded_waiting (r : Channel) (target : Int) (mute : Bool) (time : Nat) :
    (r.loaded target mute time).waiting = r.waiting := by
  unfold Channel.loaded
  repeat' split
  all_goals rfl

theorem State.KeepsQueues.loadScan (k : Scan) : s.KeepsQueues (s.loadScan k) := by
  have channels (t : State) (f : Chan → Int) (g : Chan → Bool) (n : Nat) : t.KeepsQueues
      (t.setChannels (Tab.build 56 fun c => (t.chan c).loaded (f c) (g c) n)) :=
    of_fewer fun c => by
      rw [State.chan, State.setChannels_channels, Tab.get_build, Channel.loaded_waiting]
  unfold State.loadScan
  dsimp only
  split
  · exact (((clearShow s).trans (channels _ _ _ _)).trans of_eq).trans (setArm _ _)
  · exact ((clearShow s).trans (channels _ _ _ _)).trans of_eq

end

end Sys2Proof.Machine
end

section
/-!
PROOF. What the requests keep of the clock, the queues and the pending lists, and that every reply they give
fits a message (R57 to R59, R69, R80, R87, R88, R126, R175, R179, R180).
-/

namespace Sys2Proof.Machine

/-! ### The lengths of reply fields (R196, R197) -/

@[simp] theorem bytesOf_length (n v : Nat) : (bytesOf n v).length = n := by
  induction n with
  | zero => rfl
  | succ n ih => rw [bytesOf, List.length_cons, ih]

@[simp] theorem int2_length (v : Int) : (int2 v).length = 2 := bytesOf_length 2 _

@[simp] theorem cueField_length (n : Option Nat) : (cueField n).length = 2 := bytesOf_length 2 _

@[simp] theorem noticeBytes_length (n : Notice) : (noticeBytes n).length = 6 := by simp [noticeBytes]

@[simp] theorem firingBytes_length (f : Firing) : (firingBytes f).length = 6 := by simp [firingBytes]

@[simp] theorem armBytes_length (a : Arm) : (armBytes a).length = 10 := by cases a <;> simp [armBytes]

@[simp] theorem ownerField_length (o : Option Owner) : (ownerField o).length = 3 := by
  unfold ownerField
  split <;> rfl

@[simp] theorem headerBytes_length (q : Cue) : (headerBytes q).length = 12 := by simp [headerBytes]

@[simp] theorem moveBytes_length (b : Timebase) (m : StoredMove) : (moveBytes b m).length = 10 := by
  simp [moveBytes]

@[simp] theorem configBytes_length (c : ChannelConfig) : (configBytes c).length = 10 := by
  simp [configBytes]

@[simp] theorem bankBytes_length (b : Bank) : (bankBytes b).length = 16 := by simp [bankBytes, b.size]

@[simp] theorem routeBytes_length (r : Option (GainNo × Fin 64)) : (routeBytes r).length = 2 := by
  cases r <;> rfl

@[simp] theorem outputSettings_length (c : OutputConfig) : (outputSettings c).length = 5 := by
  simp [outputSettings, c.dividers.size]

@[simp] theorem slotReport_length (s : State) (f : Slot) : (slotReport s f).length = 9 := by
  have pending (p : Option (Option Chan)) : (pendingBytes p).length = 2 := by cases p <;> rfl
  simp [slotReport, pending]

@[simp] theorem lineReport_length (l : GainLine) : (lineReport l).length = 8 := by simp [lineReport]

theorem length_flatMap_of_const {α : Type} {f : α → List Byte} {n : Nat} (h : ∀ a, (f a).length = n)
    (l : List α) : (l.flatMap f).length = l.length * n := by
  rw [List.length_flatMap, List.map_congr_left (g := fun _ => n) (fun a _ => h a), List.map_const',
    List.sum_replicate, smul_eq_mul]

/-! ### A request that is served (R178 to R180) -/

/-- What serving a request keeps: the queues, a place in the buffer, and the size of a message. -/
structure State.ServedWell (s : State) (v : Served) : Prop where
  keeps : s.KeepsQueues v.state
  buffer : v.state.link.buffer.length ≤ s.link.buffer.length
  fits : s.QueuesFit → ∀ a, v.answer = some a → a.payload.length ≤ 247

theorem State.ServedWell.reply {s t : State} {payload : List Byte} {r : Result} (h : s.KeepsQueues t)
    (link : t.link = s.link) (fits : s.QueuesFit → payload.length ≤ 247) :
    s.ServedWell (t.reply r payload) := by
  refine ⟨h, by rw [State.reply_state, link], fun hs a ha => ?_⟩
  cases ha
  exact fits hs

theorem State.ServedWell.refuse (s : State) (r : Result) : s.ServedWell (s.refuse r) :=
  reply (.refl s) rfl fun _ => Nat.zero_le _

/-- A request that is refused under a condition. -/
theorem State.ServedWell.ifRefused {s : State} (c : Prop) [Decidable c] (r : Result) {v : Served}
    (h : ¬ c → s.ServedWell v) : s.ServedWell (if c then s.refuse r else v) := by
  split
  · exact refuse s r
  · exact h ‹_›

theorem State.ServedWell.query {α : Type} {answer : α → State → Answer} {f : α} (b : Bool) (s : State)
    (fits : s.QueuesFit → (answer f s).payload.length ≤ 247) : s.ServedWell (query answer f b s) := by
  refine ⟨.refl s, le_rfl, fun hs a ha => ?_⟩
  cases ha
  exact fits hs

section
variable (s : State)

/-- A request that found room in the buffer takes its place there with its reply (R179, R180). -/
theorem State.KeepsQueues.enqueue {v : Served} (h : s.ServedWell v) (room : s.link.buffer.length < 2)
    (code : Byte) (b : Bool) : s.KeepsQueues (State.enqueue v code b) := by
  obtain ⟨keeps, buffer, fits⟩ := h
  unfold State.enqueue
  split
  · exact keeps
  · refine ⟨keeps.order, keeps.clock, keeps.point, fun hs => ?_, keeps.pending, fun hs hr e he r er => ?_⟩
    · obtain ⟨flight, notices, -⟩ := keeps.fit hs
      refine ⟨flight, notices, ?_⟩
      rw [State.setLink_link, List.length_append, List.length_singleton]
      omega
    · rcases List.mem_append.mp he with he | he
      · exact keeps.replies hs hr e he r er
      · rw [List.mem_singleton.mp he] at er
        split at er
        · cases er
        · cases er
          exact fits hs _ ‹_›

theorem State.KeepsQueues.receive (d : Dest) (code : Byte) {serve : Bool → State → Served}
    (h : ∀ (b : Bool) (t : State), t.ServedWell (serve b t)) : s.KeepsQueues (s.receive d code serve) := by
  unfold State.receive
  dsimp only
  repeat' split
  · exact (setLink s _).trans (enqueue _ (h _ _) ‹_› code _)
  · exact ((setLink s _).trans (setLink s.goodRequest _)).trans (raise _ _)
  · exact refl s

theorem State.ServedWell.sequenceIdle (r : Result) {payload : List Byte} (fits : payload.length ≤ 247) :
    s.ServedWell (s.sequenceIdle.reply r payload) := by
  refine reply (.sequenceIdle s) ?_ fun _ => fits
  unfold State.sequenceIdle
  split <;> rfl

/-- A request keeps what its own block keeps when it serves it. -/
theorem State.KeepsQueues.request {α : Type} (d : Dest) (code : Byte) (parsed : Option α)
    {serve : α → Bool → State → Served} (h : ∀ f b (t : State), t.ServedWell (serve f b t))
    (carried : State → List Byte := fun _ => [])
    (fits : ∀ t, (carried t).length ≤ 247 := by intro; exact Nat.zero_le _) :
    s.KeepsQueues (s.request d code parsed serve carried) := by
  refine receive s d code fun b t => ?_
  unfold judge
  repeat' split
  · exact .sequenceIdle t _ (fits t)
  · exact .sequenceIdle t _ (fits t)
  · exact h _ b t

/-! ### Queries (R17, R57 to R59, R88, R128, R147, R156, R164, R171, R185, R194) -/

theorem channelAnswer_fits (b : Byte) : (channelAnswer b s).payload.length ≤ 247 := by
  have summary (c : Chan) : (moveSummary s c).length = 9 := by
    unfold moveSummary
    split <;> simp
  unfold channelAnswer
  split
  · exact Nat.zero_le _
  · simp [Answer.mk', channelReport, summary]

theorem cueAnswer_fits (n : Nat) : (cueAnswer n s).payload.length ≤ 247 := by
  unfold cueAnswer
  repeat' split
  · exact Nat.zero_le _
  · exact Nat.zero_le _
  · simp [Answer.mk']

/-- At most 24 moves of ten bytes each (R58). -/
theorem movesAnswer_fits (f : MovesQuery) : (movesAnswer f s).payload.length ≤ 247 := by
  unfold movesAnswer
  repeat' split
  · exact Nat.zero_le _
  · exact Nat.zero_le _
  · rename_i asked _ _ _
    simp only [Bool.or_eq_true, decide_eq_true_eq, not_or, not_lt] at asked
    rw [Answer.mk', List.length_cons, length_flatMap_of_const (moveBytes_length _), List.length_take]
    omega

/-- At most 100 numbers of two bytes each (R59). -/
theorem listAnswer_fits (f : ListQuery) : (listAnswer f s).payload.length ≤ 247 := by
  unfold listAnswer
  split
  · exact Nat.zero_le _
  · simp only [Answer.mk', List.length_append, length_flatMap_of_const (fun q : Cue => bytesOf_length 2 q.number),
      List.length_take, List.length_cons, List.length_nil, bytesOf_length]
    omega

/-- At most eight firings of six bytes each (R71, R88). -/
theorem showReport_fits (h : s.QueuesFit) : (showReport s).length ≤ 247 := by
  have flight := h.1
  simp only [showReport, List.length_append, length_flatMap_of_const firingBytes_length, List.length_cons,
    List.length_nil, bytesOf_length, cueField_length, armBytes_length]
  omega

theorem clockReport_fits : (clockReport s).length ≤ 247 := by
  have point (p : Option (Nat × Nat)) : (pointBytes p).length = 5 := by cases p <;> simp [pointBytes]
  simp [clockReport, clockSettings, point]

theorem surfaceAnswer_fits (k : Byte) : (surfaceAnswer k s).payload.length ≤ 247 := by
  have slots : (allSlots.flatMap (slotReport s)).length = 144 :=
    (length_flatMap_of_const (slotReport_length s) _).trans rfl
  unfold surfaceAnswer
  split
  · exact Nat.zero_le _
  · simp only [Answer.mk', List.length_append, slots, surfaceSettings, List.length_cons, List.length_nil]
    split <;> simp

theorem contactReport_fits : (contactReport s).length ≤ 247 := by
  simp [contactReport, length_flatMap_of_const (n := 2)]

theorem routeAnswer_fits (k : Byte) : (routeAnswer k s).payload.length ≤ 247 := by
  unfold routeAnswer
  repeat' split
  · simp [Answer.mk']
  · simp [Answer.mk', length_flatMap_of_const routeBytes_length, s.output.routes.size]
  · exact Nat.zero_le _

theorem outputReport_fits : (outputReport s).length ≤ 247 := by
  simp [outputReport, length_flatMap_of_const lineReport_length, s.output.lines.size]

end

section
variable (b : Bool) (s : State)

/-! ### The channels and the link (R13, R15, R16, R105, R184, R190, R191, R193) -/

theorem State.ServedWell.linkSetup (f : LinkSetup) : s.ServedWell (serveLinkSetup f b s) := by
  unfold serveLinkSetup
  dsimp only
  refine ⟨?_, ?_, fun _ a ha => ?_⟩
  · split
    · exact (KeepsQueues.setLink s _).trans (KeepsQueues.setLink _ _)
    · exact KeepsQueues.setLink s _
  · split <;> exact le_rfl
  · cases ha
    simp

theorem eventSettings_length (v : Events) : (eventSettings v).length = 7 := by simp [eventSettings]

theorem State.ServedWell.eventsSetup (f : EventsSetup) : s.ServedWell (serveEventsSetup f b s) := by
  unfold serveEventsSetup
  split
  · exact reply (.setEvents s _) rfl fun _ => by simp [eventSettings_length]
  · exact refuse s _

theorem State.ServedWell.eventsRead (g : Byte) : s.ServedWell (serveEventsRead g b s) := by
  unfold serveEventsRead
  refine ifRefused _ _ fun _ => ?_
  split
  · exact reply (.refl s) rfl fun _ => Nat.zero_le _
  · refine reply (.setEvents s _) rfl fun _ => ?_
    simp only [List.length_append, eventSettings_length, List.length_cons, List.length_nil]
    split <;> simp

/-- A RESTART may restart the part at once, and then there is nothing left to answer (R193). -/
theorem State.ServedWell.restart (step : Nat) : s.ServedWell (serveRestart step b s) := by
  unfold serveRestart
  split
  · exact sequenceIdle s _ (Nat.zero_le _)
  · cases s.events.sequence with
    | idle =>
      dsimp only
      split
      · exact reply (.setEvents s _) rfl fun _ => by simp [stepReply]
      · exact refuse s _
    | step1 =>
      dsimp only
      split
      · exact reply (.setEvents s _) rfl fun _ => by simp [stepReply]
      · exact reply (.setEvents s _) rfl fun _ => Nat.zero_le _
    | step2 =>
      dsimp only
      repeat' split
      · refine ⟨(KeepsQueues.setEvents s _).trans (KeepsQueues.takeReset _ _), Nat.zero_le _, nofun⟩
      · refine ⟨.setEvents s _, le_rfl, fun _ a ha => ?_⟩
        cases ha
        exact Nat.zero_le _
      · exact reply (.setEvents s _) rfl fun _ => Nat.zero_le _
    | due =>
      refine ⟨.of_eq, le_rfl, fun _ a ha => ?_⟩
      cases ha
      exact Nat.zero_le _

theorem State.ServedWell.channelSetup (f : ChannelSetup) : s.ServedWell (serveChannelSetup f b s) := by
  unfold serveChannelSetup
  repeat' split
  · exact refuse s _
  · exact reply (.setChan s _ _) rfl fun _ => by simp
  · exact refuse s _

theorem State.ServedWell.trim (f : TrimBody) : s.ServedWell (serveTrim f b s) := by
  unfold serveTrim
  split
  · exact refuse s _
  · exact reply (.setChan s _ _) rfl fun _ => by simp

theorem State.ServedWell.muteRemote (f : MuteRemote) : s.ServedWell (serveMuteRemote f b s) := by
  unfold serveMuteRemote
  split
  · exact reply (.setChan s _ _) rfl fun _ => by simp
  · exact refuse s _

theorem State.ServedWell.level (f : LevelBody) : s.ServedWell (serveLevel f b s) := by
  refine ⟨?_, le_of_eq (by rw [serveLevel_link]), fun _ a ha => ?_⟩
  · unfold serveLevel
    split
    · exact (KeepsQueues.startLevel s _ _ _ _ _ _).trans (KeepsQueues.settledFrom _ s)
    · exact .refl s
  · unfold serveLevel at ha
    split at ha <;> cases ha
    · simp [Answer.mk']
    · exact Nat.zero_le _

/-! ### The cue list (R42, R50 to R56) -/

/-- A list that is edited in order leaves the queues and the pending lists. -/
theorem State.KeepsQueues.setCues {s t : State} (edited : t = s.setCues t.cues)
    (order : s.ListInOrder → t.ListInOrder) : s.KeepsQueues t := by
  refine ⟨order, ?_, ?_, ?_, fun _ => ?_, fun _ => ?_⟩ <;> (rw [edited]; exact id)

theorem State.ServedWell.cuePut (f : CuePut) : s.ServedWell (serveCuePut f b s) := by
  refine ⟨.setCues ?_ (KeepsShow.serveCuePut (leaves := true) b s f).order,
    le_of_eq (by rw [serveCuePut_link]), fun _ a ha => ?_⟩
  · unfold serveCuePut
    dsimp only
    repeat' split
    all_goals rfl
  · unfold serveCuePut at ha
    dsimp only at ha
    repeat' split at ha
    all_goals cases ha; simp [Answer.mk', Answer.bare]

theorem State.ServedWell.movesAdd (f : MovesAdd) : s.ServedWell (serveMovesAdd f b s) := by
  refine ⟨.setCues ?_ (KeepsShow.serveMovesAdd (leaves := true) b s f).order,
    le_of_eq (by rw [serveMovesAdd_link]), fun _ a ha => ?_⟩
  · unfold serveMovesAdd
    dsimp only
    repeat' split
    all_goals rfl
  · unfold serveMovesAdd at ha
    dsimp only at ha
    repeat' split at ha
    all_goals cases ha; simp [Answer.mk', movesAddReply]

theorem State.ServedWell.cueDelete (n : Nat) : s.ServedWell (serveCueDelete n b s) := by
  have order : s.ListInOrder → (s.setCues (removeCue s.cues n)).ListInOrder := fun h => h.removeCue n
  have removed : s.KeepsQueues ((s.playheadWithout n).setCues (removeCue s.cues n)) :=
    ⟨order, id, id, id, fun _ => id, fun _ => id⟩
  unfold serveCueDelete
  refine ifRefused _ _ fun _ => ifRefused _ _ fun _ => ifRefused _ _ fun _ => ifRefused _ _ fun _ =>
    reply ?_ (s.deleteCue_link n) fun _ => by simp
  unfold State.deleteCue
  dsimp only
  split
  · exact removed.trans (.setArm _ _)
  · exact removed

theorem State.ServedWell.listClear (u : Unit) : s.ServedWell (serveListClear u b s) := by
  unfold serveListClear
  refine ifRefused _ _ fun _ => ?_
  split
  · refine reply ?_ rfl fun _ => Nat.zero_le _
    exact ⟨fun _ => ⟨List.Pairwise.nil, Nat.zero_le _, Nat.zero_le _, nofun⟩, id, id, id, fun _ => id,
      fun _ => id⟩
  · exact refuse s _

/-! ### The show (R61 to R66, R69, R80 to R82, R87) -/

theorem State.ServedWell.showStart (u : Unit) : s.ServedWell (serveShowStart u b s) := by
  have placed (x : Option Nat) : (s.setShow .running).KeepsQueues
      ((s.setShow .running).setSeq { (s.setShow .running).seq with next := x }) := .of_eq
  unfold serveShowStart
  refine ifRefused _ _ fun _ => ifRefused _ _ fun _ => ifRefused _ _ fun _ =>
    reply (((KeepsQueues.setShow s _).trans (placed _)).trans (.setArm _ _)) ?_ fun _ => by simp [playheadBytes]
  exact s.setShow_link .running

theorem State.ServedWell.showEnd (u : Unit) : s.ServedWell (serveShowEnd u b s) := by
  have crossed : s.KeepsQueues (s.setSeq { s.seq with crossed := none }) := .of_eq
  unfold serveShowEnd
  exact ifRefused _ _ fun _ => ifRefused _ _ fun _ => ifRefused _ _ fun _ =>
    reply ((crossed.trans (.setArm _ _)).trans (.setShow _ _)) (State.setShow_link _ _) fun _ => Nat.zero_le _

theorem goReply_length (o : GoOutcome) : (goReply o).length = 6 := by
  unfold goReply
  split <;> simp

theorem State.ServedWell.go (n : Nat) : s.ServedWell (serveGo n b s) := by
  unfold serveGo
  dsimp only
  refine reply ?_ ?_ fun _ => by rw [goReply_length]; decide
  · split
    · exact .refl s
    · exact .go s _ _
  · split
    · rfl
    · exact (PlayFrame.go s _ _).link

theorem State.ServedWell.back (u : Unit) : s.ServedWell (serveBack u b s) :=
  reply (.back s) (PlayFrame.back s).link fun _ => by simp

theorem State.ServedWell.hold (u : Unit) : s.ServedWell (serveHold u b s) := by
  unfold serveHold
  split
  · exact reply (.holdShow s) (PlayFrame.holdShow s).link fun _ => Nat.zero_le _
  · exact refuse s _

theorem State.ServedWell.resume (u : Unit) : s.ServedWell (serveResume u b s) := by
  unfold serveResume
  split
  · exact reply (.resumeShow s) (PlayFrame.resumeShow s).link fun _ => Nat.zero_le _
  · exact refuse s _

theorem State.ServedWell.stop (u : Unit) : s.ServedWell (serveStop u b s) := by
  unfold serveStop
  split
  · exact reply (.clearShow s) (ShowFrame.clearShow s).link fun _ => by simp
  · exact refuse s _

theorem State.ServedWell.safe (u : Unit) : s.ServedWell (serveSafe u b s) :=
  reply (.enterSafe s) (PlayFrame.enterSafe s).link fun _ => Nat.zero_le _

theorem State.ServedWell.safeRelease (u : Unit) : s.ServedWell (serveSafeRelease u b s) := by
  unfold serveSafeRelease
  split
  · exact reply (.leaveSafe s) (PlayFrame.leaveSafe s).link fun _ => by simp
  · exact refuse s _

theorem State.ServedWell.goto (f : GotoBody) : s.ServedWell (serveGoto f b s) := by
  have scan (k : Option Scan) : s.KeepsQueues (s.setSeq { s.seq with scan := k }) := .of_eq
  unfold serveGoto
  exact ifRefused _ _ fun _ => ifRefused _ _ fun _ => ifRefused _ _ fun _ =>
    ⟨(scan _).trans (.setArm _ _), le_rfl, fun _ => nofun⟩

/-- At most 16 notices of six bytes each (R86, R87). -/
theorem State.ServedWell.noticesRead (n : Byte) : s.ServedWell (serveNoticesRead n b s) := by
  unfold serveNoticesRead
  refine ifRefused _ _ fun asked => ?_
  split
  · exact reply (.refl s) rfl fun _ => Nat.zero_le _
  · refine reply ⟨id, id, id, fun ⟨flight, notices, buffer⟩ => ⟨flight, ?_, buffer⟩, fun _ => id,
      fun _ => id⟩ rfl fun _ => ?_
    · rw [State.setSeq_seq, List.length_drop]
      omega
    · rw [List.length_append, length_flatMap_of_const noticeBytes_length, List.length_take, List.length_cons,
        List.length_singleton]
      omega

/-! ### Clock, surface, contacts and output (R126, R134, R135, R146, R155, R163, R170) -/

/-- The settings that are stored stand in their ranges (R126). -/
theorem ClockConfig.clamped_inRange (k : ClockConfig) : k.clamped.InRange := by
  unfold ClockConfig.InRange ClockConfig.clamped clampNat
  dsimp only
  omega

theorem State.ServedWell.clockSetup (f : ClockConfig) : s.ServedWell (serveClockSetup f b s) := by
  refine reply ((KeepsQueues.setClock s (k := { s.clock with cfg := f.clamped }) fun h => ?_).trans
    (.judgeTimers _)) (State.judgeTimers_link _) fun _ => by simp [clockSettings]
  obtain ⟨low, high, frac, whole, song, good, mark, wheel, errors, -⟩ := h
  exact ⟨low, high, frac, whole, song, good, mark, wheel, errors, f.clamped_inRange⟩

theorem State.ServedWell.surfaceSetup (f : SurfaceSetup) : s.ServedWell (serveSurfaceSetup f b s) := by
  refine ⟨?_, le_of_eq (by rw [serveSurfaceSetup_link]), fun _ a ha => ?_⟩
  · unfold serveSurfaceSetup
    split
    · exact .refl s
    · dsimp only
      split
      · exact .setSurface s _
      · exact ((KeepsQueues.setSurface s _).trans (.modeChanged _)).trans (.settledFrom _ s)
  · unfold serveSurfaceSetup at ha
    split at ha <;> cases ha
    · exact Nat.zero_le _
    · simp [Answer.mk', surfaceSettings]

theorem State.ServedWell.bankPut (f : BankPut) : s.ServedWell (serveBankPut f b s) := by
  refine ⟨?_, le_of_eq (by rw [serveBankPut_link]), fun _ a ha => ?_⟩
  · unfold serveBankPut
    repeat' split
    · exact .refl s
    · dsimp only
      split
      · exact (KeepsQueues.setSurface s _).trans (.applyBank _)
      · exact .setSurface s _
    · exact .refl s
  · unfold serveBankPut at ha
    repeat' split at ha
    all_goals cases ha; simp [Answer.mk', Answer.bare]

theorem State.ServedWell.bankSelect (k : Byte) : s.ServedWell (serveBankSelect k b s) := by
  refine ⟨?_, le_of_eq (by rw [serveBankSelect_link]), fun _ a ha => ?_⟩
  · unfold serveBankSelect
    split
    · exact .refl s
    · exact (KeepsQueues.setSurface s _).trans (.applyBank _)
  · unfold serveBankSelect at ha
    split at ha <;> cases ha <;> simp [Answer.mk', Answer.bare]

theorem State.ServedWell.contactSetup (f : ContactSetup) : s.ServedWell (serveContactSetup f b s) := by
  unfold serveContactSetup
  split
  · exact refuse s _
  · exact reply (.setContacts s _) rfl fun _ => by simp [contactSettings, Tab.size]

theorem State.ServedWell.outputSetup (f : OutputSetup) : s.ServedWell (serveOutputSetup f b s) := by
  unfold serveOutputSetup
  split
  · exact reply .of_eq rfl fun _ => by simp
  · exact refuse s _

theorem State.ServedWell.routePut (f : RoutePut) : s.ServedWell (serveRoutePut f b s) := by
  unfold serveRoutePut
  repeat' split
  · exact refuse s _
  · exact reply (.refl s) rfl fun _ => by simp
  · exact reply (.refl s) rfl fun _ => by simp
  · exact reply .of_eq rfl fun _ => by simp

end

end Sys2Proof.Machine
end

section
/-!
PROOF. O54 and O56: every command, and so every step, keeps the clock's figures and its point, the sizes of the
queues, the pending lists and the replies (R71, R76, R86, R91, R93, R113, R123, R126, R179, R180).
-/

namespace Sys2Proof.Machine

section
variable (s : State)

/-! ### Commands whose effect is written in their arm -/

theorem State.KeepsQueues.timeMark (song : Byte) (position : BitVec 32) (flags check : Byte) :
    ∃ u, execTimeMark song position flags check s = .next u ∧ s.KeepsQueues u := by
  refine ⟨_, rfl, ifTaken _ fun _ => ?_⟩
  dsimp only
  repeat' split
  · exact badMark s
  · exact badMark s
  all_goals rename_i good _
  · have good_song : song.toNat ≤ 99 := by omega
    have good_position : position.toNat ≤ 5999999 := by omega
    exact .trans (setClock s (k := { s.clock with receiver := .hunt }) id)
      (runningMark _ good_song good_position)
  · have good_song : song.toNat ≤ 99 := by omega
    have good_position : position.toNat ≤ 5999999 := by omega
    exact .trans (setClock s (k := { s.clock with receiver := .hunt }) id)
      (stoppedMark _ good_song good_position)

theorem State.KeepsQueues.passEnd (readings : Tab 16 (BitVec 10)) :
    ∃ u, execPassEnd readings s = .next u ∧ s.KeepsQueues u :=
  ⟨_, rfl, ifTaken _ fun _ => (setSurface s _).trans (foldl _ (fun t f => passFader t f readings) _ _)⟩

theorem State.KeepsQueues.waitExpiry : ∃ u, execWaitExpiry s = .next u ∧ s.KeepsQueues u := by
  refine ⟨_, rfl, ifTaken _ fun due => fireChain s _ (State.running_of_expiryDue ?_)⟩
  simp only [Bool.or_eq_true, not_or, Bool.not_eq_true', Bool.not_eq_false] at due
  exact due.2

/-- The reply that a GOTO has held back fits a message (R84, R180). -/
theorem State.KeepsQueues.answerGoto {r : Reply} (fits : r.payload.length ≤ 247) :
    s.KeepsQueues (s.setLink { s.link with buffer := answerGoto r s.link.buffer }) where
  order := id
  clock := id
  point := id
  fit := fun ⟨flight, notices, buffer⟩ => ⟨flight, notices, by simpa [Machine.answerGoto] using buffer⟩
  pending _ := id
  replies _ h e he p hp := by
    obtain ⟨x, hx, rfl⟩ := List.mem_map.mp he
    split at hp
    · cases hp
      exact fits
    · exact h x hx p hp

theorem State.KeepsQueues.gotoComplete : ∃ u, execGotoComplete s = .next u ∧ s.KeepsQueues u := by
  refine ⟨_, rfl, ifTaken _ fun _ => ?_⟩
  split
  · exact refl s
  · exact (loadScan s _).trans (answerGoto _ (by simp [playheadBytes]))

/-- The moves of a list that fall due together keep their order (R97). -/
theorem State.KeepsQueues.dueWithin (c : Chan) (d : Nat) :
    s.KeepsQueues (s.setChan c { s.chan c with waiting := dueWithin d (s.chan c).waiting }) := by
  refine ⟨id, id, id, id, fun _ h e => ?_, fun _ => id⟩
  by_cases own : c = e
  · subst own
    rw [State.setChan_chan_self]
    refine (h c).later (f := fun p => { p with delay := if p.delay ≤ d then 0 else p.delay })
      (fun _ => ⟨rfl, rfl⟩) (fun p q le => ?_) (.refl _)
    dsimp only
    split <;> split <;> omega
  · rw [State.setChan_chan_ne _ _ own]
    exact h e

theorem State.KeepsQueues.moveStart (c : Chan) : ∃ u, execMoveStart c s = .next u ∧ s.KeepsQueues u := by
  refine ⟨_, rfl, ifTaken _ fun _ => ?_⟩
  split
  · exact refl s
  · rename_i list
    rw [← list]
    split
    · exact ((dueWithin s c _).trans (startDue _ _ c)).trans (settledFrom _ s)
    · exact refl s

theorem State.KeepsQueues.moveComplete (c : Chan) :
    ∃ u, execMoveComplete c s = .next u ∧ s.KeepsQueues u := by
  refine ⟨_, rfl, ifTaken _ fun _ => ?_⟩
  repeat' split
  · exact refl s
  · exact (completeMove s c).trans (settledFrom _ s)
  · exact refl s

theorem State.KeepsQueues.replySend : ∃ u, execReplySend s = .next u ∧ s.KeepsQueues u := by
  refine ⟨_, rfl, ?_⟩
  repeat' split
  · exact refl s
  · exact setLink s _
  · exact refl s

/-- The end of a reply takes its request out of the buffer, and may bring the link restart about (R181,
R193). -/
theorem State.KeepsQueues.replyEnd : ∃ u, execReplyEnd s = .next u ∧ s.KeepsQueues u := by
  have tail {x : Link} (h : x.buffer = s.link.buffer.tail) : s.KeepsQueues (s.setLink x) := by
    refine ⟨id, id, id, fun ⟨flight, notices, buffer⟩ => ⟨flight, notices, ?_⟩, fun _ => id,
      fun _ fits e he => fits e ?_⟩
    · rw [State.setLink_link, h, List.length_tail]
      omega
    · rw [State.setLink_link, h] at he
      exact List.mem_of_mem_tail he
  refine ⟨_, rfl, ifTaken _ fun _ => ?_⟩
  dsimp only
  repeat' split
  · exact tail rfl
  · exact tail rfl
  · exact (tail rfl).trans (setLink _ _)
  · exact (tail rfl).trans (takeReset _ _)

theorem State.KeepsQueues.otherTraffic : ∃ u, execTrafficForOtherParts s = .next u ∧ s.KeepsQueues u := by
  refine ⟨_, rfl, ?_⟩
  repeat' split
  · exact setLink s _
  · exact linkFault s _ _
  · exact refl s

theorem State.KeepsQueues.requestOverrun : ∃ u, execRequestOverrun s = .next u ∧ s.KeepsQueues u := by
  refine ⟨_, rfl, ?_⟩
  split
  · exact ((setLink s _).trans (setLink s.goodRequest _)).trans (raise _ _)
  · exact refl s

theorem State.KeepsQueues.restart (d : Dest) (body : List Byte) :
    ∃ u, execRestart d body s = .next u ∧ s.KeepsQueues u := by
  refine ⟨_, rfl, receive s d _ fun b t => ?_⟩
  split
  · exact .sequenceIdle t _ (Nat.zero_le _)
  · exact .restart b t _

end

/-- Every command keeps the clock, the queues and the pending lists. -/
theorem State.KeepsQueues.exec (i : Instr) (s : State) : ∃ u, exec i s = .next u ∧ s.KeepsQueues u := by
  cases i with
  | nop => exact ⟨_, rfl, request s _ _ _ fun f b t => .query b t fun _ => Nat.zero_le _⟩
  | linkQuery =>
    exact ⟨_, rfl, request s _ _ _ fun f b t => .query b t fun _ => by simp [Answer.mk', linkReport]⟩
  | restartQuery =>
    exact ⟨_, rfl, request s _ _ _ fun f b t => .query b t fun _ => by simp [Answer.mk', restartReport]⟩
  | channelQuery => exact ⟨_, rfl, request s _ _ _ fun f b t => .query b t fun _ => channelAnswer_fits t f⟩
  | cueQuery => exact ⟨_, rfl, request s _ _ _ fun f b t => .query b t fun _ => cueAnswer_fits t f⟩
  | movesQuery => exact ⟨_, rfl, request s _ _ _ fun f b t => .query b t fun _ => movesAnswer_fits t f⟩
  | listQuery => exact ⟨_, rfl, request s _ _ _ fun f b t => .query b t fun _ => listAnswer_fits t f⟩
  | showQuery => exact ⟨_, rfl, request s _ _ _ fun _ b t => .query b t fun h => showReport_fits t h⟩
  | clockQuery => exact ⟨_, rfl, request s _ _ _ fun _ b t => .query b t fun _ => clockReport_fits t⟩
  | surfaceQuery => exact ⟨_, rfl, request s _ _ _ fun f b t => .query b t fun _ => surfaceAnswer_fits t f⟩
  | contactQuery => exact ⟨_, rfl, request s _ _ _ fun _ b t => .query b t fun _ => contactReport_fits t⟩
  | routeQuery => exact ⟨_, rfl, request s _ _ _ fun f b t => .query b t fun _ => routeAnswer_fits t f⟩
  | outputQuery => exact ⟨_, rfl, request s _ _ _ fun _ b t => .query b t fun _ => outputReport_fits t⟩
  | linkSetup => exact ⟨_, rfl, request s _ _ _ fun f b t => .linkSetup b t f⟩
  | eventsSetup => exact ⟨_, rfl, request s _ _ _ fun f b t => .eventsSetup b t f⟩
  | eventsRead => exact ⟨_, rfl, request s _ _ _ fun f b t => .eventsRead b t f⟩
  | restart => exact restart s _ _
  | channelSetup => exact ⟨_, rfl, request s _ _ _ fun f b t => .channelSetup b t f⟩
  | trim => exact ⟨_, rfl, request s _ _ _ fun f b t => .trim b t f⟩
  | muteRemote => exact ⟨_, rfl, request s _ _ _ fun f b t => .muteRemote b t f⟩
  | level => exact ⟨_, rfl, request s _ _ _ fun f b t => .level b t f⟩
  | cuePut => exact ⟨_, rfl, request s _ _ _ fun f b t => .cuePut b t f⟩
  | movesAdd => exact ⟨_, rfl, request s _ _ _ fun f b t => .movesAdd b t f⟩
  | cueDelete => exact ⟨_, rfl, request s _ _ _ fun f b t => .cueDelete b t f⟩
  | listClear => exact ⟨_, rfl, request s _ _ _ fun f b t => .listClear b t f⟩
  | showStart => exact ⟨_, rfl, request s _ _ _ fun f b t => .showStart b t f⟩
  | showEnd => exact ⟨_, rfl, request s _ _ _ fun f b t => .showEnd b t f⟩
  | go => exact ⟨_, rfl, request s _ _ _ (fun f b t => .go b t f) _ fun t => by
      rw [goUnfired, goReply_length]; decide⟩
  | back => exact ⟨_, rfl, request s _ _ _ (fun f b t => .back b t f) _ fun t => by simp [backUnmoved]⟩
  | hold => exact ⟨_, rfl, request s _ _ _ fun f b t => .hold b t f⟩
  | resume => exact ⟨_, rfl, request s _ _ _ fun f b t => .resume b t f⟩
  | stop => exact ⟨_, rfl, request s _ _ _ fun f b t => .stop b t f⟩
  | safe => exact ⟨_, rfl, request s _ _ _ fun f b t => .safe b t f⟩
  | safeRelease => exact ⟨_, rfl, request s _ _ _ fun f b t => .safeRelease b t f⟩
  | gotoCue => exact ⟨_, rfl, request s _ _ _ fun f b t => .goto b t f⟩
  | noticesRead => exact ⟨_, rfl, request s _ _ _ fun f b t => .noticesRead b t f⟩
  | clockSetup => exact ⟨_, rfl, request s _ _ _ fun f b t => .clockSetup b t f⟩
  | surfaceSetup => exact ⟨_, rfl, request s _ _ _ fun f b t => .surfaceSetup b t f⟩
  | bankPut => exact ⟨_, rfl, request s _ _ _ fun f b t => .bankPut b t f⟩
  | bankSelect => exact ⟨_, rfl, request s _ _ _ fun f b t => .bankSelect b t f⟩
  | contactSetup => exact ⟨_, rfl, request s _ _ _ fun f b t => .contactSetup b t f⟩
  | outputSetup => exact ⟨_, rfl, request s _ _ _ fun f b t => .outputSetup b t f⟩
  | routePut => exact ⟨_, rfl, request s _ _ _ fun f b t => .routePut b t f⟩
  | unknownType => exact ⟨_, rfl, receive s _ _ fun _ t => .sequenceIdle t _ (Nat.zero_le _)⟩
  | requestOverrun => exact requestOverrun s
  | linkFramingFault | linkGapFault | linkFormFault | linkCheckFault => exact ⟨_, rfl, linkFault s _ _⟩
  | replySend => exact replySend s
  | replyEnd => exact replyEnd s
  | linkSilence =>
    exact ⟨_, rfl, ifTaken _ fun _ => (setLink s { s.link with watchdog := .expired }).trans (raiseWithAct _ _)⟩
  | restartWindowLapse => exact ⟨_, rfl, ifTaken _ fun _ => sequenceIdle s⟩
  | powerOn => exact ⟨_, rfl, takePowerOn s _⟩
  | resetPin => exact ⟨_, rfl, ifTaken _ fun _ => resetPin s _⟩
  | resetPinRelease => exact ⟨_, rfl, of_eq⟩
  | timeMark => exact timeMark s _ _ _ _
  | markFramingFault | markGapFault => exact ⟨_, rfl, ifTaken _ fun _ => badMark s⟩
  | markTimeout => exact ⟨_, rfl, ifTaken _ fun _ => timeoutClock s⟩
  | freewheelLimit => exact ⟨_, rfl, ifTaken _ fun _ => loseClock s⟩
  | clockAdvance => exact ⟨_, rfl, ifTaken _ fun _ => millisecond s⟩
  | waitExpiry => exact waitExpiry s
  | gotoComplete => exact gotoComplete s
  | moveStart => exact moveStart s _
  | moveComplete => exact moveComplete s _
  | passEnd => exact passEnd s _
  | qualifiedTouch => exact ⟨_, rfl, ifTaken _ fun _ => (setSurface s _).trans (handOn _ _)⟩
  | qualifiedRelease => exact ⟨_, rfl, ifTaken _ fun _ => (setSurface s _).trans (handOff _ _)⟩
  | keyPress => exact ⟨_, rfl, ifTaken _ fun _ => (setSurface s _).trans (keyOn _ _)⟩
  | keyRelease => exact ⟨_, rfl, ifTaken _ fun _ => setSurface s _⟩
  | contactGoPress => exact ⟨_, rfl, press s .cgo⟩
  | contactBackPress => exact ⟨_, rfl, press s .cback⟩
  | contactHoldPress => exact ⟨_, rfl, press s .chold⟩
  | contactSafePress => exact ⟨_, rfl, press s .csafe⟩
  | contactRelease => exact ⟨_, rfl, ifTaken _ fun _ => setContacts s _⟩
  | frameEvent => exact ⟨_, rfl, ifTaken _ fun _ => frameEvent s⟩
  | sendEnd => exact ⟨_, rfl, ifTaken _ fun _ => sendEnd s _⟩
  | trafficForOtherParts => exact otherTraffic s

theorem State.KeepsQueues.of_exec {i : Instr} {s t : State} (h : Machine.exec i s = .next t) :
    s.KeepsQueues t := by
  obtain ⟨u, hu, k⟩ := exec i s
  cases hu.symm.trans h
  exact k

/-! ### The step -/

/-- A character that is judged reaches the receivers and the lines alone (R111, R176). -/
theorem State.KeepsQueues.nextCharacter {s t : State} {i : Option Instr}
    (h : s.nextCharacter = some (t, i)) : s.KeepsQueues t := by
  have link (x : LinkHeard) (rest : List LinkHeard) : s.KeepsQueues (s.judgeLink x rest).1 := by
    unfold State.judgeLink
    repeat' split
    all_goals exact of_eq
  have mark (x : MarkHeard) (rest : List MarkHeard) : s.KeepsQueues (s.judgeMark x rest).1 := by
    unfold State.judgeMark
    repeat' split
    · exact setClock s id
    · exact refl s
    · exact setClock s id
  unfold State.nextCharacter at h
  repeat' split at h
  · cases h
  · rename_i x rest _
    have k := link x rest
    rwa [Option.some.inj h] at k
  · rename_i x rest _ _
    have k := mark x rest
    rwa [Option.some.inj h] at k
  · cases h

/-- Every step: the command taken, the character judged, or the part's own event. -/
theorem State.KeepsQueues.step {s t : State} (h : Machine.step s = .next t) : s.KeepsQueues t := by
  unfold Machine.step at h
  repeat' split at h
  · rename_i rest _
    have taken : s.KeepsQueues (s.setPending rest) := of_eq
    exact taken.trans (of_exec h)
  · rename_i hc
    exact (nextCharacter hc).trans (of_exec h)
  · rename_i hc
    cases h
    exact nextCharacter hc
  · exact of_exec h
  · cases h
    exact refl s

/-- Settles O54: the relation that every step keeps. -/
theorem clockKept : Obligations.ClockKept := fun _ _ h =>
  ⟨(State.KeepsQueues.step h).clock, (State.KeepsQueues.step h).point⟩

/-- Settles O56: the relation that every step keeps. -/
theorem queuesKept : Obligations.QueuesKept := fun _ _ h =>
  ⟨(State.KeepsQueues.step h).fit, (State.KeepsQueues.step h).pending, (State.KeepsQueues.step h).replies⟩

end Sys2Proof.Machine
end

section
/-!
PROOF. The refusals of GO, the show requests SHOW_START, SHOW_END, HOLD, SAFE_RELEASE, STOP, SAFE and NOTICES_READ,
and the presses and releases of the cue contacts (R60 to R63, R65, R66, R69, R76, R81, R85, R87, R149 to R153).
-/

namespace Sys2Proof.Machine

/-! ### What a GO does, case by case (R68 to R70) -/

theorem State.gateOpen_eq_true {s : State} (h : s.contacts.cfg.guard ≤ s.seq.gateTime) : s.gateOpen = true :=
  decide_eq_true h

theorem State.gateOpen_eq_false {s : State} (h : s.seq.gateTime < s.contacts.cfg.guard) :
    s.gateOpen = false :=
  decide_eq_false (Nat.not_le.mpr h)

/-- What refuses a GO before next is looked at: a scan in flight, EDIT and SAFE, and the gate (R68, R69). -/
def State.GoBarred (s : State) (r : Result) : Prop :=
  r = .busy ∧ s.seq.scan ≠ none ∨
    r = .wrongState ∧ s.seq.scan = none ∧ (s.seq.state = .edit ∨ s.seq.state = .safe) ∨
    r = .guarded ∧ s.seq.scan = none ∧ (s.seq.state = .running ∨ s.seq.state = .hold) ∧
      s.seq.gateTime < s.contacts.cfg.guard

theorem State.go_barred {s : State} {r : Result} (cause : Cause) (expected : Nat) (why : s.GoBarred r) :
    s.go cause expected = ⟨s, r, none⟩ := by
  unfold State.go
  rcases why with ⟨rfl, scan⟩ | ⟨rfl, idle, still⟩ | ⟨rfl, idle, live, early⟩
  · rw [if_pos (State.scanning_iff.mpr scan)]
  · rw [State.scanning_of_none idle, if_neg Bool.false_ne_true]
    rcases still with state | state <;> rw [state]
  · rw [State.scanning_of_none idle, if_neg Bool.false_ne_true, State.gateOpen_eq_false early]
    rcases live with state | state <;> rw [state] <;> rfl

section
variable {s : State} (cause : Cause) (expected : Nat) (idle : s.seq.scan = none)
  (gate : s.contacts.cfg.guard ≤ s.seq.gateTime)
include idle gate

theorem State.go_hold (state : s.seq.state = .hold) : s.go cause expected =
    ⟨(s.setSeq { s.seq with gateTime := 0 }).resumeShow, .ok, none⟩ := by
  rw [State.go, State.scanning_of_none idle, if_neg Bool.false_ne_true, state]
  exact if_pos (State.gateOpen_eq_true gate)

variable (state : s.seq.state = .running)
include state

theorem State.go_end (none_next : s.seq.next = none) : s.go cause expected =
    ⟨s.raise .endOfList, .endOfList, none⟩ := by
  rw [State.go, State.scanning_of_none idle, if_neg Bool.false_ne_true, state, none_next]
  exact if_pos (State.gateOpen_eq_true gate)

theorem State.go_mismatch {n : Nat} (next : s.seq.next = some n) (other : expected ≠ 0 ∧ expected ≠ n) :
    s.go cause expected = ⟨s, .mismatch, none⟩ := by
  rw [State.go, State.scanning_of_none idle, if_neg Bool.false_ne_true, state, next]
  exact (if_pos (State.gateOpen_eq_true gate)).trans (if_pos other)

theorem State.go_fires {n : Nat} (next : s.seq.next = some n) (same : expected = 0 ∨ expected = n) :
    s.go cause expected =
      ⟨(s.setSeq { s.seq with gateTime := 0 }).fireChain cause, .ok, some (n, s.seq.nextId)⟩ := by
  rw [State.go, State.scanning_of_none idle, if_neg Bool.false_ne_true, state, next]
  exact (if_pos (State.gateOpen_eq_true gate)).trans (if_neg (by omega))

end

/-! ### Its two sources -/

/-- A request that its block answers leaves what the block leaves, with the answer in the buffer. -/
theorem State.request_replies {α : Type} {s t : State} (h : s.Open) {code : Byte} {parsed : Option α}
    {f : α} (hp : parsed = some f) {serve : α → Bool → State → Served} {carried : State → List Byte}
    {r : Result} {payload : List Byte} (served : serve f false s.heard = t.reply r payload) :
    (.next (s.request .own code parsed serve carried) : Host.Outcome State Fault Refusal) =
      .next (t.replying code r payload) :=
  State.request_answers h hp (by rw [served]; rfl)

/-- A request that its block refuses is heard and answered with the result alone. -/
theorem State.request_refuses {α : Type} {s : State} (h : s.Open) {code : Byte} {parsed : Option α}
    {f : α} (hp : parsed = some f) {serve : α → Bool → State → Served} {carried : State → List Byte}
    {r : Result} (served : serve f false s.heard = s.heard.refuse r) :
    (.next (s.request .own code parsed serve carried) : Host.Outcome State Fault Refusal) =
      .next (s.answeredBare code r) :=
  State.request_replies h hp served

theorem exec_go_badField {s : State} (h : s.Open) {x y : Byte} (high : 9999 < (x ++ y).toNat) :
    exec (.go .own [x, y]) s =
      .next (s.heard.replying 0x32 .badField (bytesOf 2 0 ++ bytesOf 2 0 ++ cueField s.seq.next)) :=
  State.request_replies h (congrArg some (natOf_pair x y)) (by rw [serveGo, if_pos high]; rfl)

theorem exec_go {s : State} (h : s.Open) {body : List Byte} {expected : Nat}
    (carries : parseNumber body = some expected) (low : expected ≤ 9999) {o : GoOutcome}
    (go : s.heard.go .goLink expected = o) :
    exec (.go .own body) s = .next (o.state.replying 0x32 o.result (goReply o)) :=
  State.request_replies h carries (by rw [serveGo, if_neg (Nat.not_lt.mpr low), go])

theorem exec_contactGoPress {s : State} (awake : s.resetLow = false)
    (released : (s.contact .cgo).qualified = false) {o : GoOutcome}
    (go : (s.contactChanged .cgo true).go .goContact 0 = o) :
    exec .contactGoPress s = .next (o.state.judgedPress o.result) := by
  show Host.Outcome.next (s.press .cgo State.contactGo) = _
  rw [State.press, awake, released, Bool.or_false, if_neg Bool.false_ne_true, State.contactGo, go]

/-- Settles O29: each check of a GO is met on the state as it stands. -/
theorem goRefused : Obligations.GoRefused := by
  refine fun s x y h => ?_
  have carries : parseNumber [x, y] = some (x ++ y).toNat := congrArg some (natOf_pair x y)
  refine ⟨fun r why => ?_, fun low idle state gate ended => ?_⟩
  · rcases why with ⟨rfl, high⟩ | ⟨low, why⟩
    · exact exec_go_badField h high
    have refused : s.heard.go .goLink (x ++ y).toNat = ⟨s.heard, r, none⟩ := by
      rcases why with busy | wrong | guarded | ⟨rfl, idle, state, gate, some_next, nonzero, other⟩
      · exact State.go_barred _ _ (.inl busy)
      · exact State.go_barred _ _ (.inr (.inl wrong))
      · exact State.go_barred _ _ (.inr (.inr guarded))
      · obtain ⟨n, next⟩ := Option.ne_none_iff_exists'.mp some_next
        exact State.go_mismatch (s := s.heard) _ _ idle gate state next
          ⟨nonzero, fun same => other (next.trans (congrArg some same.symm))⟩
    exact exec_go h carries low refused
  · rw [exec_go h carries low (State.go_end (s := s.heard) _ _ idle gate state ended), ← ended]
    rfl

/-! ### SHOW_START, SHOW_END and HOLD (R60 to R63) -/

theorem State.setShow_of_ne {s : State} {a : ShowState} (h : s.seq.state ≠ a) :
    s.setShow a = (s.setSeq { s.seq with state := a }).raise .stateChange := if_neg h

theorem ShowState.ne_of_eq {a b c : ShowState} (h : a = b) (other : b ≠ c := by decide) : a ≠ c := h ▸ other

section
variable {s : State} (b : Bool)

theorem serveShowStart_refused {r : Result} (why : r = .busy ∧ s.seq.scan ≠ none ∨ s.seq.scan = none ∧
    (r = .wrongState ∧ s.seq.state ≠ .edit ∨ r = .emptyList ∧ s.seq.state = .edit ∧ s.cues = [])) :
    serveShowStart () b s = s.refuse r := by
  unfold serveShowStart
  rcases why with ⟨rfl, scan⟩ | ⟨idle, ⟨rfl, state⟩ | ⟨rfl, state, empty⟩⟩
  · rw [if_pos (State.scanning_iff.mpr scan)]
  · rw [State.scanning_of_none idle, if_neg Bool.false_ne_true, if_pos state]
  · rw [State.scanning_of_none idle, if_neg Bool.false_ne_true, if_neg (not_not.mpr state),
      if_pos (List.isEmpty_iff.mpr empty)]

theorem serveShowEnd_refused {r : Result} (why : r = .busy ∧ s.seq.scan ≠ none ∨ s.seq.scan = none ∧
    (r = .wrongState ∧ s.seq.state ≠ .running ∨
      r = .inFlight ∧ s.seq.state = .running ∧ s.seq.flight ≠ [])) :
    serveShowEnd () b s = s.refuse r := by
  unfold serveShowEnd
  rcases why with ⟨rfl, scan⟩ | ⟨idle, ⟨rfl, state⟩ | ⟨rfl, state, flying⟩⟩
  · rw [if_pos (State.scanning_iff.mpr scan)]
  · rw [State.scanning_of_none idle, if_neg Bool.false_ne_true, if_pos state]
  · rw [State.scanning_of_none idle, if_neg Bool.false_ne_true, if_neg (not_not.mpr state),
      if_pos (by simpa using flying)]

theorem serveShowStart_begins {n : Nat} {q : Cue} (idle : s.seq.scan = none) (state : s.seq.state = .edit)
    (some_cue : s.cues ≠ []) (first : s.seq.next.or (firstCue s.cues) = some n)
    (found : findCue s.cues n = some q) {arm : Arm}
    (harm : arm = if q.trigger = .clock then .clock q.song q.position else .empty) :
    serveShowStart () b s =
      (((s.setSeq { s.seq with state := .running, next := some n, arm }).setClock
        { s.clock with point := arm.point }).raise .stateChange).reply .ok
          (bytesOf 2 n ++ cueField s.seq.standing) := by
  rw [serveShowStart, State.scanning_of_none idle, if_neg Bool.false_ne_true, if_neg (not_not.mpr state),
    if_neg (by simpa using some_cue), State.setShow_of_ne (ShowState.ne_of_eq state), harm,
    ← State.clockArm_eq (s := s.setSeq { s.seq with next := some n }) found]
  cases next : s.seq.next with
  | none =>
    rw [next, Option.none_or] at first
    simp only [State.raise_seq, State.setSeq_seq, State.raise_cues, State.setSeq_cues, next, first]
    rfl
  | some m =>
    obtain rfl : m = n := by simpa [next] using first
    simp only [State.raise_seq, State.setSeq_seq, next]
    rfl

theorem serveShowEnd_ends (idle : s.seq.scan = none) (state : s.seq.state = .running)
    (landed : s.seq.flight = []) : serveShowEnd () b s =
      (((s.setSeq { s.seq with state := .edit, arm := .empty, crossed := none }).setClock
        { s.clock with point := none }).raise .stateChange).reply .ok [] := by
  rw [serveShowEnd, State.scanning_of_none idle, if_neg Bool.false_ne_true, if_neg (not_not.mpr state),
    if_neg (by simp [landed])]
  exact congrArg (State.reply · .ok []) (State.setShow_of_ne (ShowState.ne_of_eq state))

theorem State.holdShow_running (state : s.seq.state = .running) :
    s.holdShow = (s.setSeq { s.seq with state := .hold }).raise .stateChange := by
  rw [State.holdShow, if_pos state, State.setShow_of_ne (ShowState.ne_of_eq state)]

end

/-- Settles O24: the three requests pass their checks, or one check refuses them. -/
theorem showStates : Obligations.ShowStates := by
  refine ⟨fun s n q h idle state some_cue first found => ⟨_, State.request_replies (f := ()) h rfl
      (serveShowStart_begins (s := s.heard) false idle state some_cue first found rfl), rfl⟩,
    fun s h idle state landed => State.request_replies (f := ()) h rfl
      (serveShowEnd_ends (s := s.heard) false idle state landed),
    fun s h state => State.request_replies (f := ()) h rfl ?_, fun s r h =>
      ⟨fun why => State.request_refuses (f := ()) h rfl (serveShowStart_refused (s := s.heard) false why),
        fun why => State.request_refuses (f := ()) h rfl (serveShowEnd_refused (s := s.heard) false why),
        fun state => State.request_refuses (f := ()) h rfl (if_neg state)⟩⟩
  exact (if_pos state).trans (congrArg (State.reply · .ok []) (State.holdShow_running (s := s.heard) state))

/-! ### SAFE_RELEASE (R66, R76, R85) -/

theorem exec_safeRelease {s t : State} (h : s.Open) (safe : s.seq.state = .safe) (left : s.heard.leaveSafe = t) :
    exec (.safeRelease .own []) s = .next (t.replying 0x38 .ok [t.seq.state.code]) := by
  subst left
  exact State.request_replies (f := ()) h rfl (if_pos safe)

theorem State.leaveSafe_edit {s : State} (safe : s.seq.state = .safe) (ret : s.seq.ret = .edit) :
    s.leaveSafe = (s.setSeq { s.seq with state := .edit }).raise .stateChange := by
  rw [State.leaveSafe, ret, State.setShow_of_ne (ShowState.ne_of_eq safe), ← ret]
  exact if_neg fun hold => absurd (ret.symm.trans hold.1) (by decide)

theorem State.leaveSafe_hold {s : State} (safe : s.seq.state = .safe) (ret : s.seq.ret = .hold) {t : State}
    (ht : t = (s.setSeq { s.seq with state := .hold, ret := .edit }).raise .stateChange) :
    s.leaveSafe = if s.seq.scan = none then t.setArm s.releaseArm else t := by
  rw [State.leaveSafe, ret, State.setShow_of_ne (ShowState.ne_of_eq safe), ht]
  exact if_congr (and_iff_right rfl) rfl rfl

theorem State.releaseArm_of_next {s : State} {q : Cue} (h : s.nextCue = some q) :
    s.releaseArm = match q.trigger with
      | .manual => .empty
      | .follow | .withCue => .waiting (q.wait * 65536) q.base
      | .clock => .clock q.song q.position := by
  cases trigger : q.trigger <;> simp only [State.releaseArm, h, trigger]

/-- Settles O27: the return state is EDIT or HOLD, and HOLD sets the arm. -/
theorem safeReleased : Obligations.SafeReleased := by
  refine ⟨fun s h safe => ⟨fun ret => ?_, fun ret scan => ?_, fun ret idle => ⟨s.releaseArm, ?_, fun ended => ?_,
    fun n q next found => State.releaseArm_of_next (by rw [State.nextCue, next]; exact found)⟩⟩,
    fun s h state => State.request_refuses (f := ()) h rfl (if_neg state)⟩
  · exact exec_safeRelease h safe (State.leaveSafe_edit (s := s.heard) safe ret)
  · exact exec_safeRelease h safe ((State.leaveSafe_hold (s := s.heard) safe ret rfl).trans (if_neg scan))
  · exact exec_safeRelease h safe ((State.leaveSafe_hold (s := s.heard) safe ret rfl).trans (if_pos idle))
  · rw [State.releaseArm, State.nextCue, ended]
    rfl

/-! ### NOTICES_READ (R87) -/

/-- Settles O34: the queue is cut at the count asked for. -/
theorem noticesHandedOut : Obligations.NoticesHandedOut := by
  refine ⟨fun s n h low high => ⟨s.seq.notices.take n, s.seq.notices.drop n,
    (List.take_append_drop n _).symm, List.length_take, ?_⟩, fun s k h bad => ?_⟩
  · have count : (byte n).toNat = n := toNat_byte (by omega)
    refine State.request_replies (f := byte n) h rfl ?_
    rw [serveNoticesRead, count, if_neg (by omega), if_neg Bool.false_ne_true]
    rfl
  · exact State.request_refuses (f := k) h rfl (if_pos (by omega))

/-! ### STOP and SAFE (R65, R81, R86, R108) -/

/-- What a clearing writes but for the overflow's event: the channels without moves, the sequencer without firings,
arm and crossing, one notice for each firing while there is room for `room`, the `lost` others counted, and no clock
point (R65, R81, R86, R108). -/
def State.clearing (s : State) (room lost : Nat) : State :=
  ((s.setChannels (s.channels.map fun r => { r with active := none, waiting := [] })).setSeq { s.seq with
    flight := [], arm := .empty, crossed := none
    overflow := max s.seq.overflow (min 255 (s.seq.overflow + lost))
    notices := s.seq.notices ++ (s.seq.flight.take room).map fun f =>
      { kind := .cleared, cue := f.cue, firing := f.id, cause := none } }).setClock
        { s.clock with point := none }

theorem State.clearShow_told (s : State) {room lost : Nat} (hroom : room = 16 - s.seq.notices.length)
    (hlost : lost = s.seq.flight.length - room) :
    s.clearShow =
      if lost = 0 then s.clearing room lost else (s.clearing room lost).raise .noticeOverflow := by
  rw [State.clearShow, ← List.foldl_map (g := State.notify) (f := fun f : Firing =>
      { kind := .cleared, cue := f.cue, firing := f.id, cause := none }),
    State.notify_all _ (s.setChannels (s.channels.map Channel.cleared)) room lost hroom
      (by rw [List.length_map]; exact hlost), ← List.map_take]
  split <;> rfl

/-- What a clearing leaves of the sequencer (R65, R81, R108). -/
theorem State.clearShow_seq (s : State) : s.clearShow.seq = { s.seq with
    flight := [], arm := .empty, crossed := none
    overflow := s.clearShow.seq.overflow, notices := s.clearShow.seq.notices } := by
  rw [s.clearShow_told rfl rfl]
  split <;> rfl

theorem State.enterSafe_clears {s : State} (h : s.seq.state ≠ .safe) : s.enterSafe =
    ((s.setSeq { s.seq with state := .safe, ret := if s.seq.state = .edit then .edit else .hold }).raise
      .stateChange).clearShow := by
  rw [State.enterSafe, if_neg h]
  exact congrArg State.clearShow (State.setShow_of_ne
    (s := s.setSeq { s.seq with ret := if s.seq.state = .edit then .edit else .hold }) h)

theorem State.raise_comm (s : State) (e f : Event) : (s.raise e).raise f = (s.raise f).raise e := by
  simp [State.raise, BitVec.or_assoc, BitVec.or_comm e.mask]

/-- SAFE is entered on top of the clearing of STOP (R65). -/
theorem State.enterSafe_told {s : State} {room lost : Nat} (hroom : room = 16 - s.seq.notices.length)
    (hlost : lost = s.seq.flight.length - room) (h : s.seq.state ≠ .safe) :
    s.enterSafe = (s.clearShow.setSeq { s.clearShow.seq with
      state := .safe, ret := if s.seq.state = .edit then .edit else .hold }).raise .stateChange := by
  have entered := State.clearShow_told ((s.setSeq { s.seq with
    state := .safe, ret := if s.seq.state = .edit then .edit else .hold }).raise .stateChange) hroom hlost
  rw [State.enterSafe_clears h, entered, State.clearShow_told s hroom hlost]
  by_cases all : lost = 0
  · rw [if_pos all, if_pos all]
    rfl
  · rw [if_neg all, if_neg all]
    exact State.raise_comm ((s.clearing room lost).setSeq { (s.clearing room lost).seq with
      state := .safe, ret := if s.seq.state = .edit then .edit else .hold }) .stateChange .noticeOverflow

/-- Settles O26: both clear the same, and SAFE then changes the state. -/
theorem stopAndSafeClear : Obligations.StopAndSafeClear := by
  refine ⟨fun s room lost h hroom hlost kept cleared hkept hcleared => ?_, fun s h =>
    ⟨fun safe => State.request_replies (f := ()) h rfl
      (congrArg (State.reply · .ok []) (if_pos (show s.heard.seq.state = .safe from safe))),
    fun still => State.request_refuses (f := ()) h rfl (if_neg ?_)⟩⟩
  · have told : s.heard.clearShow = cleared.heard := by
      rw [State.clearShow_told s.heard hroom hlost, hcleared, hkept]
      split <;> rfl
    refine ⟨fun live => State.request_replies (f := ()) h rfl ?_,
      fun state => State.request_replies (f := ()) h rfl ?_⟩
    · rw [serveStop, if_pos (show s.heard.seq.state = .running ∨ s.heard.seq.state = .hold from live), told]
      rfl
    · rw [serveSafe, State.enterSafe_told (s := s.heard) hroom hlost state, told]
      rfl
  · rcases still with edit | safe
    · rw [show s.heard.seq.state = .edit from edit]
      decide
    · rw [show s.heard.seq.state = .safe from safe]
      decide

/-! ### The cue contacts (R149 to R153) -/

theorem State.contactChanged_count (s : State) (l : ContactLine) (active : Bool) :
    ((s.contactChanged l active).contact l).count = 0 := by
  simp [State.contact, State.contactChanged]

theorem State.contactChanged_seq (s : State) (l : ContactLine) (active : Bool) :
    (s.contactChanged l active).seq = s.seq := rfl

theorem ContactLine.index_injective {k l : ContactLine} (h : k.index = l.index) : k = l := by
  cases k <;> cases l <;> first | rfl | cases h

theorem State.contactChanged_other (s : State) {k l : ContactLine} (active : Bool) (other : k ≠ l) :
    (s.contactChanged l active).contact k = s.contact k :=
  Tab.get_set_ne _ _ fun h => other (ContactLine.index_injective h.symm)

theorem State.press_released {s : State} {l : ContactLine} (awake : s.resetLow = false)
    (released : (s.contact l).qualified = false) (act : State → State) :
    s.press l act = act (s.contactChanged l true) := by
  rw [State.press, awake, released, Bool.or_false, if_neg Bool.false_ne_true]

section
variable {s : State} (awake : s.resetLow = false)
include awake

theorem exec_contactRelease {l : ContactLine} (active : (s.contact l).qualified = true) :
    exec (.contactRelease l) s = .next (s.contactChanged l false) := by
  show Host.Outcome.next (if s.resetLow || !(s.contact l).qualified then s else _) = _
  rw [awake, active, Bool.not_true, Bool.or_false, if_neg Bool.false_ne_true]

theorem contactHoldPress_holds (released : (s.contact .chold).qualified = false) :
    ∃ t, exec .contactHoldPress s = .next t ∧
      (t.contact .chold).qualified = true ∧ t.contacts.ignored = s.contacts.ignored ∧
      (s.seq.state = .running → t = ((s.setContacts t.contacts).setSeq
        { s.seq with state := .hold }).raise .stateChange) ∧
      (s.seq.state ≠ .running → t = s.setContacts t.contacts) := by
  have line := s.contactChanged_qualified .chold true
  have kept := (State.PlayFrame.holdShow (s.contactChanged .chold true)).contacts
  refine ⟨_, congrArg Host.Outcome.next (State.press_released awake released _), ?_, ?_, fun state => ?_,
    fun state => ?_⟩
  · rw [State.contact, kept]
    exact line
  · rw [kept]
    rfl
  · rw [kept]
    exact State.holdShow_running (s := s.contactChanged .chold true) state
  · rw [kept]
    exact if_neg state

theorem contactSafePress_enters (released : (s.contact .csafe).qualified = false) :
    ∃ t, exec .contactSafePress s = .next t ∧
      (t.contact .csafe).qualified = true ∧ t.contacts.ignored = s.contacts.ignored ∧
      t.seq.state = .safe ∧ t.seq.next = s.seq.next ∧ t.seq.standing = s.seq.standing ∧
      (s.seq.state = .safe → t = s.setContacts t.contacts) ∧
      (s.seq.state = .edit → t.seq.ret = .edit) ∧
      (s.seq.state = .running ∨ s.seq.state = .hold → t.seq.ret = .hold) ∧
      (s.seq.state ≠ .safe → t.seq.flight = [] ∧ t.seq.arm = .empty ∧
        ∀ c, (t.chan c).active = none ∧ (t.chan c).waiting = [] ∧
          (t.chan c).level = (s.chan c).level) := by
  have line := s.contactChanged_qualified .csafe true
  have kept := (State.PlayFrame.enterSafe (s.contactChanged .csafe true)).contacts
  obtain ⟨state, ret⟩ := State.enterSafe_state (s.contactChanged .csafe true)
  refine ⟨_, congrArg Host.Outcome.next (State.press_released awake released _), ?_, ?_, state, ?_⟩
  · rw [State.contact, kept]
    exact line
  · rw [kept]
    rfl
  by_cases safe : s.seq.state = .safe
  · have stays : (s.contactChanged .csafe true).enterSafe = s.contactChanged .csafe true := if_pos safe
    rw [stays]
    refine ⟨rfl, rfl, fun _ => rfl, fun edit => ?_, fun live => ?_, fun other => absurd safe other⟩
    · exact absurd (safe.symm.trans edit) (by decide)
    · rw [safe] at live
      exact absurd live (by decide)
  · have entered := State.enterSafe_clears (s := s.contactChanged .csafe true) safe
    rw [State.contactChanged_seq, if_neg safe] at ret
    refine ⟨?_, ?_, fun other => absurd other safe, fun edit => ret.trans (if_pos edit),
      fun live => ret.trans (if_neg ?_), fun _ => ?_⟩
    · rw [entered, State.clearShow_seq]
      rfl
    · rw [entered, State.clearShow_seq]
      rfl
    · rcases live with live | live <;> rw [live] <;> decide
    · rw [entered, State.clearShow_seq]
      refine ⟨rfl, rfl, fun c => ?_⟩
      rw [State.clearShow_chan]
      exact ⟨rfl, rfl, rfl⟩

theorem contactGoPress_refused (released : (s.contact .cgo).qualified = false) {r : Result}
    (refused : r ≠ .ok) {t : State} (go : (s.contactChanged .cgo true).go .goContact 0 = ⟨t, r, none⟩) :
    exec .contactGoPress s = .next t.ignorePress := by
  rw [exec_contactGoPress awake released go, State.judgedPress, if_neg refused]

end

/-- Settles O47: each press does its act on the line it has changed. -/
theorem contactPresses : Obligations.ContactPresses := by
  refine fun s awake => ⟨fun l active => ⟨_, exec_contactRelease awake active, rfl,
      s.contactChanged_qualified l false, s.contactChanged_count l false, rfl,
      fun k other => s.contactChanged_other false other⟩,
    contactHoldPress_holds awake, contactSafePress_enters awake,
    fun released => ⟨fun why => ?_, fun idle state gate ended => ?_⟩⟩
  all_goals have line := s.contactChanged_qualified .cgo true
  · obtain ⟨r, refused, barred⟩ : ∃ r, r ≠ .ok ∧ (s.contactChanged .cgo true).GoBarred r := by
      by_cases idle : s.seq.scan = none
      · by_cases still : s.seq.state = .edit ∨ s.seq.state = .safe
        · exact ⟨.wrongState, by decide, .inr (.inl ⟨rfl, idle, still⟩)⟩
        · refine ⟨.guarded, by decide, .inr (.inr ⟨rfl, idle, ?_, ?_⟩)⟩
          · show s.seq.state = .running ∨ s.seq.state = .hold
            cases state : s.seq.state <;> simp_all
          · rcases why with scan | edit | safe | early
            · exact absurd idle scan
            · exact absurd (.inl edit) still
            · exact absurd (.inr safe) still
            · exact early
      · exact ⟨.busy, by decide, .inl ⟨rfl, idle⟩⟩
    exact ⟨_, contactGoPress_refused awake released refused (State.go_barred _ _ barred), rfl, rfl, line⟩
  · exact ⟨_, contactGoPress_refused awake released (by decide)
      (State.go_end (s := s.contactChanged .cgo true) _ _ idle gate state ended), rfl, rfl, line⟩

end Sys2Proof.Machine
end

section
/-!
SUPPORT. Which body lengths each parser takes (R197), and the rule that a request's type code fixes for every body:
how it is judged, what it leaves of the link, and what a broadcast of it does otherwise (R174, R178, R180, R193).
-/

namespace Sys2Proof.Machine

/-! ### Body lengths (R178, R197) -/

/-- A parser that takes every body of `n` bytes and no other. -/
theorem parse_eq_none {α : Type} {parse : List Byte → Option α} (n : Nat)
    (length : ∀ body f, parse body = some f → body.length = n)
    (takes : ∀ v : Fin n → Byte, (parse (List.ofFn v)).isSome = true) (body : List Byte) :
    parse body = none ↔ body.length ≠ n := by
  constructor
  · rintro refused rfl
    have taken := takes body.get
    rw [List.ofFn_get, refused] at taken
    cases taken
  · intro other
    cases parsed : parse body with
    | none => rfl
    | some f => exact absurd (length body f parsed) other

theorem parseEmpty_eq_none : ∀ body, parseEmpty body = none ↔ body.length ≠ 0 :=
  parse_eq_none 0 (fun body f h => by unfold parseEmpty at h; split at h <;> trivial) fun _ => rfl

theorem parseByte_eq_none : ∀ body, parseByte body = none ↔ body.length ≠ 1 :=
  parse_eq_none 1 (fun body f h => by unfold parseByte at h; split at h <;> trivial) fun _ => rfl

theorem parseNumber_eq_none : ∀ body, parseNumber body = none ↔ body.length ≠ 2 :=
  parse_eq_none 2 (fun body f h => by unfold parseNumber at h; split at h <;> trivial) fun _ => rfl

theorem parseLinkSetup_eq_none : ∀ body, parseLinkSetup body = none ↔ body.length ≠ 3 :=
  parse_eq_none 3 (fun body f h => by unfold parseLinkSetup at h; split at h <;> trivial) fun _ => rfl

theorem parseEventsSetup_eq_none : ∀ body, parseEventsSetup body = none ↔ body.length ≠ 7 :=
  parse_eq_none 7 (fun body f h => by unfold parseEventsSetup at h; split at h <;> trivial) fun _ => rfl

theorem parseChannelSetup_eq_none : ∀ body, parseChannelSetup body = none ↔ body.length ≠ 11 :=
  parse_eq_none 11 (fun body f h => by unfold parseChannelSetup at h; split at h <;> trivial) fun _ => rfl

theorem parseTrim_eq_none : ∀ body, parseTrim body = none ↔ body.length ≠ 3 :=
  parse_eq_none 3 (fun body f h => by unfold parseTrim at h; split at h <;> trivial) fun _ => rfl

theorem parseMuteRemote_eq_none : ∀ body, parseMuteRemote body = none ↔ body.length ≠ 2 :=
  parse_eq_none 2 (fun body f h => by unfold parseMuteRemote at h; split at h <;> trivial) fun _ => rfl

theorem parseLevel_eq_none : ∀ body, parseLevel body = none ↔ body.length ≠ 7 :=
  parse_eq_none 7 (fun body f h => by unfold parseLevel at h; split at h <;> trivial) fun _ => rfl

theorem parseCuePut_eq_none : ∀ body, parseCuePut body = none ↔ body.length ≠ 12 :=
  parse_eq_none 12 (fun body f h => by unfold parseCuePut at h; split at h <;> trivial) fun _ => rfl

theorem parseMovesQuery_eq_none : ∀ body, parseMovesQuery body = none ↔ body.length ≠ 4 :=
  parse_eq_none 4 (fun body f h => by unfold parseMovesQuery at h; split at h <;> trivial) fun _ => rfl

theorem parseListQuery_eq_none : ∀ body, parseListQuery body = none ↔ body.length ≠ 3 :=
  parse_eq_none 3 (fun body f h => by unfold parseListQuery at h; split at h <;> trivial) fun _ => rfl

theorem parseGoto_eq_none : ∀ body, parseGoto body = none ↔ body.length ≠ 4 :=
  parse_eq_none 4 (fun body f h => by unfold parseGoto at h; split at h <;> trivial) fun _ => rfl

theorem parseClockSetup_eq_none : ∀ body, parseClockSetup body = none ↔ body.length ≠ 10 :=
  parse_eq_none 10 (fun body f h => by unfold parseClockSetup at h; split at h <;> trivial) fun _ => rfl

theorem parseSurfaceSetup_eq_none : ∀ body, parseSurfaceSetup body = none ↔ body.length ≠ 5 :=
  parse_eq_none 5 (fun body f h => by unfold parseSurfaceSetup at h; split at h <;> trivial) fun _ => rfl

theorem parseContactSetup_eq_none : ∀ body, parseContactSetup body = none ↔ body.length ≠ 7 :=
  parse_eq_none 7 (fun body f h => by unfold parseContactSetup at h; split at h <;> trivial) fun _ => rfl

theorem parseOutputSetup_eq_none : ∀ body, parseOutputSetup body = none ↔ body.length ≠ 5 :=
  parse_eq_none 5 (fun body f h => by unfold parseOutputSetup at h; split at h <;> trivial) fun _ => rfl

theorem parseRoutePut_eq_none : ∀ body, parseRoutePut body = none ↔ body.length ≠ 3 :=
  parse_eq_none 3 (fun body f h => by unfold parseRoutePut at h; split at h <;> trivial) fun _ => rfl

theorem parseBankPut_eq_none (body : List Byte) : parseBankPut body = none ↔ body.length ≠ 17 := by
  cases body <;> simp [parseBankPut]

theorem parseEntries_length {rest : List Byte} {es : List MoveEntry} (h : parseEntries rest = some es) :
    rest.length = 10 * es.length := by
  fun_induction parseEntries rest generalizing es with
  | case1 =>
    cases h
    rfl
  | case2 => cases h
  | case3 _ _ _ _ _ _ _ _ _ _ _ es' parsed ih =>
    cases h
    have := ih parsed
    simp only [List.length_cons]
    omega
  | case4 => cases h

theorem parseMovesAdd_eq_none (body : List Byte) :
    parseMovesAdd body = none ↔ ¬ (12 ≤ body.length ∧ body.length ≤ 242 ∧ body.length % 10 = 2) := by
  match body with
  | [] => exact ⟨fun _ => by simp, fun _ => rfl⟩
  | [_] => exact ⟨fun _ => by simp, fun _ => rfl⟩
  | n1 :: n0 :: rest =>
    simp only [parseMovesAdd, List.length_cons]
    split
    · rename_i refused
      refine ⟨fun _ whole => ?_, fun _ => rfl⟩
      obtain ⟨es, taken, -⟩ := parseEntries_whole (rest := rest) (j := rest.length / 10) (by omega)
      exact absurd (refused.symm.trans taken) nofun
    · rename_i es taken
      have := parseEntries_length taken
      split <;> simp <;> omega

/-! ### How a request of each type is judged -/

theorem State.sequenceIdle_link (s : State) : s.sequenceIdle.link = s.link := by
  unfold State.sequenceIdle
  split <;> rfl

theorem State.carried_of_ne (s : State) {code : Byte} (go : code ≠ 0x32) (back : code ≠ 0x33) :
    s.carried code = [] := by
  rw [State.carried, if_neg go, if_neg back]

/-- How the requests of one type code with one body are judged: `rule` serves them. A wrong length and a restart
sequence under way are answered so (R178, R193); but for LINK_SETUP and RESTART the link is left as it is, but for a
RESTART in STEP2 the buffer; and but for four types a broadcast is served as an addressed request is (R174, R180). -/
structure RequestRule (code : Byte) (body : List Byte) (rule : Bool → State → Served) : Prop where
  runs : ∀ d s, exec (requestOf code d body) s = .next (s.receive d code rule)
  badLength : typeCodes.contains code = true → lengthAllowed code body.length = false → ∀ b t,
    rule b t = t.sequenceIdle.reply .badLength (t.carried code)
  sequence : typeCodes.contains code = true → code ≠ 0x0A → lengthAllowed code body.length = true →
    ∀ b t, t.stepping = true → rule b t = t.sequenceIdle.reply .sequence (t.carried code)
  buffer : ∀ t, (rule true t).state.link.buffer = t.link.buffer ∨
    ((rule true t).state.link.buffer = [] ∧ t.events.sequence = .step2)
  link : code ≠ 0x02 → code ≠ 0x0A → ∀ b t, (rule b t).state.link = t.link
  same : code ≠ 0x02 → code ≠ 0x09 → code ≠ 0x0A → code ≠ 0x3A → ∀ t, rule true t = rule false t

theorem judge_state_link {α : Type} (parsed : Option α) (serve : α → State → Served) (t : State)
    (carried : State → List Byte) (kept : ∀ f, (serve f t).state.link.buffer = t.link.buffer) :
    (judge parsed serve t carried).state.link.buffer = t.link.buffer := by
  unfold judge
  split
  · exact congrArg Link.buffer t.sequenceIdle_link
  · split
    · exact congrArg Link.buffer t.sequenceIdle_link
    · exact kept _

section
variable {α : Type} {code : Byte} {body : List Byte} {parsed : Option α} {serve : α → Bool → State → Served}
  {carried : State → List Byte}

/-- The rule of a request that is parsed, judged and served by its block. -/
theorem RequestRule.judged
    (runs : ∀ d s, exec (requestOf code d body) s = .next (s.request d code parsed serve carried))
    (allowed : lengthAllowed code body.length = false ↔ parsed = none)
    (payload : ∀ t, carried t = t.carried code)
    (buffer : ∀ f t, (serve f true t).state.link.buffer = t.link.buffer)
    (link : code ≠ 0x02 → ∀ f b t, (serve f b t).state.link = t.link)
    (same : code ≠ 0x02 → code ≠ 0x09 → code ≠ 0x3A → ∀ f t, serve f true t = serve f false t) :
    RequestRule code body fun b t => judge parsed (fun f u => serve f b u) t carried where
  runs := runs
  badLength _ bad b t := by rw [allowed.mp bad, judge, payload]
  sequence _ _ good b t stepping := by
    cases parsed with
    | none => rw [allowed.mpr rfl] at good; cases good
    | some f => rw [judge, if_pos stepping, payload]
  buffer t := .inl (judge_state_link _ _ _ _ fun f => buffer f t)
  link other _ b t := by
    unfold judge
    split
    · exact t.sequenceIdle_link
    · split
      · exact t.sequenceIdle_link
      · exact link other _ b t
  same h2 h9 _ h3A t := congrArg (judge parsed · t carried) (funext fun f => funext fun u => same h2 h9 h3A f u)

/-- The rule of a request whose block keeps the link, and serves a broadcast as an addressed request. -/
theorem RequestRule.served {n : Nat} (runs : ∀ d s, exec (requestOf code d body) s =
      .next (s.request d code parsed serve carried))
    (allowed : lengthAllowed code body.length = (body.length == n)) (parses : parsed = none ↔ body.length ≠ n)
    (payload : ∀ t, carried t = t.carried code) (link : ∀ f b t, (serve f b t).state.link = t.link)
    (same : ∀ f t, serve f true t = serve f false t := by intros; rfl) :
    RequestRule code body fun b t => judge parsed (fun f u => serve f b u) t carried :=
  .judged runs (by rw [allowed, parses, beq_eq_false_iff_ne]) payload (fun f t => congrArg _ (link f true t))
    (fun _ => link) fun _ _ _ => same

end

theorem RequestRule.query {α : Type} {code : Byte} {body : List Byte} {parsed : Option α} {n : Nat}
    {answer : α → State → Answer}
    (runs : ∀ d s, exec (requestOf code d body) s = .next (s.request d code parsed (query answer)))
    (allowed : lengthAllowed code body.length = (body.length == n)) (parses : parsed = none ↔ body.length ≠ n)
    (payload : ∀ t : State, [] = t.carried code := by intros; rfl) :
    RequestRule code body fun b t => judge parsed (fun f u => Machine.query answer f b u) t fun _ => [] :=
  .served runs allowed parses payload fun _ _ _ => rfl

section
variable (body : List Byte)

/-- A broadcast LINK_SETUP is in force at once, and an addressed one at the end of its reply (R184). -/
theorem RequestRule.linkSetup : RequestRule 0x02 body fun b t =>
    judge (parseLinkSetup body) (fun f u => serveLinkSetup f b u) t :=
  .judged (carried := fun _ => []) (fun _ _ => rfl)
    (by rw [parseLinkSetup_eq_none, ← beq_eq_false_iff_ne]; rfl) (fun _ => rfl) (fun _ _ => rfl)
    (absurd rfl) fun other => absurd rfl other

/-- A broadcast EVENTS_READ clears nothing (R191). -/
theorem RequestRule.eventsRead : RequestRule 0x09 body fun b t =>
    judge (parseByte body) (fun f u => serveEventsRead f b u) t :=
  .judged (carried := fun _ => []) (fun _ _ => rfl)
    (by rw [parseByte_eq_none, ← beq_eq_false_iff_ne]; rfl) (fun _ => rfl)
    (fun f t => congrArg _ (serveEventsRead_link f true t)) (fun _ => serveEventsRead_link)
    fun _ other => absurd rfl other

/-- A broadcast NOTICES_READ removes nothing (R87). -/
theorem RequestRule.noticesRead : RequestRule 0x3A body fun b t =>
    judge (parseByte body) (fun f u => serveNoticesRead f b u) t :=
  .judged (carried := fun _ => []) (fun _ _ => rfl)
    (by rw [parseByte_eq_none, ← beq_eq_false_iff_ne]; rfl) (fun _ => rfl)
    (fun f t => congrArg _ (serveNoticesRead_link f true t)) (fun _ => serveNoticesRead_link)
    fun _ _ other => absurd rfl other

/-- MOVES_ADD has bodies of 24 lengths (R53, R197). -/
theorem RequestRule.movesAdd : RequestRule 0x21 body fun b t =>
    judge (parseMovesAdd body) (fun f u => serveMovesAdd f b u) t :=
  .judged (carried := fun _ => []) (fun _ _ => rfl)
    (by rw [parseMovesAdd_eq_none]; exact decide_eq_false_iff_not) (fun _ => rfl)
    (fun f t => congrArg _ (serveMovesAdd_link f true t)) (fun _ => serveMovesAdd_link)
    fun _ _ _ _ _ => rfl

theorem serveRestart_buffer (step : Nat) (t : State) :
    (serveRestart step true t).state.link.buffer = t.link.buffer ∨
      ((serveRestart step true t).state.link.buffer = [] ∧ t.events.sequence = .step2) := by
  unfold serveRestart
  split
  · exact .inl (congrArg Link.buffer t.sequenceIdle_link)
  split
  case h_3 restarting =>
    split
    · exact .inr ⟨rfl, restarting⟩
    · exact .inl rfl
  case h_4 => exact .inl rfl
  all_goals split <;> exact .inl rfl

/-- RESTART is served in every state of the restart sequence; a broadcast step 3 empties the buffer with the
restart (R193). -/
theorem RequestRule.restart : RequestRule 0x0A body fun b t =>
    match parseByte body with
    | none => t.sequenceIdle.refuse .badLength
    | some k => serveRestart k.toNat b t where
  runs _ _ := rfl
  badLength _ bad b t := by
    rw [(parseByte_eq_none body).mpr (beq_eq_false_iff_ne.mp bad)]
    rfl
  sequence _ other := absurd rfl other
  buffer t := by
    split
    · exact .inl (congrArg Link.buffer t.sequenceIdle_link)
    · exact serveRestart_buffer _ t
  link _ other := absurd rfl other
  same _ _ other := absurd rfl other

/-- A type code in no row of the type table: the body is not looked at (R178). -/
theorem RequestRule.unknownType {code : Byte} (unknown : typeCodes.contains code = false) :
    RequestRule code body fun _ t => t.sequenceIdle.refuse .unknownType where
  runs d s := by
    rw [Laws.requestOf_unknown unknown]
    rfl
  badLength known := absurd (unknown.symm.trans known) nofun
  sequence known := absurd (unknown.symm.trans known) nofun
  buffer t := .inl (congrArg Link.buffer t.sequenceIdle_link)
  link _ _ _ t := t.sequenceIdle_link
  same _ _ _ _ _ := rfl

open RequestRule in
/-- The type table (R178, R197): every type code has a rule. -/
theorem request_rule (code : Byte) : ∃ rule, RequestRule code body rule := by
  by_cases known : typeCodes.contains code = true
  case neg => exact ⟨_, unknownType body (Bool.eq_false_iff.mpr known)⟩
  simp only [typeCodes, List.contains_iff_mem, List.mem_cons, List.not_mem_nil, or_false] at known
  rcases known with rfl | rfl | rfl | rfl | rfl | rfl | rfl | rfl | rfl | rfl | rfl | rfl | rfl | rfl
    | rfl | rfl | rfl | rfl | rfl | rfl | rfl | rfl | rfl | rfl | rfl | rfl | rfl | rfl | rfl | rfl | rfl
    | rfl | rfl | rfl | rfl | rfl | rfl | rfl | rfl | rfl | rfl | rfl | rfl
  · exact ⟨_, .query (fun _ _ => rfl) rfl (parseEmpty_eq_none _)⟩
  · exact ⟨_, linkSetup body⟩
  · exact ⟨_, .query (fun _ _ => rfl) rfl (parseEmpty_eq_none _)⟩
  · exact ⟨_, .served (fun _ _ => rfl) rfl (parseEventsSetup_eq_none _) (fun _ => rfl) serveEventsSetup_link⟩
  · exact ⟨_, eventsRead body⟩
  · exact ⟨_, restart body⟩
  · exact ⟨_, .query (fun _ _ => rfl) rfl (parseEmpty_eq_none _)⟩
  · exact ⟨_, .served (fun _ _ => rfl) rfl (parseChannelSetup_eq_none _) (fun _ => rfl) serveChannelSetup_link⟩
  · exact ⟨_, .served (fun _ _ => rfl) rfl (parseTrim_eq_none _) (fun _ => rfl) serveTrim_link⟩
  · exact ⟨_, .served (fun _ _ => rfl) rfl (parseMuteRemote_eq_none _) (fun _ => rfl) serveMuteRemote_link⟩
  · exact ⟨_, .query (fun _ _ => rfl) rfl (parseByte_eq_none _)⟩
  · exact ⟨_, .served (fun _ _ => rfl) rfl (parseLevel_eq_none _) (fun _ => rfl) serveLevel_link⟩
  · exact ⟨_, .served (fun _ _ => rfl) rfl (parseCuePut_eq_none _) (fun _ => rfl) serveCuePut_link⟩
  · exact ⟨_, movesAdd body⟩
  · exact ⟨_, .served (fun _ _ => rfl) rfl (parseNumber_eq_none _) (fun _ => rfl) serveCueDelete_link⟩
  · exact ⟨_, .served (fun _ _ => rfl) rfl (parseEmpty_eq_none _) (fun _ => rfl) serveListClear_link⟩
  · exact ⟨_, .query (fun _ _ => rfl) rfl (parseNumber_eq_none _)⟩
  · exact ⟨_, .query (fun _ _ => rfl) rfl (parseMovesQuery_eq_none _)⟩
  · exact ⟨_, .query (fun _ _ => rfl) rfl (parseListQuery_eq_none _)⟩
  · exact ⟨_, .served (fun _ _ => rfl) rfl (parseEmpty_eq_none _) (fun _ => rfl) serveShowStart_link⟩
  · exact ⟨_, .served (fun _ _ => rfl) rfl (parseEmpty_eq_none _) (fun _ => rfl) serveShowEnd_link⟩
  · exact ⟨_, .served (fun _ _ => rfl) rfl (parseNumber_eq_none _) (fun _ => rfl) serveGo_link⟩
  · exact ⟨_, .served (fun _ _ => rfl) rfl (parseEmpty_eq_none _) (fun _ => rfl) serveBack_link⟩
  · exact ⟨_, .served (fun _ _ => rfl) rfl (parseEmpty_eq_none _) (fun _ => rfl) serveHold_link⟩
  · exact ⟨_, .served (fun _ _ => rfl) rfl (parseEmpty_eq_none _) (fun _ => rfl) serveResume_link⟩
  · exact ⟨_, .served (fun _ _ => rfl) rfl (parseEmpty_eq_none _) (fun _ => rfl) serveStop_link⟩
  · exact ⟨_, .served (fun _ _ => rfl) rfl (parseEmpty_eq_none _) (fun _ => rfl) serveSafe_link⟩
  · exact ⟨_, .served (fun _ _ => rfl) rfl (parseEmpty_eq_none _) (fun _ => rfl) serveSafeRelease_link⟩
  · exact ⟨_, .served (fun _ _ => rfl) rfl (parseGoto_eq_none _) (fun _ => rfl) serveGoto_link⟩
  · exact ⟨_, noticesRead body⟩
  · exact ⟨_, .query (fun _ _ => rfl) rfl (parseEmpty_eq_none _)⟩
  · exact ⟨_, .served (fun _ _ => rfl) rfl (parseClockSetup_eq_none _) (fun _ => rfl) serveClockSetup_link⟩
  · exact ⟨_, .query (fun _ _ => rfl) rfl (parseEmpty_eq_none _)⟩
  · exact ⟨_, .served (fun _ _ => rfl) rfl (parseSurfaceSetup_eq_none _) (fun _ => rfl) serveSurfaceSetup_link⟩
  · exact ⟨_, .served (fun _ _ => rfl) rfl (parseBankPut_eq_none _) (fun _ => rfl) serveBankPut_link⟩
  · exact ⟨_, .served (fun _ _ => rfl) rfl (parseByte_eq_none _) (fun _ => rfl) serveBankSelect_link⟩
  · exact ⟨_, .query (fun _ _ => rfl) rfl (parseByte_eq_none _)⟩
  · exact ⟨_, .served (fun _ _ => rfl) rfl (parseContactSetup_eq_none _) (fun _ => rfl) serveContactSetup_link⟩
  · exact ⟨_, .query (fun _ _ => rfl) rfl (parseEmpty_eq_none _)⟩
  · exact ⟨_, .served (fun _ _ => rfl) rfl (parseOutputSetup_eq_none _) (fun _ => rfl) serveOutputSetup_link⟩
  · exact ⟨_, .served (fun _ _ => rfl) rfl (parseRoutePut_eq_none _) (fun _ => rfl) serveRoutePut_link⟩
  · exact ⟨_, .query (fun _ _ => rfl) rfl (parseByte_eq_none _)⟩
  · exact ⟨_, .query (fun _ _ => rfl) rfl (parseEmpty_eq_none _)⟩

end

/-- A request is named by its type code, but for an UNKNOWN_TYPE of a known type. -/
theorem requestOf_request {i : Instr} (fits : i.codeFits = true) {d : Dest} {code : Byte} {body : List Byte}
    (carries : i.request = some (d, code, body)) : requestOf code d body = i := by
  cases i
  case unknownType =>
    cases carries
    exact Laws.requestOf_unknown (Bool.not_eq_true' _ |>.mp fits) _ _
  all_goals cases carries <;> rfl

end Sys2Proof.Machine
end

section
/-!
PROOF. Requests of a wrong length or an unknown type, requests during a restart sequence, and broadcasts (R174, R178,
R180, R193).
-/

namespace Sys2Proof.Machine

theorem State.heard_sequenceIdle (s : State) : s.heard.sequenceIdle = s.sequenceIdle.heard := by
  unfold State.sequenceIdle
  rw [State.heard_stepping]
  split <;> rfl

theorem State.stepping_iff {s : State} :
    s.stepping = true ↔ s.events.sequence = .step1 ∨ s.events.sequence = .step2 := by
  unfold State.stepping
  rw [Bool.or_eq_true, beq_iff_eq, beq_iff_eq]

theorem State.sequenceIdle_eq (s : State) : s.sequenceIdle =
    if s.events.sequence = .step1 ∨ s.events.sequence = .step2 then
      s.setEvents { s.events with sequence := .idle } else s :=
  if_congr State.stepping_iff rfl rfl

/-- A request that is answered at once, with its sequence idle after it, is answered so unless it is a broadcast. -/
theorem RequestRule.answers {code : Byte} {body : List Byte} {rule : Bool → State → Served}
    (known : RequestRule code body rule) {i : Instr} {d : Dest} (named : requestOf code d body = i) {s : State}
    (hears : s.Hears) (room : s.link.buffer.length < 2) {r : Result} {payload : List Byte}
    (served : ∀ b, rule b s.heard = s.heard.sequenceIdle.reply r payload) :
    (¬ s.Broadcast d → exec i s = .next (s.sequenceIdle.heard.replying code r payload)) ∧
      (s.Broadcast d → exec i s = .next s.sequenceIdle.heard) := by
  have ran := known.runs d s
  rw [named, State.receive_heard hears room, served, State.heard_sequenceIdle] at ran
  refine ⟨fun own => ?_, fun all => ?_⟩
  · rw [ran, Bool.eq_false_iff.mpr (mt (s.isBroadcast_iff d).mp own)]
    rfl
  · rw [ran, (s.isBroadcast_iff d).mpr all]
    rfl

/-- Settles O7: the length is judged before the restart sequence, and an unknown type has no length. -/
theorem requestsJudged : Obligations.RequestsJudged := by
  intro s u hears room hu
  rw [← State.sequenceIdle_eq] at hu
  subst hu
  refine ⟨fun i d code body fits carries known bad => ?_, fun d code body => ?_⟩
  · obtain ⟨rule, judged⟩ := request_rule body code
    exact judged.answers (requestOf_request fits carries) hears room fun b => judged.badLength known bad b s.heard
  · have ran : exec (.unknownType d code body) s =
        .next (s.receive d code fun _ t => t.sequenceIdle.refuse .unknownType) := rfl
    rw [State.receive_heard hears room, State.heard_sequenceIdle] at ran
    refine ⟨fun own => ?_, fun all => ?_⟩
    · rw [ran, Bool.eq_false_iff.mpr (mt (s.isBroadcast_iff d).mp own)]
      rfl
    · rw [ran, (s.isBroadcast_iff d).mpr all]
      rfl

/-- Settles O9: the restart sequence is judged before the block of the request. -/
theorem restartInterrupted : Obligations.RestartInterrupted := by
  intro i s d code body hears room under fits carries known other good
  obtain ⟨rule, judged⟩ := request_rule body code
  have answered := judged.answers (requestOf_request fits carries) hears room
    fun b => judged.sequence known other good b s.heard (State.stepping_iff.mpr under)
  rwa [State.sequenceIdle_eq, if_pos under] at answered

/-! ### Broadcasts (R87, R174, R180, R191) -/

/-- A broadcast joins no reply to the buffer, whatever serves it. -/
theorem State.receive_broadcast_buffer {s : State} {code : Byte} {serve : Bool → State → Served} {p : Prop}
    (h : (serve true s.heard).state.link.buffer = s.link.buffer ∨
      ((serve true s.heard).state.link.buffer = [] ∧ p)) :
    (s.receive .broadcast code serve).link.buffer = s.link.buffer ∨
      ((s.receive .broadcast code serve).link.buffer = [] ∧ p) := by
  unfold State.receive
  split
  · dsimp only
    split
    · exact h
    · exact .inl rfl
  · exact .inl rfl

theorem exec_broadcast_buffer {i : Instr} {s t : State} {code : Byte} {body : List Byte}
    (carries : i.request = some (.broadcast, code, body)) (ran : exec i s = .next t) :
    t.link.buffer = s.link.buffer ∨ (t.link.buffer = [] ∧ s.events.sequence = .step2) := by
  by_cases fits : i.codeFits = true
  · obtain ⟨rule, judged⟩ := request_rule body code
    rw [← requestOf_request fits carries, judged.runs] at ran
    cases ran
    exact State.receive_broadcast_buffer (judged.buffer s.heard)
  · cases i
    case unknownType =>
      cases carries
      cases ran
      have kept : s.heard.sequenceIdle.link.buffer = s.link.buffer :=
        (congrArg Link.buffer s.heard.sequenceIdle_link :)
      exact State.receive_broadcast_buffer (.inl kept)
    all_goals exact absurd rfl fits

/-- A broadcast does what the addressed request does, but for its reply (R174). -/
theorem RequestRule.broadcast {code : Byte} {body : List Byte} {rule : Bool → State → Served}
    (judged : RequestRule code body rule) {s : State} (h : s.Open) (h02 : code ≠ 0x02) (h09 : code ≠ 0x09)
    (h0A : code ≠ 0x0A) (h3A : code ≠ 0x3A) :
    ∃ t, exec (requestOf code .own body) s = .next t ∧
      exec (requestOf code .broadcast body) s = .next (t.setLink { t.link with buffer := s.link.buffer }) := by
  refine ⟨_, (judged.runs .own s).trans (by rw [State.receive_own h.serves]), ?_⟩
  have all : s.isBroadcast .broadcast = true := rfl
  rw [judged.runs, State.receive_heard h.serves.1 h.serves.2.1, all, judged.same h02 h09 h0A h3A]
  have kept := judged.link h02 h0A false s.heard
  have same : (rule false s.heard).state.setLink { s.heard.link with buffer := s.link.buffer } =
      (rule false s.heard).state := congrArg (State.setLink _) kept.symm
  show Host.Outcome.next (rule false s.heard).state = .next ((rule false s.heard).state.setLink
    { (rule false s.heard).state.link with buffer := s.link.buffer })
  rw [kept, same]

/-- A broadcast that reaches its block leaves what the block leaves. -/
theorem State.request_broadcast {α : Type} {s : State} (h : s.Open) {code : Byte} {parsed : Option α} {f : α}
    (hp : parsed = some f) (serve : α → Bool → State → Served) (carried : State → List Byte) :
    s.request .broadcast code parsed serve carried = (serve f true s.heard).state := by
  have stepping : s.heard.stepping = false := h.stepping
  have all : s.isBroadcast .broadcast = true := rfl
  rw [State.request, State.receive_heard h.serves.1 h.serves.2.1, all, hp, judge, stepping,
    if_neg Bool.false_ne_true]
  rfl

theorem serveEventsRead_broadcast (k : Byte) (s : State) : (serveEventsRead k true s).state = s := by
  unfold serveEventsRead
  split <;> rfl

theorem serveNoticesRead_broadcast (k : Byte) (s : State) : (serveNoticesRead k true s).state = s := by
  unfold serveNoticesRead
  split <;> rfl

/-- Settles O10: the type table says what a broadcast shares with the addressed request. -/
theorem broadcastsUnanswered : Obligations.BroadcastsUnanswered := by
  refine ⟨fun i s t code body carries ran => exec_broadcast_buffer carries ran,
    fun i j s code body h own all fits fits' h02 h09 h0A h3A => ?_, fun s k h => ⟨?_, ?_⟩⟩
  · rw [← requestOf_request fits own, ← requestOf_request fits' all]
    obtain ⟨rule, judged⟩ := request_rule body code
    exact judged.broadcast h h02 h09 h0A h3A
  · exact congrArg Host.Outcome.next ((State.request_broadcast h (parsed := parseByte [k]) rfl serveEventsRead
      fun _ => []).trans (serveEventsRead_broadcast k s.heard))
  · exact congrArg Host.Outcome.next ((State.request_broadcast h (parsed := parseByte [k]) rfl serveNoticesRead
      fun _ => []).trans (serveNoticesRead_broadcast k s.heard))

end Sys2Proof.Machine
end

section
/-!
PROOF. The tracked level and cue-mute of a scan (R83).
-/

namespace Sys2Proof.Machine

/-- The stored move of greatest delay is the last of those that no other exceeds (R83). -/
theorem greatestDelay_spec (moves : List StoredMove) :
    greatestDelay moves = none ∧ moves = [] ∨
      ∃ l m r, greatestDelay moves = some m ∧ moves = l ++ m :: r ∧
        (∀ x ∈ l, x.delay ≤ m.delay) ∧ ∀ x ∈ r, x.delay < m.delay := by
  induction moves using List.reverseRecOn with
  | nil => exact .inl ⟨rfl, rfl⟩
  | append_singleton moves n ih =>
    right
    rcases ih with ⟨none_yet, rfl⟩ | ⟨l, m, r, greatest, rfl, before, after⟩
    · exact ⟨[], n, [], rfl, rfl, nofun, nofun⟩
    have next : greatestDelay (l ++ m :: r ++ [n]) = if m.delay ≤ n.delay then some n else some m := by
      unfold greatestDelay at greatest ⊢
      rw [List.foldl_append, greatest]
      rfl
    by_cases later : m.delay ≤ n.delay
    · refine ⟨l ++ m :: r, n, [], next.trans (if_pos later), rfl, fun x hx => ?_, nofun⟩
      rcases List.mem_append.mp hx with hl | hr
      · exact (before x hl).trans later
      rcases List.mem_cons.mp hr with rfl | hr
      · exact later
      · exact (after x hr).le.trans later
    · refine ⟨l, m, r ++ [n], next.trans (if_neg later), by simp, before, fun x hx => ?_⟩
      rcases List.mem_append.mp hx with hr | hn
      · exact after x hr
      · rw [List.mem_singleton.mp hn]
        omega

/-- A fold that each element may replace ends with what the last element that replaces it gives. -/
theorem foldl_elim_spec {α β γ : Type} (f : α → Option β) (g : β → γ) (v : γ) (l : List α) :
    (∀ a ∈ l, f a = none) ∧ l.foldl (fun v a => (f a).elim v g) v = v ∨
      ∃ before a after m, l = before ++ a :: after ∧ f a = some m ∧ (∀ b ∈ after, f b = none) ∧
        l.foldl (fun v a => (f a).elim v g) v = g m := by
  induction l using List.reverseRecOn with
  | nil => exact .inl ⟨nofun, rfl⟩
  | append_singleton l n ih =>
    rw [List.foldl_append, List.foldl_cons, List.foldl_nil]
    cases gives : f n with
    | some m => exact .inr ⟨l, n, [], m, rfl, gives, nofun, rfl⟩
    | none =>
      rcases ih with ⟨all, base⟩ | ⟨before, a, after, m, rfl, given, none_later, value⟩
      · refine .inl ⟨fun a ha => ?_, base⟩
        rcases List.mem_append.mp ha with h | h
        · exact all a h
        · rwa [List.mem_singleton.mp h]
      · refine .inr ⟨before, a, after ++ [n], m, by simp, given, fun b hb => ?_, value⟩
        rcases List.mem_append.mp hb with h | h
        · exact none_later b h
        · rwa [List.mem_singleton.mp h]

/-- What a scan to cue `k` finds among the moves that `p` picks: it starts from `v`, and each cue that has such moves
gives `g` of the one of greatest delay (R83). -/
def scanValue {γ : Type} (p : StoredMove → Bool) (g : StoredMove → γ) (cues : List Cue) (k : Nat) (v : γ) : γ :=
  (scanned cues k).foldl (fun v q => (greatestDelay (q.moves.filter p)).elim v g) v

theorem trackedLevel_eq_scanValue (cues : List Cue) (k : Nat) (c : Chan) (base : Int) :
    trackedLevel cues k c base =
      scanValue (fun m => m.channel == c && m.action == .level) StoredMove.target cues k base := by
  unfold trackedLevel scanValue Cue.levelMove
  congr
  funext v q
  cases greatestDelay (q.moves.filter fun m => m.channel == c && m.action == .level) <;> rfl

theorem trackedMute_eq_scanValue (cues : List Cue) (k : Nat) (c : Chan) :
    trackedMute cues k c =
      scanValue (fun m => m.channel == c && m.action != .level) (fun m => m.action == .mute) cues k false := by
  unfold trackedMute scanValue Cue.muteMove
  congr
  funext v q
  cases greatestDelay (q.moves.filter fun m => m.channel == c && m.action != .level) <;> rfl

section
variable {γ : Type} (p : StoredMove → Bool) (g : StoredMove → γ) (cues : List Cue) (k : Nat) (v : γ)

theorem greatestDelay_filter_eq_none {p : StoredMove → Bool} {moves : List StoredMove} :
    greatestDelay (moves.filter p) = none ↔ ∀ m ∈ moves, p m = false := by
  have picked : moves.filter p = [] ↔ ∀ m ∈ moves, p m = false := by simp
  rw [← picked]
  rcases greatestDelay_spec (moves.filter p) with ⟨h, empty⟩ | ⟨l, m, r, h, split, -⟩
  · exact iff_of_true h empty
  · exact iff_of_false (by rw [h]; exact nofun) (by rw [split]; simp)

theorem greatestDelay_filter_eq_some {p : StoredMove → Bool} {moves : List StoredMove} {m : StoredMove}
    (h : greatestDelay (moves.filter p) = some m) : ∃ l r, moves = l ++ m :: r ∧ p m = true ∧
      (∀ x ∈ l, p x = true → x.delay ≤ m.delay) ∧ ∀ x ∈ r, p x = true → x.delay < m.delay := by
  rcases greatestDelay_spec (moves.filter p) with ⟨none_found, -⟩ | ⟨l, n, r, found, split, before, after⟩
  · exact absurd (none_found.symm.trans h) nofun
  obtain rfl : n = m := Option.some.inj (found.symm.trans h)
  obtain ⟨l, rest, rfl, rfl, split_rest⟩ := List.filter_eq_append_iff.mp split
  obtain ⟨skipped, r, rfl, none_skipped, picked, rfl⟩ := List.filter_eq_cons_iff.mp split_rest
  refine ⟨l ++ skipped, r, by simp, picked, fun x hx hp => ?_, fun x hx hp => after x (List.mem_filter.mpr ⟨hx, hp⟩)⟩
  rcases List.mem_append.mp hx with hl | hs
  · exact before x (List.mem_filter.mpr ⟨hl, hp⟩)
  · exact absurd hp (none_skipped x hs)

/-- The last cue at or below `k` that has such moves gives the value, and with none the first value stays (R83). -/
theorem scanValue_spec :
    (∀ q ∈ cues, q.number ≤ k → ∀ m ∈ q.moves, p m = false) ∧ scanValue p g cues k v = v ∨
      ∃ before q after l m r, cues = before ++ q :: after ∧ q.number ≤ k ∧ q.moves = l ++ m :: r ∧
        p m = true ∧ scanValue p g cues k v = g m ∧
        (∀ x ∈ l, p x = true → x.delay ≤ m.delay) ∧ (∀ x ∈ r, p x = true → x.delay < m.delay) ∧
        ∀ q ∈ after, q.number ≤ k → ∀ x ∈ q.moves, p x = false := by
  unfold scanValue
  rcases foldl_elim_spec (fun q : Cue => greatestDelay (q.moves.filter p)) g v (scanned cues k) with
    ⟨all, base⟩ | ⟨before, q, after, m, split, given, none_later, value⟩
  · refine .inl ⟨fun q hq low => greatestDelay_filter_eq_none.mp (all q (List.mem_filter.mpr ⟨hq, ?_⟩)), base⟩
    exact decide_eq_true low
  · obtain ⟨before, rest, rfl, rfl, split_rest⟩ := List.filter_eq_append_iff.mp split
    obtain ⟨skipped, after, rfl, -, low, rfl⟩ := List.filter_eq_cons_iff.mp split_rest
    obtain ⟨l, r, moves, picked, le, lt⟩ := greatestDelay_filter_eq_some given
    refine .inr ⟨before ++ skipped, q, after, l, m, r, by simp, of_decide_eq_true low, moves, picked, value, le, lt,
      fun q hq low => greatestDelay_filter_eq_none.mp (none_later q (List.mem_filter.mpr ⟨hq, ?_⟩))⟩
    exact decide_eq_true low

end

/-- Settles O32: both are values of a scan. -/
theorem trackedValues : Obligations.TrackedValues := by
  intro cues k c base
  rw [trackedLevel_eq_scanValue, trackedMute_eq_scanValue]
  constructor
  · simpa [and_assoc] using scanValue_spec (fun m => m.channel == c && m.action == .level) StoredMove.target cues k base
  · simpa [and_assoc, Bool.beq_eq_decide_eq] using
      scanValue_spec (fun m => m.channel == c && m.action != .level) (fun m => m.action == .mute) cues k false

end Sys2Proof.Machine
end

section
/-!
PROOF. The firings of GO, of RESUME and of an expired wait, from the link and from the contact (R64, R67 to R77, R79,
R151).
-/

namespace Sys2Proof.Machine

/-! ### Waits that stand at 0 (R77) -/

theorem State.waitDue_of_waiting {s : State} (state : s.seq.state = .running) {b : Timebase}
    (arm : s.seq.arm = .waiting 0 b) : s.waitDue = true := by
  rw [State.waitDue, state, arm]
  rfl

theorem State.waitDue_eq_false {s : State} (h : ∀ b, s.seq.arm ≠ .waiting 0 b) : s.waitDue = false := by
  unfold State.waitDue
  cases arm : s.seq.arm with
  | waiting left b =>
    have : left ≠ 0 := fun zero => h b (zero ▸ arm)
    simp [this]
  | _ => simp

theorem State.NextIs.nextCue {s : State} {cue : Cue} (h : s.NextIs cue) : s.nextCue = some cue := by
  rw [State.nextCue, h.1]
  exact h.2.1

theorem State.waitCause_of_next {s : State} {cue : Cue} (h : s.nextCue = some cue) :
    s.waitCause = if cue.trigger = .follow then .follow else .withCue := by
  rw [State.waitCause, h]

/-- A wait of 0 that a firing without a chain follows: its cue fires, and nothing more (R77). -/
theorem State.settled_fires {s : State} {cue : Cue} (due : s.waitDue = true) (h : s.NextTold cue) :
    s.settled = s.fire (if cue.trigger = .follow then .follow else .withCue) := by
  rw [← State.waitCause_of_next h.nextIs.nextCue, State.settled, State.settle, if_pos due]
  exact State.settle_of_not_due _ _ (State.fire_not_due _ h)

theorem State.FiringTold.next {s t : State} {cue : Cue} {cause : Cause} (told : s.FiringTold t cue cause)
    (h : s.NextTold cue) : t.seq.next = cueAfter s.cues cue.number := by
  rcases h with h | h
  · exact (told.1 h).1.2.1
  · exact (told.2 h).1.2.1

/-- The show is the same for a firing to come: the cues, the channels, next, the flight table and the notices. -/
structure State.SameShow (s u : State) : Prop where
  channels : u.channels = s.channels
  cues : u.cues = s.cues
  next : u.seq.next = s.seq.next
  nextId : u.seq.nextId = s.seq.nextId
  flight : u.seq.flight = s.seq.flight
  notices : u.seq.notices = s.seq.notices

theorem State.SameShow.chan {s u : State} (h : s.SameShow u) : u.chan = s.chan := by
  funext c
  rw [State.chan, h.channels]
  rfl

theorem State.SameShow.trans {s u v : State} (h : s.SameShow u) (k : u.SameShow v) : s.SameShow v :=
  ⟨k.channels.trans h.channels, k.cues.trans h.cues, k.next.trans h.next, k.nextId.trans h.nextId,
    k.flight.trans h.flight, k.notices.trans h.notices⟩

theorem State.SameShow.setLink (s : State) (x : Link) : s.SameShow (s.setLink x) :=
  ⟨rfl, rfl, rfl, rfl, rfl, rfl⟩

theorem State.SameShow.setContacts (s : State) (x : Contacts) : s.SameShow (s.setContacts x) :=
  ⟨rfl, rfl, rfl, rfl, rfl, rfl⟩

theorem State.SameShow.heard (s : State) : s.SameShow s.heard := setLink s s.heard.link

theorem State.SameShow.nextTold {s u : State} (h : s.SameShow u) (cue : Cue) :
    u.NextTold cue ↔ s.NextTold cue := by
  have chan := h.chan
  obtain ⟨-, cues, next, nextId, -, -⟩ := h
  simp only [State.NextTold, State.NextAlone, State.NextSlow, State.NextIs, State.successor, chan, cues, next, nextId]

theorem State.SameShow.firingTold {s u : State} (h : s.SameShow u) (t : State) (cue : Cue) (cause : Cause) :
    u.FiringTold t cue cause ↔ s.FiringTold t cue cause := by
  have chan := h.chan
  obtain ⟨-, cues, next, nextId, flight, notices⟩ := h
  simp only [State.FiringTold, State.NextAlone, State.NextSlow, State.NextIs, State.successor, State.FiredAlone,
    State.FiredSlow, State.Fired, State.FiredTable, State.EndsNone, State.armAfter, State.flightKept,
    State.channelKept, chan, cues, next, nextId, flight, notices]

theorem State.SameShow.nextChained {s u : State} (h : s.SameShow u) (cue d : Cue) :
    u.NextChained cue d ↔ s.NextChained cue d := by
  have chan := h.chan
  obtain ⟨-, cues, next, nextId, -, -⟩ := h
  simp only [State.NextChained, State.NextIs, State.successor, chan, cues, next, nextId]

theorem State.SameShow.firedChained {s u : State} (h : s.SameShow u) (events : u.events = s.events) (t : State)
    (cue d : Cue) (cause : Cause) : u.FiredChained t cue d cause ↔ s.FiredChained t cue d cause := by
  have chan := h.chan
  obtain ⟨-, cues, next, nextId, flight, notices⟩ := h
  have raised (e : Event) : u.Raised e ↔ s.Raised e := by rw [State.Raised, State.Raised, State.flagged, events]; rfl
  simp only [State.FiredChained, State.Fired, State.FiredTable, State.FiredEvents, State.EndsNone, State.flightKept,
    State.channelKept, chan, cues, nextId, flight, notices, events, raised]

section
variable {s t : State} {cue d : Cue} {cause : Cause} (code : Byte) (r : Result) (payload : List Byte)

/-- The reply of a request is no part of the firing it brings. -/
theorem State.FiringTold.replying (told : s.FiringTold t cue cause) :
    s.FiringTold (t.replying code r payload) cue cause := told

theorem State.FiredChained.replying (chained : s.FiredChained t cue d cause) :
    s.FiredChained (t.replying code r payload) cue d cause := chained

theorem State.Raised.replying {e : Event} (raised : t.Raised e) : (t.replying code r payload).Raised e := raised

end

/-! ### The expiry of a wait (R68, R77, R79) -/

theorem State.expiryDue_of_waiting {s : State} {cue : Cue} {left : Nat} {b : Timebase}
    (state : s.seq.state = .running) (arm : s.seq.arm = .waiting left b) (next : s.nextCue = some cue)
    (due : left = 0 ∨ s.showAdvances b = true ∧ left ≤ s.advance b ∧ left < cue.wait * 65536) :
    s.expiryDue = true := by
  rcases due with rfl | ⟨advances, le, counted⟩
  · rw [State.expiryDue, State.waitDue_of_waiting state arm, Bool.true_or]
  · rw [State.expiryDue, arm, next]
    simp [advances, le, counted]

theorem State.expiryDue_eq_false {s : State} (h : s.seq.state ≠ .running ∨ ∀ left b,
    s.seq.arm = .waiting left b → left ≠ 0 ∧ (s.showAdvances b = false ∨ s.advance b < left ∨
      ∀ q, s.nextCue = some q → q.wait * 65536 ≤ left)) : s.expiryDue = false := by
  by_contra due
  rw [Bool.not_eq_false] at due
  rcases h with state | stays
  · exact state (State.running_of_expiryDue due)
  rw [State.expiryDue, Bool.or_eq_true] at due
  have not_zero : s.waitDue = false := State.waitDue_eq_false fun b arm => (stays 0 b arm).1 rfl
  rw [not_zero] at due
  cases arm : s.seq.arm with
  | waiting left b =>
    obtain ⟨-, why⟩ := stays left b arm
    cases next : s.nextCue with
    | none => simp [arm, next] at due
    | some q =>
      simp [arm, next] at due
      obtain ⟨⟨advances, le⟩, counted⟩ := due
      rcases why with still | later | uncounted
      · exact absurd (still.symm.trans advances) nofun
      · omega
      · have := uncounted q next
        omega
  | _ => simp [arm] at due

/-- Settles O33: an expiry fires the next cue, and without one nothing happens. -/
theorem waitExpires : Obligations.WaitExpires := by
  refine ⟨fun s cue left b awake state arm due h trigger => ?_, fun s h => ?_⟩
  · have next := h.nextIs.nextCue
    obtain ⟨whole, told⟩ := State.fireChain_told s.waitCause h
    have frame := State.ShowFrame.fireChain s s.waitCause
    rw [whole] at frame
    rw [State.waitCause_of_next next] at whole told frame
    refine ⟨_, ?_, told, frame.gateTime, frame.state.trans state, frame.link, ?_, frame.surface, frame.contacts,
      frame.output, frame.cues⟩
    · show Host.Outcome.next (if s.resetLow || !s.expiryDue then s else s.fireChain s.waitCause) = _
      rw [awake, State.expiryDue_of_waiting state arm next due, Bool.not_true, Bool.or_false,
        if_neg Bool.false_ne_true, State.waitCause_of_next next, whole]
    · have point : (s.fire (if cue.trigger = .follow then .follow else .withCue)).clock.point =
          (s.fire (if cue.trigger = .follow then .follow else .withCue)).seq.arm.point := by
        rcases h with h | h
        · obtain ⟨-, arm, point, -⟩ := told.1 h
          rw [arm, point]
        · obtain ⟨-, arm, point, -⟩ := told.2 h
          rw [arm, point]
      rw [← point]
      exact frame.clock
  · show Host.Outcome.next (if s.resetLow || !s.expiryDue then s else s.fireChain s.waitCause) = _
    rw [State.expiryDue_eq_false h, Bool.not_false, Bool.or_true, if_pos rfl]

/-! ### GO in SHOW (R67 to R77, R151) -/

theorem State.SameShow.gated (s : State) : s.SameShow s.gated := ⟨rfl, rfl, rfl, rfl, rfl, rfl⟩

theorem State.SameShow.heard_gated (s : State) : s.SameShow s.heard.gated :=
  (heard s).trans (gated s.heard)

theorem State.SameShow.pressed_gated (s : State) (l : ContactLine) :
    s.SameShow (s.contactChanged l true).gated :=
  (setContacts s (s.contactChanged l true).contacts).trans (gated (s.contactChanged l true))

section
variable {s : State} {cue : Cue} (state : s.seq.state = .running) (idle : s.seq.scan = none)
  (gate : s.contacts.cfg.guard ≤ s.seq.gateTime) (next : s.seq.next = some cue.number)
  (low : cue.number ≤ 9999)
include state idle gate next

theorem exec_go_fires {expected : Nat} (same : expected = 0 ∨ expected = cue.number) (h : s.Open)
    (low : cue.number ≤ 9999) {t : State} (fired : s.heard.gated.fireChain .goLink = t) :
    exec (.go .own (bytesOf 2 expected)) s = .next (t.replying 0x32 .ok
      (bytesOf 2 cue.number ++ bytesOf 2 s.seq.nextId ++ cueField t.seq.next)) := by
  subst fired
  exact exec_go h (parseNumber_bytesOf (by omega)) (by omega)
    (State.go_fires (s := s.heard) .goLink expected idle gate state next same)

theorem exec_contactGoPress_fires (awake : s.resetLow = false) (released : (s.contact .cgo).qualified = false)
    {t : State} (fired : (s.contactChanged .cgo true).gated.fireChain .goContact = t) :
    exec .contactGoPress s = .next t := by
  subst fired
  exact exec_contactGoPress awake released
    (State.go_fires (s := s.contactChanged .cgo true) .goContact 0 idle gate state next (.inl rfl))

end

/-- A press is on its line whatever the show does after it. -/
theorem State.PlayFrame.pressed {s t : State} {l : ContactLine} (frame : (s.contactChanged l true).PlayFrame t) :
    t.contacts.ignored = s.contacts.ignored ∧ (t.contact l).qualified = true := by
  rw [State.contact, frame.contacts]
  exact ⟨rfl, s.contactChanged_qualified l true⟩

/-- Settles O28: the next cue fires with the gate time at 0, alone or with the cue that follows it at once. -/
theorem goFires : Obligations.GoFires := by
  refine ⟨fun _ => rfl, fun s cue state idle gate h low => ⟨fun expected same served => ?_,
    fun awake released => ?_⟩, fun s cue d state idle gate h low => ⟨fun expected same served => ?_,
    fun awake released => ?_⟩⟩
  · have same_show := State.SameShow.heard_gated s
    obtain ⟨whole, told⟩ := State.fireChain_told .goLink ((same_show.nextTold cue).mpr h)
    rw [same_show.firingTold] at told
    have frame := State.ShowFrame.fireChain s.heard.gated .goLink
    have run := exec_go_fires state idle gate h.nextIs.1 same served low rfl
    rw [whole] at frame run
    rw [told.next h] at run
    refine ⟨_, run, told.replying _ _ _, frame.gateTime, frame.state.trans state, frame.ret, frame.surface, frame.contacts,
      frame.output, frame.cues, frame.restart, ?_⟩
    rw [State.replying, frame.link]
    rfl
  · have same_show := State.SameShow.pressed_gated s .cgo
    obtain ⟨whole, told⟩ := State.fireChain_told .goContact ((same_show.nextTold cue).mpr h)
    rw [same_show.firingTold] at told
    have frame := State.ShowFrame.fireChain (s.contactChanged .cgo true).gated .goContact
    have run := exec_contactGoPress_fires state idle gate h.nextIs.1 awake released rfl
    have pressed := State.PlayFrame.pressed ((State.PlayFrame.setSeq _ _).trans frame.play)
    rw [whole] at frame run pressed
    exact ⟨_, run, told, frame.gateTime, frame.state.trans state, frame.ret, frame.surface, pressed.1, pressed.2,
      frame.output, frame.cues, frame.link⟩
  · have same_show := State.SameShow.heard_gated s
    have chained := State.fireChain_chained (s := s.heard.gated) .goLink state ((same_show.nextChained cue d).mpr h)
    rw [same_show.firedChained rfl] at chained
    have frame := State.ShowFrame.fireChain s.heard.gated .goLink
    have run := exec_go_fires state idle gate h.1.1 same served low rfl
    obtain ⟨u, -, -, -, -, cues, -, fired, -⟩ := chained.1
    rw [fired.1.2.1, cues] at run
    refine ⟨_, run, chained.replying _ _ _, frame.gateTime, frame.state.trans state, ?_⟩
    rw [State.replying, frame.link]
    rfl
  · have same_show := State.SameShow.pressed_gated s .cgo
    have chained := State.fireChain_chained (s := (s.contactChanged .cgo true).gated) .goContact state ((same_show.nextChained cue d).mpr h)
    rw [same_show.firedChained rfl] at chained
    have frame := State.ShowFrame.fireChain (s.contactChanged .cgo true).gated .goContact
    have run := exec_contactGoPress_fires state idle gate h.1.1 awake released rfl
    have pressed := State.PlayFrame.pressed ((State.PlayFrame.setSeq _ _).trans frame.play)
    exact ⟨_, run, chained, frame.gateTime, frame.state.trans state, pressed.1, frame.link⟩

/-! ### RESUME, and a GO in HOLD (R64, R70, R76, R85) -/

/-- The arm of a show that returns from HOLD, before a wait at 0 expires: an empty one becomes CLOCK for a CLOCK next
cue, unless a scan is in flight (R64, R85). -/
def State.resumedArm (s : State) : Arm := if s.seq.arm = .empty ∧ s.seq.scan = none then s.clockArm else s.seq.arm

/-- The show back from HOLD, before a wait at 0 expires (R64). -/
def State.resumed (s : State) : State :=
  ((s.setSeq { s.seq with state := .running, arm := s.resumedArm }).setClock { s.clock with
    point := if s.seq.arm = .empty ∧ s.seq.scan = none then s.resumedArm.point else s.clock.point }).raise
      .stateChange

theorem State.resumeShow_hold {s : State} (hold : s.seq.state = .hold) : s.resumeShow = s.resumed.settled := by
  rw [State.resumeShow, State.setShow_of_ne (ShowState.ne_of_eq hold), State.resumed, State.resumedArm]
  refine congrArg State.settled ?_
  by_cases rearmed : s.seq.arm = .empty ∧ s.seq.scan = none
  · rw [if_pos rearmed, if_pos rearmed]
    exact if_pos rearmed
  · rw [if_neg rearmed, if_neg rearmed]
    exact if_neg rearmed

theorem State.clockArm_ne_waiting (s : State) (left : Nat) (b : Timebase) : s.clockArm ≠ .waiting left b := by
  cases next : s.nextCue with
  | none => simp [State.clockArm, next]
  | some q =>
    rw [State.clockArm_eq next]
    split <;> simp

/-- With no wait at 0 the return from HOLD fires nothing. -/
theorem State.resumeShow_quiet {s : State} (hold : s.seq.state = .hold) (h : ∀ b, s.seq.arm ≠ .waiting 0 b) :
    s.resumeShow = s.resumed := by
  rw [State.resumeShow_hold hold]
  refine State.settled_of_not_due (State.waitDue_eq_false fun b => ?_)
  show s.resumedArm ≠ .waiting 0 b
  unfold State.resumedArm
  split
  · exact s.clockArm_ne_waiting 0 b
  · exact h b

theorem State.SameShow.resumed (s : State) : s.SameShow s.resumed := ⟨rfl, rfl, rfl, rfl, rfl, rfl⟩

/-- With a wait at 0 its cue fires as the show returns from HOLD (R64, R77). -/
theorem State.resumeShow_told {s : State} {cue : Cue} {b : Timebase} (hold : s.seq.state = .hold)
    (arm : s.seq.arm = .waiting 0 b) (h : s.resumed.NextTold cue) :
    s.resumeShow = s.resumed.fire (if cue.trigger = .follow then .follow else .withCue) ∧
      s.resumed.FiringTold (s.resumed.fire (if cue.trigger = .follow then .follow else .withCue)) cue
        (if cue.trigger = .follow then .follow else .withCue) := by
  refine ⟨?_, (State.fireChain_told _ h).2⟩
  rw [State.resumeShow_hold hold]
  refine State.settled_fires (State.waitDue_of_waiting rfl (b := b) ?_) h
  show s.resumedArm = .waiting 0 b
  rw [State.resumedArm, arm, if_neg (fun empty => nomatch empty.1)]

section
variable {s : State} (hold : s.seq.state = .hold)
include hold

theorem exec_resume (h : s.Open) {t : State} (ht : s.heard.resumeShow = t) :
    exec (.resume .own []) s = .next (t.replying 0x35 .ok []) := by
  subst ht
  exact State.request_replies (f := ()) h rfl (if_pos hold)

variable (idle : s.seq.scan = none) (gate : s.contacts.cfg.guard ≤ s.seq.gateTime)
include idle gate

theorem exec_go_resumes (h : s.Open) {x y : Byte} (low : (x ++ y).toNat ≤ 9999) {t : State}
    (ht : s.heard.gated.resumeShow = t) : exec (.go .own [x, y]) s = .next (t.replying 0x32 .ok
      (bytesOf 2 0 ++ bytesOf 2 0 ++ cueField t.seq.next)) := by
  subst ht
  have carries : parseNumber [x, y] = some (x ++ y).toNat := congrArg some (natOf_pair x y)
  exact exec_go h carries low (State.go_hold (s := s.heard) .goLink _ idle gate hold)

theorem exec_contactGoPress_resumes (awake : s.resetLow = false) (released : (s.contact .cgo).qualified = false)
    {t : State} (ht : (s.contactChanged .cgo true).gated.resumeShow = t) :
    exec .contactGoPress s = .next t := by
  subst ht
  exact exec_contactGoPress awake released
    (State.go_hold (s := s.contactChanged .cgo true) .goContact 0 idle gate hold)

end

theorem State.Keeps.fired_resumed (s : State) (cause : Cause) : (s.resumed.fire cause).Raised .stateChange :=
  State.Keeps.fire s.resumed cause _ (State.raise_raised _ _)

/-- Settles O25: the return from HOLD is one operation, taken from RESUME and from a GO. -/
theorem holdResumes : Obligations.HoldResumes := by
  refine ⟨fun s awake hold quiet => ⟨s.resumedArm, fun kept => if_neg ?_, fun empty idle => ⟨fun ended => ?_,
      fun d next => ?_⟩, fun h => exec_resume hold h (State.resumeShow_quiet (s := s.heard) hold quiet),
      fun idle gate resumed hr => ?_⟩,
    fun s cue b awake hold arm h trigger => ⟨fun served => ?_, fun idle gate => ⟨fun served x y low => ?_,
      fun released => ?_⟩⟩,
    fun s h state => State.request_refuses (f := ()) h rfl (if_neg state)⟩
  · rintro ⟨empty, idle⟩
    exact kept.elim (absurd empty) (absurd idle)
  · exact (if_pos ⟨empty, idle⟩).trans (State.clockArm_eq_empty ended)
  · exact (if_pos ⟨empty, idle⟩).trans (State.clockArm_eq next)
  · have same : resumed = s.gated.resumed := by
      have both : s.seq.arm = .empty ∧ s.seq.scan = none ↔ s.seq.arm = .empty := and_iff_left idle
      rw [hr, ← if_congr both (rfl : s.resumedArm.point = _) (rfl : s.clock.point = _)]
      rfl
    subst same
    exact ⟨fun h x y low => exec_go_resumes hold idle gate h low
        (State.resumeShow_quiet (s := s.heard.gated) hold quiet),
      fun released => ⟨_, exec_contactGoPress_resumes hold idle gate awake released
        (State.resumeShow_quiet (s := (s.contactChanged .cgo true).gated) hold quiet), rfl, rfl,
        s.contactChanged_qualified .cgo true⟩⟩
  · have same_show := (State.SameShow.heard s).trans (.resumed s.heard)
    obtain ⟨fires, told⟩ := State.resumeShow_told (s := s.heard) hold arm ((same_show.nextTold cue).mpr h)
    rw [same_show.firingTold] at told
    have frame := State.ShowFrame.fire s.heard.resumed (if cue.trigger = .follow then .follow else .withCue)
    refine ⟨_, exec_resume hold served fires, told.replying _ _ _, frame.state, (State.Keeps.fired_resumed s.heard _).replying _ _ _,
      frame.gateTime,      ?_, frame.surface, frame.contacts, frame.output, frame.cues⟩
    rw [State.replying, frame.link]
    rfl
  · have same_show := (State.SameShow.heard_gated s).trans (.resumed s.heard.gated)
    obtain ⟨fires, told⟩ := State.resumeShow_told (s := s.heard.gated) hold arm ((same_show.nextTold cue).mpr h)
    rw [same_show.firingTold] at told
    have frame := State.ShowFrame.fire s.heard.gated.resumed
      (if cue.trigger = .follow then .follow else .withCue)
    have run := exec_go_resumes hold idle gate served low fires
    rw [told.next h] at run
    refine ⟨_, run, told.replying _ _ _, frame.state, (State.Keeps.fired_resumed s.heard.gated _).replying _ _ _,
      frame.gateTime, ?_⟩
    rw [State.replying, frame.link]
    rfl
  · have same_show := (State.SameShow.pressed_gated s .cgo).trans
      (.resumed (s.contactChanged .cgo true).gated)
    obtain ⟨fires, told⟩ := State.resumeShow_told (s := (s.contactChanged .cgo true).gated) hold arm
      ((same_show.nextTold cue).mpr h)
    rw [same_show.firingTold] at told
    have frame := State.ShowFrame.fire (s.contactChanged .cgo true).gated.resumed
      (if cue.trigger = .follow then .follow else .withCue)
    exact ⟨_, exec_contactGoPress_resumes hold idle gate awake released fires, told, frame.state,
      State.Keeps.fired_resumed (s.contactChanged .cgo true).gated _, frame.gateTime,
      (congrArg Contacts.ignored frame.contacts :), frame.link⟩

end Sys2Proof.Machine
end

section
/-!
PROOF. A GOTO, its refusals, and the completion of its scan (R76, R82 to R85, R107).
-/

namespace Sys2Proof.Machine

/-! ### The request (R82) -/

theorem parseGoto_bytesOf {n time : Nat} (hn : n < 65536) (ht : time < 65536) :
    parseGoto (bytesOf 2 n ++ bytesOf 2 time) = some { cue := n, loadTime := time } := by
  have read : parseGoto (bytesOf 2 n ++ bytesOf 2 time) =
      some { cue := natOf (bytesOf 2 n), loadTime := natOf (bytesOf 2 time) } := rfl
  rw [read, natOf_bytesOf_two hn, natOf_bytesOf_two ht]

section
variable {s : State} {n : Nat} (time : Nat) (b : Bool)

theorem serveGoto_refused {r : Result} (why : r = .badField ∧ (n = 0 ∨ 9999 < n) ∨ 1 ≤ n ∧ n ≤ 9999 ∧
    (r = .busy ∧ s.seq.scan ≠ none ∨ r = .noCue ∧ s.seq.scan = none ∧ findCue s.cues n = none)) :
    serveGoto { cue := n, loadTime := time } b s = s.refuse r := by
  unfold serveGoto
  rcases why with ⟨rfl, bad⟩ | ⟨low, high, why⟩
  · have bad : cueNumberOk n = false := by
      rw [Bool.eq_false_iff, ne_eq, cueNumberOk_eq_true]
      omega
    rw [bad, Bool.not_false, if_pos rfl]
  rw [cueNumberOk_eq_true.mpr ⟨low, high⟩, Bool.not_true, if_neg Bool.false_ne_true]
  rcases why with ⟨rfl, scan⟩ | ⟨rfl, idle, absent⟩
  · rw [if_pos (State.scanning_iff.mpr scan)]
  · rw [State.scanning_of_none idle, if_neg Bool.false_ne_true, absent]
    rfl

theorem serveGoto_taken (low : 1 ≤ n) (high : n ≤ 9999) (idle : s.seq.scan = none)
    (found : findCue s.cues n ≠ none) : serveGoto { cue := n, loadTime := time } b s =
      ⟨(s.setSeq { s.seq with
        scan := some { cue := n, loadTime := min time 10000, clamped := decide (10000 < time), age := 0 } }).setArm
          .empty, none⟩ := by
  rw [serveGoto, cueNumberOk_eq_true.mpr ⟨low, high⟩, Bool.not_true, if_neg Bool.false_ne_true,
    State.scanning_of_none idle, if_neg Bool.false_ne_true, if_neg (by rwa [Option.isNone_iff_eq_none])]

end

/-! ### The completion (R83, R84, R107) -/

theorem State.clearShow_clock (s : State) : s.clearShow.clock = { s.clock with point := none } := by
  rw [s.clearShow_told rfl rfl]
  split <;> rfl

/-- While the notices of a clearing find room they are all told (R81, R86). -/
theorem State.clearShow_notices {s : State} (room : s.seq.notices.length + s.seq.flight.length ≤ 16) :
    s.clearShow.seq.notices = s.seq.notices ++
      s.seq.flight.map fun f => { kind := .cleared, cue := f.cue, firing := f.id, cause := none } := by
  rw [s.clearShow_told (room := 16 - s.seq.notices.length) (lost := 0) rfl (by omega), if_pos rfl, State.clearing,
    List.take_of_length_le (by omega)]
  rfl

/-- The cleared channels have taken the load and the playhead is placed, before the arm is set (R84). -/
def State.loadPlaced (s : State) (k : Scan) : State :=
  (s.clearShow.setChannels (Tab.build 56 fun c =>
    (s.clearShow.chan c).loaded (trackedLevel s.clearShow.cues k.cue c (s.clearShow.chan c).cfg.base)
      (trackedMute s.clearShow.cues k.cue c) k.loadTime)).setSeq { s.clearShow.seq with
        standing := some k.cue, next := cueAfter s.clearShow.cues k.cue, scan := none }

theorem State.setArm_same {s : State} {a : Arm} (arm : s.seq.arm = a) (point : s.clock.point = a.point) :
    s.setArm a = s := by
  subst arm
  rw [State.setArm, ← point]
  rfl

/-- The arm is set in SHOW and HOLD, and stays empty elsewhere (R76, R84). -/
theorem State.loadScan_arms (s : State) (k : Scan) : ∃ arm, s.loadScan k = (s.loadPlaced k).setArm arm ∧
    (s.seq.state = .edit ∨ s.seq.state = .safe → arm = .empty) ∧
    (s.seq.state = .running ∨ s.seq.state = .hold → arm = (s.loadPlaced k).clockArm) := by
  have state : (s.loadPlaced k).seq.state = s.seq.state := (State.ShowFrame.clearShow s).state
  have whole : s.loadScan k = if (s.loadPlaced k).seq.state = .running ∨ (s.loadPlaced k).seq.state = .hold then
      (s.loadPlaced k).setArm (s.loadPlaced k).clockArm else s.loadPlaced k := rfl
  rw [state] at whole
  by_cases live : s.seq.state = .running ∨ s.seq.state = .hold
  · exact ⟨_, whole.trans (if_pos live), fun still => absurd still (ShowState.not_still live), fun _ => rfl⟩
  · refine ⟨.empty, (whole.trans (if_neg live)).trans (State.setArm_same ?_ ?_).symm, fun _ => rfl,
      fun other => absurd other live⟩
    · show s.clearShow.seq.arm = .empty
      rw [s.clearShow_seq]
    · show s.clearShow.clock.point = none
      rw [s.clearShow_clock]

theorem State.loadPlaced_chan (s : State) (k : Scan) (c : Chan) : (s.loadPlaced k).chan c =
    (s.chan c).cleared.loaded (trackedLevel s.cues k.cue c (s.chan c).cfg.base) (trackedMute s.cues k.cue c)
      k.loadTime := by
  have built : (s.loadPlaced k).chan c = (s.clearShow.chan c).loaded
      (trackedLevel s.clearShow.cues k.cue c (s.clearShow.chan c).cfg.base)
      (trackedMute s.clearShow.cues k.cue c) k.loadTime := Tab.get_build _ c
  rw [built, State.clearShow_chan, (State.ShowFrame.clearShow s).cues]
  rfl

/-- A channel without moves after the load: a LOAD move, A at once, or nothing where A stands there (R84, R107). -/
theorem Channel.loaded_cleared (r : Channel) (v : Int) (mute : Bool) (time : Nat) :
    (r.cleared.loaded v mute time).waiting = [] ∧ (r.cleared.loaded v mute time).cue = mute ∧
      (r.cleared.loaded v mute time).level = (if time = 0 then v else r.level) ∧
      (r.cleared.loaded v mute time).active = (if time = 0 ∨ r.level = v then none
        else some { target := v, duration := time, curve := .linear, base := .wall, owner := .load,
                    start := r.level, elapsed := 0 }) ∧
      (r.cleared.loaded v mute time).hand = r.hand := by
  have level : r.cleared.level = r.level := rfl
  rw [Channel.loaded, level]
  by_cases there : r.level = v
  · rw [if_pos there, if_pos (show time = 0 ∨ r.level = v from .inr there)]
    exact ⟨rfl, rfl, by simp [there], rfl, rfl⟩
  by_cases once : time = 0
  · rw [if_neg there, if_pos once, if_pos once, if_pos (show time = 0 ∨ r.level = v from .inl once)]
    exact ⟨rfl, rfl, rfl, rfl, rfl⟩
  · rw [if_neg there, if_neg once, if_neg once, if_neg (not_or.mpr ⟨once, there⟩)]
    exact ⟨rfl, rfl, rfl, rfl, rfl⟩

theorem answerGoto_eq (r : Reply) (buffer : List Entry) :
    answerGoto r buffer = buffer.map fun e => if e.reply = none then { e with reply := some r } else e :=
  List.map_congr_left fun _ _ => if_congr Option.isNone_iff_eq_none rfl rfl

/-- Settles O31: the request's checks, then what the load leaves part by part. -/
theorem gotoLoads : Obligations.GotoLoads := by
  refine ⟨fun s n time h short => ⟨fun low high idle found => ?_, fun r small why => ?_⟩, fun s idle => ?_,
    fun s k awake scan => ?_⟩
  · exact State.request_answers h (parseGoto_bytesOf (by omega) (by omega))
      (by rw [serveGoto_taken (s := s.heard) time false low high idle found]; rfl)
  · exact State.request_refuses h (parseGoto_bytesOf small (by omega))
      (serveGoto_refused (s := s.heard) time false why)
  · show Host.Outcome.next (if s.resetLow then s else _) = _
    rw [idle, ite_self]
  · obtain ⟨arm, whole, still, live⟩ := s.loadScan_arms k
    have frame := State.ShowFrame.clearShow s
    have cues : (s.loadPlaced k).cues = s.cues := frame.cues
    have run : exec .gotoComplete s = .next ((s.loadScan k).setLink { (s.loadScan k).link with
        buffer := answerGoto ⟨0x39, (Result.applied k.clamped).code, playheadBytes (s.loadScan k)⟩
          (s.loadScan k).link.buffer }) := by
      show Host.Outcome.next (if s.resetLow then s else _) = _
      rw [awake, scan, if_neg Bool.false_ne_true]
    rw [whole] at run
    refine ⟨_, run, rfl, rfl, congrArg (cueAfter · k.cue) frame.cues, ?_, frame.state, fun room => ?_,
      frame.surface, frame.output, frame.cues, frame.contacts, ?_, ?_, still, fun now => ?_, ?_⟩
    · show s.clearShow.seq.flight = []
      rw [s.clearShow_seq]
    · exact State.clearShow_notices room
    · show ({ s.clearShow.link with buffer := answerGoto _ s.clearShow.link.buffer } : Link) = _
      rw [frame.link, answerGoto_eq]
      rfl
    · show ({ s.clearShow.clock with point := arm.point } : Clock) = _
      rw [s.clearShow_clock]
      rfl
    · rw [live now]
      exact ⟨fun none_next => State.clockArm_eq_empty none_next, fun d next => State.clockArm_eq next⟩
    · rintro c v rfl
      have load := Channel.loaded_cleared (s.chan c) (trackedLevel s.cues k.cue c (s.chan c).cfg.base)
        (trackedMute s.cues k.cue c) k.loadTime
      rw [← State.loadPlaced_chan] at load
      exact load

end Sys2Proof.Machine
end

section
/-!
PROOF. A correcting mark: its steps, its count toward lock, and the crossing its phase step may make (R78, R117,
R118, R124).
-/

namespace Sys2Proof.Machine

/-! ### Crossings (R78, R124) -/

theorem Clock.crosses_iff {k : Clock} {old : Nat} : k.crosses old = true ↔
    ∃ x, k.point = some (k.song, x) ∧ (k.state = .locked ∨ k.state = .freewheel) ∧ old < x ∧ x ≤ k.whole := by
  unfold Clock.crosses
  cases point : k.point with
  | none => simp
  | some p =>
    obtain ⟨song, x⟩ := p
    simp only [Bool.and_eq_true, Bool.or_eq_true, beq_iff_eq, decide_eq_true_eq, Option.some.injEq, Prod.mk.injEq]
    constructor
    · rintro ⟨⟨same, state⟩, passed⟩
      exact ⟨x, ⟨same.symm, rfl⟩, state, passed⟩
    · rintro ⟨_, ⟨same, rfl⟩, state, passed⟩
      exact ⟨⟨same.symm, state⟩, passed⟩

theorem State.takeCrossing_still {s : State} (h : s.seq.state ≠ .running) : s.takeCrossing = s := if_neg h

/-- A crossing in SHOW fires the next cue and notes it (R46, R78, R124). -/
theorem State.takeCrossing_fires {s : State} {cue : Cue} (state : s.seq.state = .running) (h : s.NextTold cue) :
    s.takeCrossing = (s.fire .clock).setSeq { (s.fire .clock).seq with crossed := some cue.number } := by
  rw [State.takeCrossing, if_pos state, (State.fireChain_told .clock h).1, h.nextIs.1]

theorem State.takeCrossing_told {s : State} {cue : Cue} (state : s.seq.state = .running) (h : s.NextTold cue) :
    s.FiringTold s.takeCrossing cue .clock ∧ s.takeCrossing.seq.crossed = some cue.number ∧
      s.takeCrossing.seq.state = .running ∧ s.takeCrossing.seq.gateTime = s.seq.gateTime := by
  have frame := State.ShowFrame.fire s .clock
  rw [State.takeCrossing_fires state h]
  exact ⟨(State.fireChain_told .clock h).2, rfl, frame.state.trans state, frame.gateTime⟩

/-! ### The clock after a correcting mark (R117, R118) -/

/-- The clock after a correcting mark, and whether it enters LOCKED (R117, R118). -/
def Clock.steered (k : Clock) (m : Nat) : Clock × Bool :=
  (k.corrected m).counted (decide ((k.error m).natAbs ≤ k.cfg.lockWindow))

/-- The Event Unit after a correcting mark: CLOCK_LOCKED is raised where LOCKED is entered (R118). -/
def State.lockEvents (s : State) (m : Nat) : Events :=
  if (s.clock.steered m).2 then (s.raise .clockLocked).events else s.events

/-- A correcting mark writes the clock and the Event Unit, and the crossing of its phase step is then taken. -/
theorem State.correct_eq (s : State) (m : Nat) : s.correct m =
    if (s.clock.steered m).1.crosses s.clock.whole then
      ((s.setClock (s.clock.steered m).1).setEvents (s.lockEvents m)).takeCrossing
    else (s.setClock (s.clock.steered m).1).setEvents (s.lockEvents m) := by
  have written : (if (s.clock.steered m).2 then (s.setClock (s.clock.steered m).1).raise .clockLocked
      else s.setClock (s.clock.steered m).1) =
        (s.setClock (s.clock.steered m).1).setEvents (s.lockEvents m) := by
    unfold State.lockEvents
    split <;> rfl
  rw [← written]
  rfl

/-- What the count toward lock leaves alone (R118). -/
theorem Clock.counted_other (k : Clock) (within : Bool) : (k.counted within).1 =
    { k with state := (k.counted within).1.state, good := (k.counted within).1.good } := by
  unfold Clock.counted
  repeat' split
  all_goals rfl

theorem Clock.counted_locked {k : Clock} (within : Bool) (h : k.state = .locked) :
    k.counted within = (k, false) := by
  rw [Clock.counted, h]

theorem Clock.counted_freewheel {k : Clock} (within : Bool) (h : k.state = .freewheel) :
    k.counted within = ({ k with state := .locked }, true) := by
  rw [Clock.counted, h]

theorem Clock.counted_near {k : Clock} (h : k.state = .locking) (few : k.good < 3) :
    k.counted true = ({ k with good := k.good + 1 }, false) := by
  rw [Clock.counted, h]
  exact (if_pos rfl).trans (if_pos (by omega))

theorem Clock.counted_fourth {k : Clock} (h : k.state = .locking) (three : k.good = 3) :
    k.counted true = ({ k with good := 4, state := .locked }, true) := by
  rw [Clock.counted, h]
  exact (if_pos rfl).trans (if_neg (by omega))

theorem Clock.counted_far {k : Clock} (h : k.state = .locking) :
    k.counted false = ({ k with good := 0 }, false) := by
  rw [Clock.counted, h]
  rfl

/-- A correcting mark never leaves the clock in FREEWHEEL (R118). -/
theorem Clock.counted_state {k : Clock} (within : Bool)
    (h : k.state = .locking ∨ k.state = .locked ∨ k.state = .freewheel) :
    (k.counted within).1.state = .locking ∨ (k.counted within).1.state = .locked := by
  rcases h with state | state | state
  · unfold Clock.counted
    rw [state]
    dsimp only
    repeat' split
    all_goals simp
  · rw [Clock.counted_locked within state]
    exact .inr state
  · rw [Clock.counted_freewheel within state]
    exact .inr rfl

/-- A step that is truncated toward zero is no farther than the error (R117). -/
theorem tdiv_between (e : Int) (n : Nat) :
    min e 0 ≤ e.tdiv (2 ^ n) ∧ e.tdiv (2 ^ n) ≤ max e 0 := by
  have pos : (0 : Int) < 2 ^ n := by positivity
  rcases le_total 0 e with up | down
  · have := Int.tdiv_nonneg up pos.le
    have := Int.tdiv_le_self (b := 2 ^ n) up
    omega
  · have := Int.tdiv_nonneg (a := -e) (by omega) pos.le
    have := Int.tdiv_le_self (a := -e) (b := 2 ^ n) (by omega)
    rw [Int.neg_tdiv] at *
    omega

/-- The phase step ends at the mark at the farthest, within the range of P (R114, R117). -/
theorem Clock.corrected_whole {k : Clock} {m : Nat} (range : k.whole ≤ 4294967295)
    (reach : m + k.cfg.markDelay ≤ 4294967295) :
    ((k.corrected m).whole : Int) = k.whole + (k.error m).tdiv (2 ^ k.cfg.phaseDepth) := by
  have between := tdiv_between (k.error m) k.cfg.phaseDepth
  show ((wholePart (k.whole + (k.error m).tdiv (2 ^ k.cfg.phaseDepth)).toNat : Nat) : Int) = _
  generalize (k.error m).tdiv (2 ^ k.cfg.phaseDepth) = step at between
  unfold wholePart
  unfold Clock.error at between
  omega

theorem Clock.corrected_rate (k : Clock) (m : Nat) : ((k.corrected m).rate : Int) =
    max 64225 (min 66847 (k.rate + (k.error m * 64).tdiv (2 ^ k.cfg.rateDepth))) :=
  Int.toNat_of_nonneg (by unfold clampInt; omega)

/-! ### The mark on the line (R111, R112, R116) -/

theorem Clock.relocates_eq_false {k : Clock} {song m : Nat}
    (state : k.state = .locking ∨ k.state = .locked ∨ k.state = .freewheel) (same : k.song = song)
    (near : |k.error m| ≤ k.cfg.relocate) : k.relocates song m = false := by
  have within : decide (k.cfg.relocate < (k.error m).natAbs) = false := by
    rw [Int.abs_eq_natAbs] at near
    exact decide_eq_false (by omega)
  rw [Clock.relocates, within, same]
  rcases state with state | state | state <;> rw [state] <;> simp

theorem exec_correctingMark {s : State} {song flags : Byte} {position : BitVec 32} (awake : s.resetLow = false)
    (good_song : song.toNat ≤ 99) (good_position : position.toNat ≤ 5999999) (running : flags.getLsbD 0 = true)
    (stays : s.clock.relocates song.toNat position.toNat = false) :
    exec (.timeMark song position flags (markCheck song position flags)) s =
      .next ((s.setClock { s.clock with receiver := .hunt }).correct position.toNat) := by
  show Host.Outcome.next (if s.resetLow then s else _) = _
  rw [awake, if_neg Bool.false_ne_true, if_neg (not_not.mpr rfl), if_neg (by omega)]
  dsimp only
  rw [if_pos running, State.runningMark]
  exact congrArg Host.Outcome.next (if_neg (ne_true_of_eq_false stays))

section
variable (k : Clock) (m : Nat)

theorem Clock.steered_other : (k.steered m).1 = { k.corrected m with
    state := (k.steered m).1.state, good := (k.steered m).1.good } :=
  Clock.counted_other _ _

/-- How a correcting mark acts on the clock state and the good count (R118). -/
theorem Clock.steered_counts :
    (k.state = .locked → (k.steered m).1.state = .locked ∧ (k.steered m).1.good = k.good) ∧
    (k.state = .freewheel → (k.steered m).1.state = .locked ∧ (k.steered m).1.good = k.good ∧
      (k.steered m).2 = true) ∧
    (k.state = .locking → |k.error m| ≤ k.cfg.lockWindow → k.good < 3 →
      (k.steered m).1.state = .locking ∧ (k.steered m).1.good = k.good + 1) ∧
    (k.state = .locking → |k.error m| ≤ k.cfg.lockWindow → k.good = 3 →
      (k.steered m).1.state = .locked ∧ (k.steered m).1.good = 4 ∧ (k.steered m).2 = true) ∧
    (k.state = .locking → (k.cfg.lockWindow : Int) < |k.error m| →
      (k.steered m).1.state = .locking ∧ (k.steered m).1.good = 0) := by
  have near (h : |k.error m| ≤ k.cfg.lockWindow) :
      decide ((k.error m).natAbs ≤ k.cfg.lockWindow) = true :=
    decide_eq_true (by rw [Int.abs_eq_natAbs] at h; omega)
  have far (h : (k.cfg.lockWindow : Int) < |k.error m|) :
      decide ((k.error m).natAbs ≤ k.cfg.lockWindow) = false :=
    decide_eq_false (by rw [Int.abs_eq_natAbs] at h; omega)
  unfold Clock.steered
  refine ⟨fun state => ?_, fun state => ?_, fun state h few => ?_, fun state h three => ?_, fun state h => ?_⟩
  · rw [Clock.counted_locked (k := k.corrected m) _ state]
    exact ⟨state, rfl⟩
  · rw [Clock.counted_freewheel (k := k.corrected m) _ state]
    exact ⟨rfl, rfl, rfl⟩
  · rw [near h, Clock.counted_near (k := k.corrected m) state few]
    exact ⟨state, rfl⟩
  · rw [near h, Clock.counted_fourth (k := k.corrected m) state three]
    exact ⟨rfl, rfl, rfl⟩
  · rw [far h, Clock.counted_far (k := k.corrected m) state]
    exact ⟨state, rfl⟩

end

/-- What a correcting mark leaves: the clock steered, LOCKED raised where it is entered, and beyond the clock and the
Event Unit nothing but what a crossing in SHOW fires (R78, R117, R118, R124). -/
theorem State.correct_leaves {s t : State} {m : Nat} (ht : s.correct m = t) :
    t.clock = { (s.clock.steered m).1 with point := t.clock.point } ∧
    ((s.clock.steered m).2 = true → t.Raised .clockLocked) ∧
    ((s.clock.steered m).1.crosses s.clock.whole = false ∨ s.seq.state ≠ .running →
      t = (s.setClock t.clock).setEvents t.events ∧ t.clock.point = (s.clock.steered m).1.point) ∧
    ((s.clock.steered m).1.crosses s.clock.whole = true → ∀ cue, s.seq.state = .running → s.NextTold cue →
      s.FiringTold t cue .clock ∧ t.seq.crossed = some cue.number ∧ t.seq.state = .running ∧
        t.seq.gateTime = s.seq.gateTime ∧ t.link = s.link ∧ t.surface = s.surface ∧ t.output = s.output ∧
          t.cues = s.cues) := by
  have locks : (s.clock.steered m).2 = true →
      ((s.setClock (s.clock.steered m).1).setEvents (s.lockEvents m)).Raised .clockLocked := fun entered => by
    rw [State.lockEvents, if_pos entered]
    exact State.raise_raised s .clockLocked
  rw [State.correct_eq] at ht
  generalize (s.clock.steered m).1 = k at ht locks ⊢
  generalize s.lockEvents m = v at ht locks
  by_cases crosses : k.crosses s.clock.whole = true
  · rw [if_pos crosses] at ht
    subst ht
    have frame := State.PlayFrame.takeCrossing ((s.setClock k).setEvents v)
    refine ⟨frame.clock, fun entered => State.Keeps.takeCrossing _ _ (locks entered), fun why => ?_,
      fun _ cue running h => ?_⟩
    · have still := why.resolve_left (by rw [crosses]; decide)
      rw [State.takeCrossing_still (s := (s.setClock k).setEvents v) still]
      exact ⟨rfl, rfl⟩
    · obtain ⟨told, crossed, state, gate⟩ :=
        State.takeCrossing_told (s := (s.setClock k).setEvents v) running h
      exact ⟨told, crossed, state, gate, frame.link, frame.surface, frame.output, frame.cues⟩
  · rw [if_neg crosses] at ht
    subst ht
    exact ⟨rfl, locks, fun _ => ⟨rfl, rfl⟩, fun other => absurd other crosses⟩

/-- Settles O37: the steps and the count are the clock's, and the crossing is the show's. -/
theorem marksCorrectClock : Obligations.MarksCorrectClock := by
  rintro s song flags position e awake good_song good_position running range state same rfl near
  have run := exec_correctingMark awake good_song good_position running (Clock.relocates_eq_false state same near)
  generalize left : (s.setClock { s.clock with receiver := .hunt }).correct position.toNat = t at run
  obtain ⟨clock, locks, quiet, fires⟩ := State.correct_leaves left
  obtain ⟨locked, freewheel, near_few, near_three, far⟩ :=
    Clock.steered_counts { s.clock with receiver := .hunt } position.toNat
  have other := Clock.steered_other { s.clock with receiver := .hunt } position.toNat
  have enters := Clock.counted_state (k := Clock.corrected { s.clock with receiver := .hunt } position.toNat)
    (decide ((s.clock.error position.toNat).natAbs ≤ s.clock.cfg.lockWindow)) state
  change (Clock.steered _ _).1.state = _ ∨ (Clock.steered _ _).1.state = _ at enters
  have whole := Clock.corrected_whole (k := { s.clock with receiver := .hunt }) (m := position.toNat)
    range.2.2.2.1 (by have := range.2.2.2.2.2.2.2.2.2.1; dsimp only; omega)
  have rate := Clock.corrected_rate { s.clock with receiver := .hunt } position.toNat
  dsimp only [State.setClock_clock] at clock locks quiet fires
  generalize Clock.steered { s.clock with receiver := .hunt } position.toNat = k at *
  have point : k.1.point = s.clock.point := (congrArg Clock.point other :)
  have song_eq : k.1.song = s.clock.song := (congrArg Clock.song other :)
  have to_whole : t.clock.whole = k.1.whole := (congrArg Clock.whole clock :)
  have to_state : t.clock.state = k.1.state := (congrArg Clock.state clock :)
  have to_good : t.clock.good = k.1.good := (congrArg Clock.good clock :)
  have crosses : k.1.crosses s.clock.whole = true ↔ ∃ x, s.clock.point = some (song.toNat, x) ∧
      s.clock.whole < x ∧ x ≤ t.clock.whole ∧ t.clock.state = .locked := by
    rw [Clock.crosses_iff, point, song_eq, same, to_whole, to_state]
    refine exists_congr fun x => and_congr_right fun _ => ⟨fun ⟨at_state, from_below, reached⟩ =>
      ⟨from_below, reached, ?_⟩, fun ⟨from_below, reached, at_state⟩ => ⟨.inl at_state, from_below, reached⟩⟩
    rcases enters with locking | locked
    · rw [locking] at at_state
      exact absurd at_state (by decide)
    · exact locked
  have still (h : k.1.crosses s.clock.whole = false ∨ s.seq.state ≠ .running) :
      t = (s.setClock t.clock).setEvents t.events ∧ t.clock.point = s.clock.point :=
    ⟨(quiet h).1, (quiet h).2.trans point⟩
  refine ⟨t, run, fun none_crossed => still (.inl ?_), fun x at_point from_below reached at_locked =>
      ⟨fun elsewhere => still (.inr elsewhere), fires (crosses.mpr ⟨x, at_point, from_below, reached, at_locked⟩)⟩,
    ?_, ?_, ?_, ?_, ?_, fun not_locking => ?_, fun locking h few => ?_, fun locking h three => ?_, fun locking h => ?_,
    fun wheel => locks (freewheel wheel).2.2⟩
  · rw [Bool.eq_false_iff, ne_eq, crosses]
    rintro ⟨x, at_point, from_below, reached, at_locked⟩
    rcases none_crossed with locking | outside
    · exact absurd (locking.symm.trans at_locked) (by decide)
    · rcases outside x at_point with low | high <;> omega
  · rw [to_whole, (congrArg Clock.whole other :)]
    exact whole
  · exact (congrArg Clock.frac clock :).trans (congrArg Clock.frac other :)
  · exact (congrArg Clock.song clock :).trans song_eq
  · exact (congrArg Clock.markTimer clock).trans (congrArg Clock.markTimer other)
  · rw [(congrArg Clock.rate clock :), (congrArg Clock.rate other :)]
    exact rate
  · rw [to_state, to_good]
    rcases state with locking | is_locked | wheel
    · exact absurd locking not_locking
    · exact locked is_locked
    · exact ⟨(freewheel wheel).1, (freewheel wheel).2.1⟩
  · rw [to_state, to_good]
    exact near_few locking h few
  · rw [to_state, to_good]
    obtain ⟨now_locked, four, entered⟩ := near_three locking h three
    exact ⟨now_locked, four, locks entered⟩
  · rw [to_state, to_good]
    exact far locking h

end Sys2Proof.Machine
end

section
/-!
PROOF. The advance of P across an armed clock point (R71, R72, R78, R92 to R97, R123, R124).
-/

namespace Sys2Proof.Machine

/-! ### The flight table in a millisecond, and in one in which the show stands still (R74, R100, R104) -/

section
variable (s : State)

theorem State.completeFiring_flight (f : Firing) :
    (s.completeFiring f).seq.flight = s.seq.flight.filter fun g => g.id != f.id := by
  unfold State.completeFiring
  dsimp only
  obtain ⟨-, -, -, -, flight⟩ := State.notify_seq
    (s.setSeq { s.seq with flight := s.seq.flight.filter fun g => g.id != f.id })
    { kind := .complete, cue := f.cue, firing := f.id, cause := none }
  split <;> exact flight

/-- An end never adds a firing to the flight table (R74, R100). -/
theorem State.countEnd_flight (id : Nat) : (s.countEnd id).seq.flight.length ≤ s.seq.flight.length := by
  unfold State.countEnd
  split
  · exact Nat.le_refl _
  · split
    · rw [State.completeFiring_flight]
      exact List.length_filter_le _ _
    · exact (List.length_map _).le

theorem State.reportEnd_flight (o : Owner) : (s.reportEnd o).seq.flight.length ≤ s.seq.flight.length := by
  cases o with
  | firing id cue => exact s.countEnd_flight id
  | remote => exact Nat.le_refl _
  | load => exact Nat.le_refl _

theorem State.reportActive_flight (c : Chan) :
    (s.reportActive c).seq.flight.length ≤ s.seq.flight.length := by
  unfold State.reportActive
  split
  · exact Nat.le_refl _
  · exact s.reportEnd_flight _

theorem State.completeMove_flight (c : Chan) :
    (s.completeMove c).seq.flight.length ≤ s.seq.flight.length := by
  unfold State.completeMove
  split
  · exact Nat.le_refl _
  · exact State.reportEnd_flight _ _

theorem State.startMove_flight (c : Chan) (p : PendingMove) :
    (s.startMove c p).seq.flight.length ≤ s.seq.flight.length := by
  unfold State.startMove
  split
  · unfold State.startLevel
    dsimp only
    split
    · exact (State.reportEnd_flight _ _).trans (s.reportActive_flight c)
    · exact s.reportActive_flight c
  · exact State.countEnd_flight _ _
  · exact State.countEnd_flight _ _

theorem State.startDue_flight (n : Nat) (c : Chan) :
    (State.startDue n s c).seq.flight.length ≤ s.seq.flight.length := by
  induction n generalizing s with
  | zero => exact Nat.le_refl _
  | succ n ih =>
    rw [State.startDue]
    split
    · refine (ih _).trans ?_
      unfold State.startHead
      split
      · exact Nat.le_refl _
      · exact State.startMove_flight _ c _
    · exact Nat.le_refl _

theorem State.movesTick_flight (c : Chan) : (s.movesTick c).seq.flight.length ≤ s.seq.flight.length := by
  have active : (s.activeTick c).seq.flight.length ≤ s.seq.flight.length := by
    unfold State.activeTick
    dsimp only
    repeat' split
    · exact Nat.le_refl _
    · exact s.completeMove_flight c
    · exact Nat.le_refl _
    · exact Nat.le_refl _
  unfold State.movesTick State.pendingTick
  repeat' split
  · exact active
  · exact (State.startDue_flight _ _ c).trans active
  · exact active

end

theorem State.showAdvances_still {s : State} (h : s.seq.state ≠ .running) (b : Timebase) :
    s.showAdvances b = false := by
  unfold State.showAdvances
  rw [beq_eq_false_iff_ne.mpr h, Bool.false_and]

/-- Outside SHOW the moves of firings stand still, and the other moves end to nobody (R100, R104). -/
theorem State.movesTick_seq_still {s : State} (h : s.seq.state ≠ .running) (c : Chan) :
    (s.movesTick c).seq = s.seq := by
  have active : (s.activeTick c).seq = s.seq := by
    unfold State.activeTick
    split
    · rfl
    · rename_i m moving
      split
      · rename_i advances
        dsimp only
        split
        · rw [State.completeMove, moving]
          unfold State.moveAdvances at advances
          cases owner : m.owner with
          | firing id cue =>
            rw [owner] at advances
            exact absurd advances (ne_true_of_eq_false (State.showAdvances_still h m.base))
          | remote =>
            dsimp only
            rw [owner]
            rfl
          | load =>
            dsimp only
            rw [owner]
            rfl
        · rfl
      · rfl
  rw [State.movesTick, State.pendingTick]
  split
  · exact active
  · rw [State.showAdvances_still (by rw [active]; exact h)]
    exact active

theorem State.ticked_frame (s : State) : s.tickCounters.glide.ShowFrame s.ticked := State.armTick_frame _

section
variable {s : State} (quiet : ∀ id, s.seq.arm ≠ .await id)
include quiet

/-- A millisecond adds no firing to the flight table (R74, R100). -/
theorem State.moved_flight : s.moved.seq.flight.length ≤ s.seq.flight.length := by
  have kept := foldl_closed (P := fun t => t.seq.flight.length ≤ s.seq.flight.length) State.movesTick
    (fun t c h => (t.movesTick_flight c).trans h) allChans s.ticked (by rw [s.ticked_seq]; exact Nat.le_refl _)
  rw [State.moved_eq s quiet, State.allMoves]
  exact kept

theorem State.moved_flight_still (still : s.seq.state ≠ .running) : s.moved.seq.flight = s.seq.flight := by
  rw [State.moved_eq s quiet, State.allMoves]
  have kept := foldl_closed (P := fun t => t.seq.state ≠ .running ∧ t.seq.flight = s.seq.flight) State.movesTick
    (fun t c ⟨state, flight⟩ => by rw [State.movesTick_seq_still state]; exact ⟨state, flight⟩) allChans s.ticked
    ⟨by rw [s.ticked_frame.state]; exact still, by rw [s.ticked_seq]; rfl⟩
  exact kept.2

end

/-! ### The entry of a firing whose moves all have a delay (R71, R72) -/

theorem State.NextTold.slow {s : State} {cue : Cue} (h : s.NextTold cue) (later : ∀ m ∈ cue.moves, 0 < m.delay)
    (named : cue.moves ≠ []) : s.NextSlow cue := by
  rcases h with ⟨next, alone⟩ | slow
  · refine ⟨next, later, fun d found why => ?_⟩
    rcases why with withCue | ⟨-, none_named⟩
    · exact (alone d found).2 withCue
    · exact absurd none_named named
  · exact slow

theorem State.fire_entry {s : State} {cue : Cue} (cause : Cause) (h : s.NextSlow cue) (named : cue.moves ≠ [])
    (landed : s.seq.flight = []) : (s.fire cause).seq.flight =
      [{ id := s.seq.nextId, cue := cue.number, cause, outstanding := cue.moves.length }] := by
  have room : s.makeRoom = s.setArm .empty := by
    rw [State.makeRoom]
    exact if_pos (show s.seq.flight.length < 8 by rw [landed]; decide)
  have entered : (s.makeRoom.enterFiring cue cause).seq.flight = [s.makeRoom.entryFor cue cause] := by
    rw [room]
    show s.seq.flight ++ _ = _
    rw [landed]
    rfl
  have placed := (s.makeRoom.enterFiring cue cause).placeFiring_seq cue s.seq.nextId fun m _ p hp => by
    have other : p.firing ≠ s.seq.nextId := h.1.2.2 m.channel p (by rw [room] at hp; exact hp)
    have own : (s.makeRoom.entryFor cue cause).id = s.seq.nextId := s.makeRoom_nextId
    rw [entered]
    simp [own, Ne.symm other]
  have announced : (s.announced cue cause).seq.flight = [s.makeRoom.entryFor cue cause] := by
    rw [State.announced, State.announce, State.raise_seq]
    obtain ⟨-, -, -, -, flight⟩ := State.notify_seq (((s.makeRoom.enterFiring cue cause).placeFiring cue
      s.seq.nextId).setSeq { ((s.makeRoom.enterFiring cue cause).placeFiring cue s.seq.nextId).seq with
        standing := some cue.number
        next := cueAfter ((s.makeRoom.enterFiring cue cause).placeFiring cue s.seq.nextId).cues cue.number })
      { kind := .fired, cue := cue.number, firing := s.seq.nextId, cause := some cause }
    refine flight.trans ?_
    show ((s.makeRoom.enterFiring cue cause).placeFiring cue s.seq.nextId).seq.flight = _
    rw [placed.1, entered]
  rw [State.fire_slow_eq cause h, State.fireSteps_eq, if_neg (by simpa using named)]
  refine announced.trans ?_
  rw [State.entryFor, s.makeRoom_nextId]

/-! ### The crossing of the advance (R78, R124) -/

theorem State.LinesRest.wall {s : State} (h : s.LinesRest) : s.wallMillisecond.seq = s.advanceAll.seq ∧
    s.wallMillisecond.chan = s.advanceAll.chan ∧ s.wallMillisecond.clock.point = s.advanceAll.clock.point ∧
      ∀ e, s.wallMillisecond.flagged e = s.advanceAll.flagged e := by
  refine ⟨?_, ?_, ?_, fun e => ?_⟩
  · rw [s.wallMillisecond_seq, h.sampleAll, State.sampled_seq]
  · rw [s.wallMillisecond_chan, h.sampleAll, State.sampled_chan]
  · rw [s.wallMillisecond_clock_eq, h.sampleAll, State.sampled_clock]
  · rw [s.wallMillisecond_flagged, h.sampleAll]
    exact State.flagged_congr e (State.sampled_events _ _)

theorem State.armAfter_congr {s t : State} (cues : t.cues = s.cues) (nextId : t.seq.nextId = s.seq.nextId)
    (cue : Cue) : t.armAfter cue = s.armAfter cue := by
  unfold State.armAfter State.successor
  rw [cues, nextId]

theorem State.channelKept_room {s : State} (room : s.seq.flight.length < 8) (c : Chan) :
    s.channelKept c = s.chan c := by
  unfold State.channelKept
  split
  · rfl
  · rename_i f rest flight
    rw [flight, List.length_cons] at room
    exact if_pos (by omega)

section
variable {s : State} {x : Nat} (clock : s.clock.state = .locked ∨ s.clock.state = .freewheel)
  (arm : s.seq.arm = .clock s.clock.song x) (point : s.PointMatches) (below : s.clock.whole < x)
  (reach : x ≤ s.clock.whole + (s.clock.frac + s.clock.rate) / 65536) (position : x ≤ 5999999)
include clock arm point below reach position

theorem State.advanceAll_crosses : s.advanceAll = s.moved.takeCrossing := by
  have runs : s.clock.runs = true := Clock.runs_iff.mpr (.inr clock)
  have crosses : s.clock.tick.crosses s.clock.whole = true := by
    refine Clock.crosses_iff.mpr ⟨x, ?_, clock, below, ?_⟩
    · exact point.trans (by rw [arm]; rfl)
    · show x ≤ if s.clock.runs then wholePart _ else _
      rw [runs, if_pos rfl, wholePart]
      omega
  rw [State.advanceAll_eq, if_pos crosses]

end

/-- Settles O41: the millisecond leaves the show ready for the cue, and the crossing fires it. -/
theorem crossingFires : Obligations.CrossingFires := by
  intro s cue x awake clock arm point rest below reach position
  have quiet : ∀ id, s.seq.arm ≠ .await id := fun id => by rw [arm]; exact nofun
  have advanced := State.advanceAll_crosses clock arm point below reach position
  obtain ⟨seq, chan, at_point, flagged⟩ := rest.wall
  rw [advanced] at seq chan at_point flagged
  obtain ⟨next, standing, nextId⟩ := State.moved_playhead quiet
  have frame := s.moved_frame
  have cues : s.moved.cues = s.cues := frame.cues
  have flight := State.moved_flight quiet
  refine ⟨fun running told => ?_, fun hold => ⟨_, exec_clockAdvance awake, ?_⟩⟩
  · have told' : s.moved.NextTold cue := told.of_eq next cues nextId fun _ _ hp => State.moved_waiting quiet hp
    rw [State.takeCrossing_fires (frame.state.trans running) told'] at seq chan at_point flagged
    obtain ⟨fired_standing, fired_next, fired_id, raised, -, -⟩ := State.fire_fired .clock told'.nextIs
    obtain ⟨fired_arm, fired_point⟩ := told'.fire_arm .clock
    rw [State.armAfter_congr cues nextId] at fired_arm fired_point
    rw [cues] at fired_next
    rw [nextId] at fired_id
    refine ⟨_, exec_clockAdvance awake, ?_⟩
    rw [seq, chan, at_point]
    refine ⟨fired_standing, fired_next, rfl, fired_id, (flagged _).trans raised, fired_arm, fired_point,
      fun landed none_told => ?_, fun landed named later => ?_, fun room c r hr => ?_⟩
    · obtain ⟨landed', none_told'⟩ := State.moved_idle quiet landed none_told
      rw [← nextId]
      exact State.fire_notice .clock told'.nextIs landed' none_told'
    · rw [landed] at flight
      rw [← nextId]
      exact State.fire_entry .clock (told'.slow later named) named (List.length_eq_zero_iff.mp (by simpa using flight))
    · rw [hr, ← State.moved_chan s quiet]
      refine (State.fire_chan .clock told'.nextIs c).trans ?_
      rw [State.channelKept_room (flight.trans_lt room), nextId]
  · have still : s.moved.seq.state ≠ .running := by
      rw [frame.state]
      show s.seq.state ≠ .running
      rw [hold]
      decide
    rw [State.takeCrossing_still still] at seq at_point
    rw [seq, at_point]
    obtain ⟨moved_arm, moved_point⟩ := s.moved_arm quiet
    refine ⟨next, standing, moved_arm.trans (State.armLeft_still (by rw [hold]; decide)), ?_,
      State.moved_flight_still quiet (by rw [hold]; decide)⟩
    rw [moved_point, s.ticked_point point]
    rfl

end Sys2Proof.Machine
end

section
/-!
PROOF. A qualified release of a touch line: the channel handed back, the pending mapping taken, and the firing that
the end of a move may bring (R74, R77, R101, R132, R139 to R141).
-/

namespace Sys2Proof.Machine

/-! ### The mapping that waits (R141) -/

section
variable (s : State) (f : Slot) {d : Fader}

theorem State.remap_none (none_waits : d.pending = none) : (s.setFader f d).remap f = s.setFader f d := by
  rw [State.remap, State.setFader_fader_self, none_waits]

theorem State.remap_some {m : Option Chan} (waits : d.pending = some m) : (s.setFader f d).remap f =
    (s.setFader f { d with mapping := m, pending := none }).raise .remapDone := by
  have again : (s.setFader f d).setFader f { d with mapping := m, pending := none } =
      s.setFader f { d with mapping := m, pending := none } := by
    simp [State.setFader]
  rw [State.remap, State.setFader_fader_self, waits]
  dsimp only
  rw [again]

end

/-! ### The release of a fader (R139, R140) -/

/-- What a release of slot `f` leaves beyond the surface: a BLOCKED fader changes nothing, a HOLDING one hands its
channel back by its release mode (R101, R139, R140). -/
def State.HandedBack (s : State) (f : Slot) (handed : State) : Prop :=
  (s.fader f).state = .blocked ∧ handed = s ∨
    ∃ c h, s.Holds f c ∧ (s.chan c).hand = .held h ∧
      handed = (if (s.chan c).cfg.release = .keep then
          (s.reportActive c).setChan c { s.chan c with level := h, hand := .free, active := none }
        else s.setChan c { s.chan c with
          hand := if (s.chan c).cfg.returnTime = 0 then .free else .gliding h 0 (s.chan c).cfg.returnTime })

/-- The channels and the sequencer alone are written, and an arm that awaits no end stays. -/
structure State.HandKept (s t : State) : Prop where
  surface : t.surface = s.surface
  contacts : t.contacts = s.contacts
  output : t.output = s.output
  link : t.link = s.link
  cues : t.cues = s.cues
  state : t.seq.state = s.seq.state
  gateTime : t.seq.gateTime = s.seq.gateTime
  arm : (∀ id, s.seq.arm ≠ .await id) → t.seq.arm = s.seq.arm

theorem State.HandedBack.kept {s handed : State} {f : Slot} (h : s.HandedBack f handed) : s.HandKept handed := by
  rcases h with ⟨-, rfl⟩ | ⟨c, v, -, -, rfl⟩
  · exact ⟨rfl, rfl, rfl, rfl, rfl, rfl, rfl, fun _ => rfl⟩
  · split
    · have frame := State.ShowFrame.reportActive s c
      exact ⟨frame.surface, frame.contacts, frame.output, frame.link, frame.cues, frame.state, frame.gateTime,
        fun quiet => ((State.Quiet.reportActive s c).arm quiet).1⟩
    · exact ⟨rfl, rfl, rfl, rfl, rfl, rfl, rfl, fun _ => rfl⟩

theorem State.handBack_setSurface {s : State} {c : Chan} (h : Int) (x : Surface) :
    (s.setSurface x).handBack c h = (s.handBack c h).setSurface x := by
  unfold State.handBack
  simp only [State.setSurface_chan]
  split
  · rfl
  · rw [State.setSurface_reportActive]
    rfl

theorem State.handBack_eq {s : State} {c : Chan} (h : Int) : s.handBack c h =
    if (s.chan c).cfg.release = .keep then
      (s.reportActive c).setChan c { s.chan c with level := h, hand := .free, active := none }
    else s.setChan c { s.chan c with
      hand := if (s.chan c).cfg.returnTime = 0 then .free else .gliding h 0 (s.chan c).cfg.returnTime } := by
  unfold State.handBack
  cases mode : (s.chan c).cfg.release with
  | ret => rfl
  | keep =>
    dsimp only
    rw [State.reportActive_chan]
    rfl

/-- A release makes the fader FREE and then takes its pending mapping, on top of what it hands back. -/
theorem State.releaseFader_handed {s handed : State} {f : Slot} (h : s.HandedBack f handed) :
    s.releaseFader f = (handed.setFader f { s.fader f with state := .free }).remap f := by
  have surface := h.kept.surface
  rcases h with ⟨blocked, rfl⟩ | ⟨c, v, ⟨holding, mapped⟩, held, back⟩
  · rw [State.releaseFader, blocked]
  · rw [← State.handBack_eq] at back
    subst back
    have freed : (s.setFader f { s.fader f with state := .free }).handBack c v =
        (s.handBack c v).setFader f { s.fader f with state := .free } := by
      rw [State.setFader, State.handBack_setSurface, State.setFader, surface]
    have level : ((s.setFader f { s.fader f with state := .free }).chan c).releaseLevel = v := by
      rw [State.setFader_chan, Channel.releaseLevel, held]
    rw [State.releaseFader, holding]
    dsimp only
    rw [← freed]
    generalize s.setFader f { s.fader f with state := .free } = t at level
    rw [mapped]
    dsimp only
    rw [level]

/-! ### The release of a line (R132, R139 to R141) -/

theorem State.fader_touchChanged (s : State) (f g : Slot) (active : Bool) :
    (s.touchChanged f active).fader g = s.fader g := rfl

theorem exec_qualifiedRelease {s : State} {f : Slot} (awake : s.resetLow = false)
    (active : (s.surface.touch.get f).qualified = true) :
    exec (.qualifiedRelease f) s = .next ((s.touchChanged f false).handOff f) := by
  show Host.Outcome.next (if s.resetLow || !(s.surface.touch.get f).qualified then s else _) = _
  rw [awake, active, Bool.not_true, Bool.or_false, if_neg Bool.false_ne_true]

theorem State.waitDue_still {s : State} (h : s.seq.state ≠ .running) : s.waitDue = false := by
  unfold State.waitDue
  rw [beq_eq_false_iff_ne.mpr h, Bool.false_and]

/-- An arm that an event has left alone does not expire with it (R77, R79). -/
theorem State.settledFrom_same_arm {s t : State} (h : t.seq.arm = s.seq.arm) : t.settledFrom s = t := by
  by_cases waits : s.seq.arm.isWaiting = true
  · exact if_pos waits
  · refine (if_neg waits).trans (State.settled_of_not_due (State.waitDue_eq_false fun b arm => waits ?_))
    rw [← h, arm]
    rfl

theorem State.handOff_still {s : State} {f : Slot} (h : s.slotUsed f = false ∨ (s.fader f).state = .free) :
    s.handOff f = s := by
  rcases h with unused | free
  · rw [State.handOff, unused, if_neg Bool.false_ne_true]
  · rw [State.handOff, State.releaseFader, free]
    dsimp only
    rw [State.settledFrom_same_arm rfl, ite_self]

/-- The line is inactive and the fader FREE with its pending mapping taken, on top of what it hands back (R132,
R139 to R141). -/
def State.Released (s : State) (f : Slot) (handed u : State) : Prop :=
  (s.fader f).pending = none ∧
      u = (handed.touchChanged f false).setFader f { s.fader f with state := .free } ∨
    ∃ m, (s.fader f).pending = some m ∧ u = ((handed.touchChanged f false).setFader f { s.fader f with
      state := .free, mapping := m, pending := none }).raise .remapDone

section
variable {s handed u : State} {f : Slot} (back : s.HandedBack f handed) (released : s.Released f handed u)
include released

theorem State.Released.same : u.seq = handed.seq ∧ u.link = handed.link ∧ u.contacts = handed.contacts ∧
    u.output = handed.output ∧ u.cues = handed.cues := by
  rcases released with ⟨-, rfl⟩ | ⟨m, -, rfl⟩ <;> exact ⟨rfl, rfl, rfl, rfl, rfl⟩

include back

theorem State.Released.releaseFader : (s.touchChanged f false).releaseFader f = u := by
  have line : handed.touchChanged f false = handed.setSurface (s.touchChanged f false).surface := by
    rw [State.touchChanged, back.kept.surface]
    rfl
  have moved : (s.touchChanged f false).HandedBack f (handed.touchChanged f false) := by
    rw [line]
    rcases back with ⟨blocked, rfl⟩ | ⟨c, v, holds, held, rfl⟩
    · exact .inl ⟨blocked, rfl⟩
    · refine .inr ⟨c, v, holds, held, ?_⟩
      rw [← State.handBack_eq, ← State.handBack_eq (s := s.touchChanged f false)]
      exact (State.handBack_setSurface v _).symm
  rw [State.releaseFader_handed moved, State.fader_touchChanged]
  rcases released with ⟨none_waits, rfl⟩ | ⟨m, waits, rfl⟩
  · exact State.remap_none _ f none_waits
  · exact State.remap_some _ f waits

/-- What a qualified release of a fader in use does. -/
theorem State.Released.handOff (used : s.slotUsed f = true) :
    (s.touchChanged f false).handOff f = u.settledFrom (s.touchChanged f false) := by
  have used' : (s.touchChanged f false).slotUsed f = true := used
  rw [State.handOff, if_pos used', released.releaseFader back]

end

/-- Settles O45: the release leaves the fader's own change, and a wait of 0 that it has set expires. -/
theorem releaseHandsBack : Obligations.ReleaseHandsBack := by
  intro s f awake active line hline
  obtain rfl : line = fun u => u.setSurface { u.surface with
      touch := s.surface.touch.set f { level := false, qualified := false, count := 0 } } := funext hline
  have run := exec_qualifiedRelease awake active
  refine ⟨fun still => ?_, fun used handed u back => ?_⟩
  · rw [run, State.handOff_still (s := s.touchChanged f false) still]
    rfl
  have kept := State.HandedBack.kept back
  have off : s.Released f handed u → (s.touchChanged f false).handOff f = _ :=
    fun released => released.handOff back used
  have line_eq : handed.setSurface { handed.surface with
      touch := s.surface.touch.set f { level := false, qualified := false, count := 0 } } =
        handed.touchChanged f false := by
    rw [State.touchChanged, kept.surface]
    rfl
  dsimp only
  rw [line_eq]
  intro released
  obtain ⟨seq, link, contacts, output, cues⟩ := State.Released.same released
  have arm : (∀ id, s.seq.arm ≠ .await id) → u.seq.arm = s.seq.arm := fun quiet => by rw [seq]; exact kept.arm quiet
  rw [off released] at run
  have state : u.seq.state = s.seq.state := by rw [seq]; exact kept.state
  refine ⟨fun none_due => ?_, fun b cue running due other told => ?_⟩
  · rw [run]
    rcases none_due with still | none_zero | same
    · rw [State.settledFrom_of_not_due _ (State.waitDue_still (by rw [state]; exact still))]
    · rw [State.settledFrom_of_not_due _ (State.waitDue_eq_false none_zero)]
    · rw [State.settledFrom_same_arm (s := s.touchChanged f false) same]
  · have not_waiting : (s.touchChanged f false).seq.arm.isWaiting = false := by
      by_contra waits
      refine other (arm fun id await => waits ?_)
      show s.seq.arm.isWaiting = false
      rw [await]
      rfl
    rw [State.settledFrom, not_waiting, if_neg Bool.false_ne_true,
      State.settled_fires (State.waitDue_of_waiting (state.trans running) due) told] at run
    have frame := State.ShowFrame.fire u (if cue.trigger = .follow then .follow else .withCue)
    exact ⟨_, run, (State.fireChain_told _ told).2, frame.state.trans (state.trans running),
      frame.gateTime.trans (by rw [seq]; exact kept.gateTime), frame.link.trans (link.trans kept.link), frame.surface,
      frame.contacts.trans (contacts.trans kept.contacts), frame.output.trans (output.trans kept.output),
      frame.cues.trans (cues.trans kept.cues)⟩

end Sys2Proof.Machine
end

section
/-!
PROOF. How pending moves are placed, how they start and how active moves end, and how the ends are counted (R74, R92
to R100, R104, R110).
-/

namespace Sys2Proof.Machine

/-! ### Ends that are counted (R74, R100) -/

section
variable (s : State) (f : Firing)

/-- An arm that awaits the firing starts to wait, and any other arm stays (R74). -/
theorem State.completeFiring_arm : (s.completeFiring f).seq.arm =
    if s.seq.arm = .await f.id then s.waitingArm else s.seq.arm := by
  obtain ⟨arm, next, cues, -, -⟩ := State.notify_seq
    (s.setSeq { s.seq with flight := s.seq.flight.filter fun g => g.id != f.id })
    { kind := .complete, cue := f.cue, firing := f.id, cause := none }
  unfold State.completeFiring
  dsimp only
  rw [State.raise_seq, arm, State.setSeq_seq]
  split
  · show State.waitingArm (State.raise _ _) = _
    rw [State.waitingArm, State.waitingArm, State.raise_nextCue, State.nextCue, next, cues]
    rfl
  · exact arm

theorem State.waitingArm_of_next {q : Cue} (h : s.nextCue = some q) :
    s.waitingArm = .waiting (q.wait * 65536) q.base := by
  rw [State.waitingArm, h]

/-- The last end of a firing completes it (R74). -/
theorem State.completeFiring_leaves (room : s.seq.notices.length < 16) :
    (s.completeFiring f).seq.flight = s.seq.flight.filter (fun g => decide (g.id ≠ f.id)) ∧
      (s.completeFiring f).seq.notices = s.seq.notices ++
        [{ kind := .complete, cue := f.cue, firing := f.id, cause := none }] ∧
      (s.completeFiring f).Raised .cueComplete ∧ (s.completeFiring f).channels = s.channels ∧
      (s.completeFiring f).seq.state = s.seq.state ∧ (s.completeFiring f).seq.next = s.seq.next ∧
      (s.completeFiring f).seq.standing = s.seq.standing ∧
      (s.seq.arm ≠ .await f.id → (s.completeFiring f).seq.arm = s.seq.arm) ∧
      (s.seq.arm = .await f.id → ∀ q, s.nextCue = some q →
        (s.completeFiring f).seq.arm = .waiting (q.wait * 65536) q.base) := by
  have quiet := State.Quiet.completeFiring s f
  refine ⟨?_, s.completeFiring_told f room, (s.completeFiring_flagged f .cueComplete room).mpr (.inr rfl),
    s.completeFiring_channels f, (State.ShowFrame.completeFiring s f).state, quiet.next, quiet.standing,
    fun other => ?_, fun awaited q next => ?_⟩
  · rw [s.completeFiring_flight]
    exact List.filter_congr fun g _ => by rw [Bool.eq_iff_iff, bne_iff_ne, decide_eq_true_iff]
  · rw [s.completeFiring_arm, if_neg other]
  · rw [s.completeFiring_arm, if_pos awaited, s.waitingArm_of_next next]

end

/-- A flight table entry after `n` ends of firing `id` (R100). -/
def Firing.counted (id n : Nat) (g : Firing) : Firing :=
  if g.id = id then { g with outstanding := g.outstanding - n } else g

section
variable (id n m : Nat) (g : Firing)

theorem Firing.counted_zero : g.counted id 0 = g := ite_self _

theorem Firing.counted_id : (g.counted id n).id = g.id := by
  unfold Firing.counted
  split <;> rfl

theorem Firing.counted_counted : (g.counted id n).counted id m = g.counted id (n + m) := by
  rw [Firing.counted, g.counted_id]
  by_cases own : g.id = id
  · rw [if_pos own, Firing.counted, if_pos own, Firing.counted, if_pos own, Nat.sub_sub]
  · rw [if_neg own, Firing.counted, if_neg own, Firing.counted, if_neg own]

end

section
variable {s : State} {id : Nat}

theorem State.countEnd_absent (h : s.seq.flight.find? (fun g => g.id == id) = none) : s.countEnd id = s := by
  rw [State.countEnd, h]

theorem State.countEnd_more {f : Firing} (h : s.seq.flight.find? (fun g => g.id == id) = some f)
    (more : 1 < f.outstanding) :
    s.countEnd id = s.setSeq { s.seq with flight := s.seq.flight.map (Firing.counted id 1) } := by
  have same : (fun g : Firing => if g.id == id then { g with outstanding := g.outstanding - 1 } else g) =
      Firing.counted id 1 := funext fun _ => if_congr beq_iff_eq rfl rfl
  rw [State.countEnd, h]
  dsimp only
  rw [if_neg (by omega), same]

theorem State.countEnd_last {f : Firing} (h : s.seq.flight.find? (fun g => g.id == id) = some f)
    (last : f.outstanding ≤ 1) : s.countEnd id = s.completeFiring f := by
  rw [State.countEnd, h]
  exact if_pos last

theorem State.find_id {f : Firing} (h : s.seq.flight.find? (fun g => g.id == id) = some f) : f.id = id := by
  simpa using List.find?_some h

theorem State.reportActive_none {c : Chan} (h : (s.chan c).active = none) : s.reportActive c = s := by
  rw [State.reportActive, h]

theorem State.reportActive_some {c : Chan} {m : ActiveMove} (h : (s.chan c).active = some m) :
    s.reportActive c = s.reportEnd m.owner := by
  rw [State.reportActive, h]

end

/-- So many ends of one firing, fewer than are outstanding, lower its count by as many (R100). -/
theorem State.countEnds_seq {i : Nat} (l : List PendingMove) (own : ∀ p ∈ l, p.firing = i) {s : State} {f : Firing}
    (h : s.seq.flight.find? (fun g => g.id == i) = some f) (more : l.length < f.outstanding) :
    (l.foldl (fun t p => t.countEnd p.firing) s).seq =
      { s.seq with flight := s.seq.flight.map (Firing.counted i l.length) } := by
  induction l generalizing s f with
  | nil =>
    have same : Firing.counted i 0 = id := funext (Firing.counted_zero i)
    show s.seq = { s.seq with flight := s.seq.flight.map (Firing.counted i 0) }
    rw [same, List.map_id]
  | cons p l ih =>
    rw [List.length_cons] at more
    rw [List.foldl_cons, own p List.mem_cons_self, State.countEnd_more h (by omega)]
    have found : (s.seq.flight.map (Firing.counted i 1)).find? (fun g => g.id == i) = some (f.counted i 1) := by
      have stays : (fun g : Firing => g.id == i) ∘ Firing.counted i 1 = fun g => g.id == i :=
        funext fun g => congrArg (· == i) (Firing.counted_id i 1 g)
      rw [List.find?_map, stays, h, Option.map_some]
    have fewer : l.length < (f.counted i 1).outstanding := by
      rw [Firing.counted, if_pos (State.find_id h)]
      show l.length < f.outstanding - 1
      omega
    have twice : Firing.counted i l.length ∘ Firing.counted i 1 = Firing.counted i (p :: l).length := by
      funext g
      rw [Function.comp, Firing.counted_counted, List.length_cons, Nat.add_comm]
    rw [ih (fun q hq => own q (List.mem_cons_of_mem p hq)) found fewer, ← twice, ← List.map_map]
    rfl

/-! ### The pending list of a firing (R92, R93) -/

/-- A move takes its place behind every move of the same delay (R93). -/
theorem insertMove_filter (p : PendingMove) (k : Nat) {l : List PendingMove}
    (h : l.Pairwise fun a b => a.delay ≤ b.delay) :
    (insertMove p l).filter (fun q => q.delay == k) = (l ++ [p]).filter fun q => q.delay == k := by
  induction l with
  | nil => rfl
  | cons q l ih =>
    obtain ⟨first, rest⟩ := List.pairwise_cons.mp h
    rw [insertMove]
    split
    · rename_i before
      by_cases at_k : p.delay = k
      · have later : ∀ x ∈ q :: l, (x.delay == k) = false := fun x hx => by
          have : q.delay ≤ x.delay := by
            rcases List.mem_cons.mp hx with rfl | hx
            · exact Nat.le_refl _
            · exact first x hx
          exact beq_eq_false_iff_ne.mpr (by omega)
        have none_at : (q :: l).filter (fun x => x.delay == k) = [] :=
          List.filter_eq_nil_iff.mpr fun x hx => ne_true_of_eq_false (later x hx)
        rw [List.filter_cons, List.filter_append, none_at, if_pos (beq_iff_eq.mpr at_k)]
        simp [at_k]
      · have not_at : (p.delay == k) = false := beq_eq_false_iff_ne.mpr at_k
        rw [List.filter_cons, List.filter_append, not_at, if_neg Bool.false_ne_true]
        simp [not_at]
    · rw [List.filter_cons, ih rest, List.cons_append, List.filter_cons]

theorem foldl_insertMove_filter (k : Nat) (ps l : List PendingMove)
    (h : l.Pairwise fun a b => a.delay ≤ b.delay) :
    (ps.foldl (fun l p => insertMove p l) l).filter (fun q => q.delay == k) =
      (l ++ ps).filter fun q => q.delay == k := by
  induction ps generalizing l with
  | nil => rw [List.foldl_nil, List.append_nil]
  | cons p ps ih =>
    rw [List.foldl_cons, ih _ (insertMove_ascending p h), List.filter_append, insertMove_filter p k h,
      ← List.filter_append, List.append_assoc, List.singleton_append]

/-- The moves of one delay stand in the order of the cue (R93). -/
theorem pendingFor_filter (cue : Cue) (id : Nat) (c : Chan) (d : Nat) :
    (pendingFor cue id c).filter (fun p => p.delay == d * 65536) =
      (cue.moves.filter fun m => m.channel == c && m.delay == d).map fun m =>
        { action := m.action, target := m.target, duration := m.duration, curve := m.curve,
          delay := d * 65536, base := cue.base, firing := id, cue := cue.number, counted := false } := by
  have picked : ((fun p : PendingMove => p.delay == d * 65536) ∘ fun m : StoredMove =>
      m.copy id cue.number cue.base) = fun m => m.delay == d := by
    funext m
    show (m.delay * 65536 == d * 65536) = (m.delay == d)
    rw [Bool.eq_iff_iff, beq_iff_eq, beq_iff_eq]
    omega
  rw [pendingFor, foldl_insertMove_filter _ _ _ List.Pairwise.nil, List.nil_append, List.filter_map, picked,
    List.filter_filter]
  have order : (fun m : StoredMove => (m.delay == d) && (m.channel == c)) = fun m => m.channel == c && m.delay == d :=
    funext fun _ => Bool.and_comm _ _
  rw [order]
  refine List.map_congr_left fun m hm => ?_
  have delay : m.delay = d := by
    have := (List.mem_filter.mp hm).2
    simp only [Bool.and_eq_true, beq_iff_eq] at this
    exact this.2
  rw [StoredMove.copy, delay]

theorem State.placeOn_unnamed {s : State} {cue : Cue} {id : Nat} {c : Chan} (h : ∀ m ∈ cue.moves, m.channel ≠ c) :
    s.placeOn cue id c = s := by
  rw [State.placeOn, if_neg]
  simpa using h

theorem State.placeOn_seq {s : State} {cue : Cue} {id : Nat} {c : Chan} (h : ∃ m ∈ cue.moves, m.channel = c) :
    (s.placeOn cue id c).seq = ((s.chan c).waiting.foldl (fun t p => t.countEnd p.firing) s).seq := by
  rw [State.placeOn, if_pos (by simpa using h)]
  rfl

theorem State.placeOn_chan_named {s : State} {cue : Cue} {id : Nat} {c : Chan} (h : ∃ m ∈ cue.moves, m.channel = c) :
    (s.placeOn cue id c).chan c = { s.chan c with waiting := pendingFor cue id c } := by
  rw [State.placeOn_chan, if_pos (by simpa using h)]

/-! ### Counting an end neither reads nor writes the channels (R100) -/

section
variable (s : State) (x : Tab 56 Channel)

theorem State.setChannels_notify (n : Notice) : (s.setChannels x).notify n = (s.notify n).setChannels x := by
  unfold State.notify
  rw [State.setChannels_seq]
  split <;> rfl

theorem State.setChannels_completeFiring (f : Firing) :
    (s.setChannels x).completeFiring f = (s.completeFiring f).setChannels x := by
  have set : ∀ q, (s.setChannels x).setSeq q = (s.setSeq q).setChannels x := fun _ => rfl
  have raise : ∀ (t : State) (e : Event), (t.setChannels x).raise e = (t.raise e).setChannels x := fun _ _ => rfl
  unfold State.completeFiring
  simp only [State.setChannels_seq, set, State.setChannels_notify, raise]
  split <;> rfl

theorem State.setChannels_countEnd (id : Nat) : (s.setChannels x).countEnd id = (s.countEnd id).setChannels x := by
  unfold State.countEnd
  rw [State.setChannels_seq]
  split
  · rfl
  · split
    · exact s.setChannels_completeFiring x _
    · rfl

theorem State.setChannels_reportEnd (o : Owner) : (s.setChannels x).reportEnd o = (s.reportEnd o).setChannels x := by
  cases o with
  | firing id cue => exact s.setChannels_countEnd x id
  | remote => rfl
  | load => rfl

end

section
variable (s : State) (c : Chan) (r q : Channel)

theorem State.setChan_twice : (s.setChan c r).setChan c q = s.setChan c q :=
  congrArg s.setChannels (Tab.set_twice s.channels c r q)

theorem State.setChan_countEnd (id : Nat) : (s.setChan c r).countEnd id = (s.countEnd id).setChan c r := by
  rw [State.setChan, State.setChannels_countEnd, State.setChan, State.countEnd_channels]

theorem State.setChan_reportEnd (o : Owner) : (s.setChan c r).reportEnd o = (s.reportEnd o).setChan c r := by
  cases o with
  | firing id cue => exact s.setChan_countEnd c r id
  | remote => rfl
  | load => rfl

/-- A channel written before its active move is reported, and again after, stands as written last. -/
theorem State.setChan_reportActive_setChan (same : r.active = (s.chan c).active) :
    ((s.setChan c r).reportActive c).setChan c q = (s.reportActive c).setChan c q := by
  have written : ((s.setChan c r).chan c).active = (s.chan c).active := by rw [State.setChan_chan_self, same]
  cases active : (s.chan c).active with
  | none => rw [State.reportActive_none active, State.reportActive_none (written.trans active), State.setChan_twice]
  | some m =>
    rw [State.reportActive_some active, State.reportActive_some (written.trans active), State.setChan_reportEnd,
      State.setChan_twice]

end

/-! ### The start of a move (R94 to R96) -/

/-- The state in which what is within `d` of its start has fallen due on the channel (R94, R97). -/
def State.fallDue (s : State) (c : Chan) (d : Nat) : State :=
  s.setChan c { s.chan c with waiting := dueWithin d (s.chan c).waiting }

/-- What a level move that starts writes on its channel (R95). -/
def Channel.taken (r : Channel) (target : Int) (duration : Nat) (curve : Curve) (base : Timebase) (owner : Owner) :
    Channel :=
  { r with
    level := if duration = 0 ∨ curve = .snapStart then target else r.level
    active := if duration = 0 then none else some
      { target, duration, curve, base, owner, start := r.level, elapsed := 0 } }

/-- A level move reports the active move and takes the channel, or with duration 0 ends at once (R95). -/
theorem State.startLevel_setChan {s : State} {c : Chan} {r : Channel} (same : r.active = (s.chan c).active)
    (target : Int) (duration : Nat) (curve : Curve) (base : Timebase) (owner : Owner) :
    (s.setChan c r).startLevel c target duration curve base owner =
      if duration = 0 then
        ((s.reportActive c).setChan c (r.taken target duration curve base owner)).reportEnd owner
      else (s.reportActive c).setChan c (r.taken target duration curve base owner) := by
  unfold State.startLevel
  dsimp only
  rw [State.reportActive_chan, State.setChan_chan_self, State.setChan_reportActive_setChan s c r _ same,
    State.setChan_reportActive_setChan s c r _ same]
  by_cases zero : duration = 0
  · rw [if_pos zero, if_pos zero, Channel.taken, if_pos (.inl zero), if_pos zero]
  · rw [if_neg zero, if_neg zero, Channel.taken, if_neg zero, ActiveMove.now]
    dsimp only
    rw [Nat.zero_div, moveLevel_zero _ _ _ _ zero]
    simp only [zero, false_or]

section
variable {s : State} {c : Chan} {p : PendingMove}

theorem State.startIsDue_iff : s.startIsDue p = true ↔
    s.showAdvances p.base = true ∧ p.counted = true ∧ p.delay ≤ s.advance p.base := by
  rw [State.startIsDue, Bool.and_eq_true, Bool.and_eq_true, decide_eq_true_iff, and_assoc]

theorem State.endIsDue_iff {m : ActiveMove} : s.endIsDue m = true ↔
    s.moveAdvances m = true ∧ 0 < m.elapsed ∧ m.duration * 65536 ≤ m.elapsed + s.advance m.counts := by
  rw [State.endIsDue, Bool.and_eq_true, decide_eq_true_iff]

theorem exec_moveStart_due {rest : List PendingMove} (awake : s.resetLow = false)
    (waiting : (s.chan c).waiting = p :: rest) (due : s.startIsDue p = true) :
    exec (.moveStart c) s =
      .next ((State.startDue (rest.length + 1) (s.fallDue c (s.advance p.base)) c).settledFrom s) := by
  show Host.Outcome.next (if s.resetLow then s else _) = _
  rw [awake, if_neg Bool.false_ne_true, State.fallDue, waiting]
  dsimp only
  rw [if_pos due]

theorem exec_moveStart_still (h : ∀ p ∈ (s.chan c).waiting, s.startIsDue p = false) :
    exec (.moveStart c) s = .next s := by
  show Host.Outcome.next (if s.resetLow then s else _) = _
  cases waiting : (s.chan c).waiting with
  | nil => exact congrArg _ (ite_self s)
  | cons p rest =>
    dsimp only
    rw [h p (by rw [waiting]; exact List.mem_cons_self), if_neg Bool.false_ne_true, ite_self]

theorem exec_moveComplete_due {m : ActiveMove} (awake : s.resetLow = false) (active : (s.chan c).active = some m)
    (due : s.endIsDue m = true) : exec (.moveComplete c) s =
      .next (((s.setChan c { s.chan c with level := m.target, active := none }).reportEnd m.owner).settledFrom s) := by
  show Host.Outcome.next (if s.resetLow then s else _) = _
  rw [awake, if_neg Bool.false_ne_true, State.completeMove, active]
  dsimp only
  rw [if_pos due]

theorem exec_moveComplete_still (h : ∀ m, (s.chan c).active = some m → s.endIsDue m = false) :
    exec (.moveComplete c) s = .next s := by
  show Host.Outcome.next (if s.resetLow then s else _) = _
  cases active : (s.chan c).active with
  | none => exact congrArg _ (ite_self s)
  | some m =>
    dsimp only
    rw [h m active, if_neg Bool.false_ne_true, ite_self]

/-- A move alone in its list, when it is due, is all that starts (R94). -/
theorem State.startDue_single (waiting : (s.chan c).waiting = [p]) (due : p.delay ≤ s.advance p.base) :
    State.startDue 1 (s.fallDue c (s.advance p.base)) c =
      (s.setChan c { s.chan c with waiting := [] }).startMove c { p with delay := 0 } := by
  have at_zero : dueWithin (s.advance p.base) [p] = [{ p with delay := 0 }] := by
    rw [dueWithin, List.map_singleton, if_pos due]
  rw [State.fallDue, waiting, at_zero, State.startDue, if_pos (by rw [State.setChan_chan_self]; rfl), State.startDue,
    State.startHead, State.setChan_chan_self]
  dsimp only
  rw [State.setChan_twice]

end

section
variable {s : State} {c : Chan} {p : PendingMove}

theorem exec_moveStart_single (awake : s.resetLow = false) (waiting : (s.chan c).waiting = [p])
    (due : s.startIsDue p = true)
    (settled : ((s.setChan c { s.chan c with waiting := [] }).startMove c { p with delay := 0 }).waitDue = false) :
    exec (.moveStart c) s =
      .next ((s.setChan c { s.chan c with waiting := [] }).startMove c { p with delay := 0 }) := by
  rw [exec_moveStart_due awake waiting due, List.length_nil, Nat.zero_add,
    State.startDue_single waiting (State.startIsDue_iff.mp due).2.2, State.settledFrom_of_not_due s settled]

/-- A LEVEL move alone in its list starts (R94, R95). -/
theorem exec_moveStart_level (awake : s.resetLow = false) (waiting : (s.chan c).waiting = [p])
    (due : s.startIsDue p = true) (level : p.action = .level) {t : State}
    (taken : t = (s.reportActive c).setChan c (Channel.taken { s.chan c with waiting := [] } p.target p.duration p.curve
      p.base (.firing p.firing p.cue)))
    (settled : (if p.duration = 0 then t.countEnd p.firing else t).waitDue = false) :
    exec (.moveStart c) s = .next (if p.duration = 0 then t.countEnd p.firing else t) := by
  have starts : (s.setChan c { s.chan c with waiting := [] }).startMove c { p with delay := 0 } =
      if p.duration = 0 then t.countEnd p.firing else t := by
    rw [State.startMove]
    dsimp only
    rw [level]
    dsimp only
    rw [State.startLevel_setChan (r := { s.chan c with waiting := [] }) rfl, taken]
    rfl
  rw [← starts] at settled ⊢
  exact exec_moveStart_single awake waiting due settled

/-- A MUTE or UNMUTE move alone in its list starts (R94, R96). -/
theorem exec_moveStart_mute (awake : s.resetLow = false) (waiting : (s.chan c).waiting = [p])
    (due : s.startIsDue p = true) (other : p.action ≠ .level) {u : State}
    (set : u = (s.setChan c { s.chan c with waiting := [], cue := decide (p.action = .mute) }).countEnd p.firing)
    (settled : u.waitDue = false) : exec (.moveStart c) s = .next u := by
  have starts : (s.setChan c { s.chan c with waiting := [] }).startMove c { p with delay := 0 } = u := by
    rw [State.startMove, set]
    dsimp only
    cases action : p.action with
    | level => exact absurd action other
    | mute =>
      dsimp only
      rw [State.setChan_twice, State.setChan_chan_self]
      rfl
    | unmute =>
      dsimp only
      rw [State.setChan_twice, State.setChan_chan_self]
      rfl
  rw [← starts] at settled ⊢
  exact exec_moveStart_single awake waiting due settled

/-- What is due of a list starts in list order, and other channels, the show and an arm that awaits nothing stay
(R94, R97). -/
theorem exec_moveStart_list {rest : List PendingMove} (awake : s.resetLow = false)
    (waiting : (s.chan c).waiting = p :: rest) (due : s.startIsDue p = true) (awaits : ∀ id, s.seq.arm ≠ .await id) :
    ∃ t, exec (.moveStart c) s = .next t ∧
      t.chan c = (s.chan c).started (dueWithin (s.advance p.base) (p :: rest)) ∧
      (∀ d, d ≠ c → t.chan d = s.chan d) ∧ t.seq.arm = s.seq.arm ∧ t.seq.state = s.seq.state := by
  have list : (s.fallDue c (s.advance p.base)).chan c =
      { s.chan c with waiting := dueWithin (s.advance p.base) (p :: rest) } := by
    rw [State.fallDue, State.setChan_chan_self, waiting]
  have size : ((s.fallDue c (s.advance p.base)).chan c).waiting.length ≤ rest.length + 1 := by
    rw [list, dueWithin, List.length_map, List.length_cons]
  have arm : (State.startDue (rest.length + 1) (s.fallDue c (s.advance p.base)) c).seq.arm = s.seq.arm :=
    ((State.Quiet.startDue (rest.length + 1) (s.fallDue c (s.advance p.base)) c).arm awaits).1
  refine ⟨State.startDue (rest.length + 1) (s.fallDue c (s.advance p.base)) c, ?_, ?_, fun d other => ?_, arm,
    (State.ShowFrame.startDue (rest.length + 1) (s.fallDue c (s.advance p.base)) c).state⟩
  · rw [exec_moveStart_due awake waiting due, State.settledFrom_same_arm arm]
  · rw [State.startDue_chan _ _ _ size, list, Channel.started_setWaiting]
  · rw [State.startDue_other _ _ other.symm]
    exact State.setChan_chan_ne s _ other.symm

end

/-- Settles O35: the case equations of `countEnd` and `reportEnd`, the starts and ends that are due, and the
places of a firing's moves. -/
theorem movesStartAndEnd : Obligations.MovesStartAndEnd := by
  refine ⟨fun s id => ⟨State.countEnd_absent, fun f found => ⟨State.countEnd_more found, fun last room =>
      ⟨_, State.countEnd_last found last, ?_⟩⟩⟩,
    fun s => ⟨fun _ _ => rfl, rfl, rfl, fun c => ⟨State.reportActive_none, fun _ => State.reportActive_some⟩⟩,
    fun s c awake => ⟨fun p waiting advances counted near => ?_, fun p rest waiting advances counted near =>
      exec_moveStart_list awake waiting (State.startIsDue_iff.mpr ⟨advances, counted, near⟩),
      fun m active advances run near u ends settled => ?_⟩,
    fun s c => ⟨fun still => exec_moveStart_still fun p hp => ?_, fun still => exec_moveComplete_still fun m active => ?_⟩,
    fun cue id c => ⟨pendingFor_ascending cue id c, pendingFor_filter cue id c⟩,
    fun s cue id c => ⟨State.placeOn_unnamed, fun named => ⟨State.placeOn_chan_named named,
      fun d other => State.placeOn_other s cue id other.symm, fun i f own found more => ?_⟩⟩⟩
  · rw [← State.find_id found]
    exact s.completeFiring_leaves f room
  · have due := State.startIsDue_iff.mpr ⟨advances, counted, near⟩
    refine ⟨fun level t taken u hu settled => ?_, fun other u => exec_moveStart_mute awake waiting due other⟩
    rw [hu] at settled ⊢
    exact exec_moveStart_level awake waiting due level taken settled
  · rw [ends] at settled ⊢
    rw [exec_moveComplete_due awake active (State.endIsDue_iff.mpr ⟨advances, run, near⟩),
      State.settledFrom_of_not_due s settled]
  · rw [Bool.eq_false_iff, Ne, State.startIsDue_iff]
    rintro ⟨advances, counted, near⟩
    rcases still p hp with stands | fresh | later
    · exact Bool.false_ne_true (stands.symm.trans advances)
    · exact Bool.false_ne_true (fresh.symm.trans counted)
    · exact absurd near (Nat.not_le.mpr later)
  · rw [Bool.eq_false_iff, Ne, State.endIsDue_iff]
    rintro ⟨advances, run, near⟩
    rcases still m active with stands | fresh | later
    · exact Bool.false_ne_true (stands.symm.trans advances)
    · exact absurd fresh (Nat.pos_iff_ne_zero.mp run)
    · exact absurd near (Nat.not_le.mpr later)
  · rw [State.placeOn_seq named]
    exact State.countEnds_seq _ own found more

end Sys2Proof.Machine
end

section
/-!
PROOF. LEVEL: the REMOTE move it starts, and the fields it refuses (R95, R98, R105).
-/

namespace Sys2Proof.Machine

theorem natOf_triple (a b c : Byte) : natOf [a, b, c] = (a ++ b ++ c).toNat := by
  rw [BitVec.toNat_append, ← natOf_pair, ← Nat.shiftLeft_add_eq_or_of_lt c.isLt, Nat.shiftLeft_eq]
  rfl

theorem parseLevel_body (ch b1 b0 d2 d1 d0 k : Byte) :
    parseLevel [ch, b1, b0, d2, d1, d0, k] = some ⟨ch, (b1 ++ b0).toInt, (d2 ++ d1 ++ d0).toNat, k⟩ :=
  congrArg (fun time => some (LevelBody.mk ch (intOf b1 b0) time k)) (natOf_triple d2 d1 d0)

/-- What a move that takes the channel writes, by whether it has a duration (R95, R105). -/
theorem Channel.taken_eq_ite (r : Channel) (target : Int) (duration : Nat) (curve : Curve) (base : Timebase)
    (owner : Owner) : r.taken target duration curve base owner =
      if duration = 0 then { r with level := target, active := none }
      else { r with
        level := if curve = .snapStart then target else r.level
        active := some { target, duration, curve, base, owner, start := r.level, elapsed := 0 } } := by
  by_cases zero : duration = 0
  · simp only [Channel.taken, zero, true_or, if_true]
  · simp only [Channel.taken, zero, false_or, if_false]

theorem State.heard_reportActive (s : State) (c : Chan) : s.heard.reportActive c = (s.reportActive c).heard := by
  have link : (s.reportActive c).link = s.link := (State.ShowFrame.reportActive s c).link
  have heard : (s.reportActive c).heard = (s.reportActive c).setLink s.heard.link := by
    rw [State.heard, link]
    rfl
  rw [heard, ← State.setLink_reportActive]
  rfl

/-- What is written on a channel neither sets nor ends a wait (R77). -/
theorem State.setChan_waitDue (s : State) (c : Chan) (r : Channel) : (s.setChan c r).waitDue = s.waitDue := rfl

/-- A REMOTE move reports the active move and takes the channel; its own end with time 0 is reported to nobody
(R100, R105). -/
theorem State.startLevel_remote (s : State) (c : Chan) (target : Int) (time : Nat) (curve : Curve) :
    s.startLevel c target time curve .wall .remote =
      (s.reportActive c).setChan c ((s.chan c).taken target time curve .wall .remote) := by
  calc s.startLevel c target time curve .wall .remote
    _ = (s.setChan c (s.chan c)).startLevel c target time curve .wall .remote := by rw [State.setChan_chan_id]
    _ = _ := by rw [State.startLevel_setChan rfl, State.reportEnd, ite_self]

/-- LEVEL with a channel and a curve starts a REMOTE move with its numbers brought into their ranges (R105). -/
theorem serveLevel_starts (f : LevelBody) (b : Bool) {s : State} {c : Chan} {k : Curve} {target : Int} {time : Nat}
    (channel : chanOf f.channel = some c) (curve : Curve.ofCode f.curve = some k)
    (toTarget : target = clampLevel f.target) (toTime : time = min f.time 600000)
    (still : (s.reportActive c).waitDue = false) :
    serveLevel f b s =
      ((s.reportActive c).setChan c ((s.chan c).taken target time k .wall .remote)).reply
        (if target = f.target ∧ time = f.time then .ok else .okClamped)
        (int2 target ++ bytesOf 3 time ++ int2 (s.chan c).level ++
          ownerField ((s.chan c).active.map ActiveMove.owner)) := by
  have unclamped : (target != f.target || time != f.time) = false ↔ target = f.target ∧ time = f.time := by
    simp only [Bool.or_eq_false_iff, bne_eq_false_iff_eq]
  rw [serveLevel, channel, curve]
  dsimp only
  rw [← toTarget, ← toTime, State.startLevel_remote,
    State.settledFrom_of_not_due s ((State.setChan_waitDue _ _ _).trans still), Result.applied_of_iff unclamped]

/-- LEVEL is refused for a channel or a curve outside its range (R105). -/
theorem serveLevel_refused (f : LevelBody) (b : Bool) (s : State)
    (bad : f.channel.toNat = 0 ∨ 56 < f.channel.toNat ∨ 5 < f.curve.toNat) :
    serveLevel f b s = s.refuse .badField := by
  unfold serveLevel
  split
  · next c k channel curve =>
    have low : f.channel.toNat = c.val + 1 := chanOf_eq_some.mp channel
    have high : ¬ 5 < f.curve.toNat := fun out => by
      rw [Curve.ofCode_eq_none out] at curve
      cases curve
    omega
  · rfl

/-- Settles O19: LEVEL starts its REMOTE move from A, and a bad channel or curve is refused. -/
theorem levelStartsMove : Obligations.LevelStartsMove := by
  refine ⟨fun s c k b1 b0 d2 d1 d0 target time h toTarget toTime still =>
      State.request_answers h (parseLevel_body _ b1 b0 d2 d1 d0 _) ?starts,
    fun s ch b1 b0 d2 d1 d0 k h bad => State.request_answers h (parseLevel_body ch b1 b0 d2 d1 d0 k) ?refused⟩
  case starts =>
    rw [serveLevel_starts _ false (chanOf_byte c) k.ofCode_code toTarget toTime
      ((congrArg State.waitDue (s.heard_reportActive c)).trans still), State.heard_reportActive, Channel.taken_eq_ite]
    rfl
  case refused =>
    rw [serveLevel_refused _ _ _ bad]
    rfl

end Sys2Proof.Machine
end

section
/-!
PROOF. Messages read back: the characters of a request judged one by one over LRX, and those of a time mark over TMIN
(R111, R173 to R176, R196, R197, R199, R200; log entry 23).
-/

namespace Sys2Proof.Machine

/-! ### Characters that bring no row about (R176) -/

/-- These good characters take the receiver from one state to another, and none of them brings a row of the table
about. -/
inductive Receiver.Takes (address : BitVec 5) : Receiver → List LinkChar → Receiver → Prop
  | nil (r : Receiver) : Takes address r [] r
  | cons {r p q : Receiver} {c : LinkChar} {cs : List LinkChar} (first : r.judge address c true = (p, none))
      (rest : Takes address p cs q) : Takes address r (c :: cs) q

theorem Receiver.run_cons (address : BitVec 5) (r : Receiver) (c : LinkChar) {cs : List LinkChar} (more : cs ≠ []) :
    Receiver.run address r (c :: cs) = Receiver.run address (r.judge address c true).1 cs := by
  cases cs with
  | nil => exact absurd rfl more
  | cons d cs => rfl

/-- A run ends as its last character is judged. -/
theorem Receiver.Takes.run {address : BitVec 5} {r q : Receiver} {cs : List LinkChar}
    (takes : Receiver.Takes address r cs q) (c : LinkChar) :
    Receiver.run address r (cs ++ [c]) = q.judge address c true := by
  induction takes with
  | nil r => rfl
  | cons first rest ih => rw [List.cons_append, Receiver.run_cons _ _ _ (by simp), first, ih]

/-! ### Steps that judge a character of LRX (R176, R177; log entry 23) -/

/-- A character without a gap before it and with a good stop bit. -/
def LinkChar.heard (c : LinkChar) : LinkHeard := { quiet := 0, char := c, stop := true, ago := 0 }

theorem State.nextCharacter_link {s : State} (awake : s.resetLow = false) {h : LinkHeard} {rest : List LinkHeard}
    (line : s.link.line = h :: rest) : s.nextCharacter = some (s.judgeLink h rest) := by
  rw [State.nextCharacter, awake, line]
  rfl

theorem State.judgeLink_heard {s : State} (hears : s.Hears) (c : LinkChar) (rest : List LinkHeard) :
    s.judgeLink c.heard rest =
      match s.link.receiver.judge s.link.address c true with
      | (r, none) => (s.linkHeard r rest, none)
      | (_, some i) => (s.setLink { s.link with line := rest }, some i) := by
  have driven : s.link.releasedBefore c.heard = false := by rw [Link.releasedBefore, hears.2]; rfl
  have no_gap : decide (gapQuiet s.link.divider ≤ c.heard.quiet) = false :=
    decide_eq_false (by simp [gapQuiet, LinkChar.heard])
  rw [State.judgeLink, driven, hears.hears, no_gap, Bool.and_false]
  rfl

section
variable {s : State} (idle : s.pending = []) (hears : s.Hears) {c : LinkChar} {rest : List LinkHeard}
  (line : s.link.line = c.heard :: rest)
include idle hears line

/-- A character that brings no row about is taken by a step of its own. -/
theorem step_takes {r : Receiver} (judged : s.link.receiver.judge s.link.address c true = (r, none)) :
    step s = .next (s.linkHeard r rest) := by
  rw [step, idle, State.nextCharacter_link hears.1 line, State.judgeLink_heard hears, judged]

/-- A character that brings a row about runs it, the characters behind it still waiting. -/
theorem step_runs {r : Receiver} {i : Instr}
    (judged : s.link.receiver.judge s.link.address c true = (r, some i)) :
    step s = exec i (s.setLink { s.link with line := rest }) := by
  rw [step, idle, State.nextCharacter_link hears.1 line, State.judgeLink_heard hears, judged]

end

/-- Characters that bring no row about write the receiver, the line and the quiet of LRX alone. -/
theorem Receiver.Takes.stepped {r q : Receiver} {cs : List LinkChar} {s : State}
    (takes : Receiver.Takes s.link.address r cs q) (idle : s.pending = []) (hears : s.Hears)
    (receiver : s.link.receiver = r) {rest : List LinkHeard} (line : s.link.line = onLine cs ++ rest) :
    ∃ quiet, s.stepped cs.length =
      some (s.setLink { s.link with receiver := q, line := rest, rxQuiet := quiet }) := by
  generalize address : s.link.address = a at takes
  induction takes generalizing s with
  | nil r => exact ⟨s.link.rxQuiet, by rw [← receiver, ← show s.link.line = rest from line]; rfl⟩
  | @cons r p q c cs first _ ih =>
    have taken := step_takes idle hears (c := c) (rest := onLine cs ++ rest) line
      (by rw [receiver, address]; exact first)
    obtain ⟨quiet, stepped⟩ := ih (s := s.linkHeard p (onLine cs ++ rest)) idle hears rfl rfl address
    exact ⟨quiet, by rw [List.length_cons, State.stepped, taken]; exact stepped⟩

/-! ### The characters of a request (R174, R175) -/

theorem destOf_addressChar {address : BitVec 5} {d : Dest} (other : d = .own → address ≠ 31) :
    destOf address (addressChar address d) = some d := by
  cases d with
  | broadcast => rw [addressChar, destOf, if_neg (by decide), if_pos (by decide)]
  | own =>
    have direction : (address.zeroExtend 8).getLsbD 7 = false := by simp
    have number : (address.zeroExtend 8).extractLsb' 0 5 = address := by
      apply BitVec.eq_of_toNat_eq
      have := address.isLt
      simp
      omega
    rw [addressChar, destOf, direction, number, if_neg Bool.false_ne_true, if_neg (other rfl), if_pos rfl]

/-- A character that is no address character. -/
def unmarked (b : Byte) : LinkChar := { data := b, marker := false }

/-- The type and body characters are collected until as many have come as the length says (R175, R176). -/
theorem Receiver.takes_body (address : BitVec 5) (d : Dest) {n : Nat} {bs : List Byte} (some_byte : bs ≠ [])
    {taken : List Byte} (length : taken.length + bs.length = n) :
    Receiver.Takes address (.body d n taken) (bs.map unmarked) (.check d n (taken ++ bs)) := by
  induction bs generalizing taken with
  | nil => exact absurd rfl some_byte
  | cons b bs ih =>
    rw [List.length_cons] at length
    have judged : (Receiver.body d n taken).judge address (unmarked b) true =
      if (taken ++ [b]).length < n then (.body d n (taken ++ [b]), none)
      else (.check d n (taken ++ [b]), none) := rfl
    rw [List.length_append, List.length_singleton] at judged
    by_cases last : bs = []
    · subst last
      rw [List.length_nil] at length
      rw [if_neg (by omega)] at judged
      exact .cons judged (.nil _)
    · have := List.length_pos_iff.mpr last
      rw [if_pos (by omega)] at judged
      have rest := ih last (taken := taken ++ [b])
        (by rw [List.length_append, List.length_singleton]; omega)
      rw [List.append_assoc, List.singleton_append] at rest
      exact .cons judged rest

/-- The characters of a request up to its check. -/
def requestHead (address : BitVec 5) (d : Dest) (code : Byte) (body : List Byte) : List LinkChar :=
  marked (addressChar address d) (byte (body.length + 1) :: code :: body)

/-- The check character of a request. -/
def requestCheck (code : Byte) (body : List Byte) : LinkChar :=
  unmarked (messageCheck (byte (body.length + 1) :: code :: body))

theorem encodeRequest_eq (address : BitVec 5) (d : Dest) (code : Byte) (body : List Byte) :
    encodeRequest address d code body = requestHead address d code body ++ [requestCheck code body] := by
  simp [encodeRequest, requestHead, requestCheck, marked, unmarked]

theorem requestHead_length (address : BitVec 5) (d : Dest) (code : Byte) (body : List Byte) :
    (requestHead address d code body).length = body.length + 3 := by
  simp [requestHead, marked]

/-- The check brings the sum of a message to 0 (R175). -/
theorem charSum_messageCheck (bs : List Byte) : charSum (bs ++ [messageCheck bs]) = 0 := by
  rw [charSum, List.foldl_append]
  exact BitVec.add_right_neg _

/-- The check ends the message, which is then the request of its type code (R175, R197). -/
theorem Receiver.judge_requestCheck {address : BitVec 5} {d : Dest} {code : Byte} {body : List Byte} :
    (Receiver.check d (body.length + 1) (code :: body)).judge address (requestCheck code body) true =
      (.unaddressed, some (requestOf code d body)) := by
  have sum : charSum (byte (body.length + 1) :: (code :: body ++ [(requestCheck code body).data])) = 0 :=
    charSum_messageCheck (byte (body.length + 1) :: code :: body)
  exact congrArg (Prod.mk Receiver.unaddressed) (if_neg (not_not.mpr sum))

section
variable {address : BitVec 5} {d : Dest} {code : Byte} {body : List Byte} (fits : body.length ≤ 248)
include fits

theorem Receiver.takes_requestHead (other : d = .own → address ≠ 31) :
    Receiver.Takes address .unaddressed (requestHead address d code body)
      (.check d (body.length + 1) (code :: body)) := by
  have addressed : Receiver.unaddressed.judge address ⟨addressChar address d, true⟩ true = (.length d, none) := by
    show Receiver.marked address .unaddressed (addressChar address d) = _
    rw [Receiver.marked, destOf_addressChar other]
    rfl
  have number : (byte (body.length + 1)).toNat = body.length + 1 := toNat_byte (by omega)
  have length : (Receiver.length d).judge address (unmarked (byte (body.length + 1))) true =
      (.body d (body.length + 1) [], none) := by
    show (if (byte (body.length + 1)).toNat < 1 ∨ 249 < (byte (body.length + 1)).toNat then _ else
      (Receiver.body d (byte (body.length + 1)).toNat [], none)) = _
    rw [number, if_neg (by omega)]
  exact .cons addressed (.cons length
    (Receiver.takes_body address d (bs := code :: body) (List.cons_ne_nil _ _) (Nat.zero_add _)))

theorem decodeMessage_encodeRequest (other : d = .own → address ≠ 31) :
    decodeMessage address (encodeRequest address d code body) = some (requestOf code d body) := by
  rw [decodeMessage, encodeRequest_eq, (Receiver.takes_requestHead fits other).run, Receiver.judge_requestCheck]

end

/-- What a good request finds of the receiver and of the quiet of LRX makes no difference to it (R176, R183). -/
theorem State.receive_congr {s t : State} (hears : t.hears = s.hears) (heard : s.hears = true)
    (good : t.goodRequest = s.goodRequest) (d : Dest) (code : Byte) (serve : Bool → State → Served) :
    t.receive d code serve = s.receive d code serve := by
  rw [State.receive, State.receive, hears, if_pos heard, if_pos heard, good]

/-- Over LRX a request runs at its last character, on the state that its first one found (R176; log entry 23). -/
theorem stepped_request {s : State} {d : Dest} {code : Byte} {body : List Byte} (fits : body.length ≤ 248)
    (other : d = .own → s.link.address ≠ 31) {rest : List LinkHeard} (idle : s.pending = []) (hears : s.Hears)
    (receiver : s.link.receiver = .unaddressed)
    (line : s.link.line = onLine (encodeRequest s.link.address d code body) ++ rest) :
    ∃ t, s.stepped (body.length + 3) = some t ∧
      step t = exec (requestOf code d body) (s.setLink { s.link with line := rest }) := by
  rw [encodeRequest_eq, onLine, List.map_append, List.append_assoc] at line
  obtain ⟨quiet, stepped⟩ := (Receiver.takes_requestHead fits other).stepped idle hears receiver line
  rw [requestHead_length] at stepped
  refine ⟨_, stepped, ?_⟩
  have last := step_runs (c := requestCheck code body) (rest := rest) idle hears rfl
    (s := s.setLink { s.link with
      receiver := .check d (body.length + 1) (code :: body)
      line := (requestCheck code body).heard :: rest, rxQuiet := quiet }) Receiver.judge_requestCheck
  obtain ⟨rule, judged⟩ := request_rule body code
  refine last.trans ?_
  rw [judged.runs, judged.runs]
  refine congrArg Host.Outcome.next (State.receive_congr ?_ ?_ ?_ d code rule)
  · rfl
  · exact hears.hears
  · rfl

/-! ### The characters of a time mark (R111, R199) -/

theorem natOf_quad (a b c d : Byte) : natOf [a, b, c, d] = (a ++ b ++ c ++ d).toNat := by
  rw [BitVec.toNat_append, ← natOf_triple, ← Nat.shiftLeft_add_eq_or_of_lt d.isLt, Nat.shiftLeft_eq]
  rfl

theorem natOf_bytesOf_four {n : Nat} (h : n < 4294967296) : natOf (bytesOf 4 n) = n := by
  simp only [natOf, bytesOf, List.foldl, BitVec.toNat_ofNat]
  omega

theorem decodeMark_chars (song p3 p2 p1 p0 flags check : Byte) :
    decodeMark [0xA5, song, p3, p2, p1, p0, flags, check] =
      some (.timeMark song (p3 ++ p2 ++ p1 ++ p0) flags check) := rfl

theorem decodeMark_encodeMark (song : Byte) (position : BitVec 32) (flags : Byte) :
    decodeMark (encodeMark song position flags) =
      some (.timeMark song position flags (markCheck song position flags)) := by
  have read := natOf_bytesOf_four position.isLt
  simp only [bytesOf, natOf_quad] at read
  simp only [encodeMark, bytesOf, List.cons_append, List.nil_append, decodeMark_chars,
    BitVec.eq_of_toNat_eq read]

/-- Settles O4: the receiver takes a request's characters silently up to its check, and a mark's up to the last. -/
theorem messagesReadBack : Obligations.MessagesReadBack := by
  refine ⟨fun address i d code body well carries other => ?_, decodeMark_encodeMark⟩
  rw [Instr.wellFormed, Bool.and_eq_true, carries] at well
  obtain ⟨code_fits, body_fits⟩ := well
  have fits : body.length ≤ 248 := of_decide_eq_true body_fits
  rw [← requestOf_request code_fits carries]
  refine ⟨decodeMessage_encodeRequest fits other, ?_⟩
  rintro s rest idle hears receiver rfl line
  exact stepped_request fits other idle hears receiver line

end Sys2Proof.Machine
end

section
/-!
PROOF. The show clock: marks that place it and bad marks, its timers and the silence limit with their acts, and the
requests that set up the clock and the cue contacts (R112, R116, R119 to R122, R124 to R127, R155, R183, R188).
-/

namespace Sys2Proof.Machine

/-! ### Bad marks (R112) -/

theorem exec_badMark {s : State} (awake : s.resetLow = false) {song flags check : Byte} {position : BitVec 32}
    (bad : check ≠ markCheck song position flags ∨ 99 < song.toNat ∨ 5999999 < position.toNat) :
    exec (.timeMark song position flags check) s = .next s.badMark := by
  show Host.Outcome.next (if s.resetLow then s else _) = _
  rw [awake, if_neg Bool.false_ne_true]
  by_cases wrong : check ≠ markCheck song position flags
  · rw [if_pos wrong]
  · rw [if_neg wrong, if_pos (bad.resolve_left wrong)]

/-- Settles O38: each of the three rows judges the mark bad. -/
theorem badMarksCounted : Obligations.BadMarksCounted := by
  rintro s t awake rfl
  have judged : (if s.resetLow then s else s.badMark) = s.badMark := by
    rw [awake]
    rfl
  exact ⟨congrArg Host.Outcome.next judged, congrArg Host.Outcome.next judged,
    fun song flags check position bad => exec_badMark awake bad⟩

/-! ### Good marks that place the clock (R116, R119) -/

theorem exec_goodMark {s : State} {song flags : Byte} {position : BitVec 32} (awake : s.resetLow = false)
    (good_song : song.toNat ≤ 99) (good_position : position.toNat ≤ 5999999) :
    exec (.timeMark song position flags (markCheck song position flags)) s = .next
      (if flags.getLsbD 0 then
        (s.setClock { s.clock with receiver := .hunt }).runningMark song.toNat position.toNat
      else (s.setClock { s.clock with receiver := .hunt }).stoppedMark song.toNat position.toNat) := by
  show Host.Outcome.next (if s.resetLow then s else _) = _
  rw [awake, if_neg Bool.false_ne_true, if_neg (not_not.mpr rfl), if_neg (by omega)]

/-- When a good running mark relocates the clock (R116). -/
theorem Clock.relocates_iff {k : Clock} {song m : Nat} : k.relocates song m = true ↔
    k.state = .none ∨ k.state = .lost ∨ k.state = .stopped ∨ k.song ≠ song ∨
      (k.cfg.relocate : Int) < |k.error m| := by
  simp only [Clock.relocates, Bool.or_eq_true, beq_iff_eq, bne_iff_ne, decide_eq_true_eq, or_assoc,
    Int.abs_eq_natAbs, Int.ofNat_lt]

theorem State.runningMark_relocates {s : State} {song m : Nat} (h : s.clock.relocates song m = true) :
    s.runningMark song m = (s.setClock (s.clock.relocated song m)).raise .clockRelocated := if_pos h

/-- A good stopped mark writes the clock, and raises CLOCK_STOPPED where it stops it (R119). -/
theorem State.stoppedMark_eq (s : State) (song m : Nat) : s.stoppedMark song m =
    (s.setClock { s.clock with
      whole := m, frac := 0, song, good := 0, markTimer := 0, state := .stopped }).setEvents
        (if s.clock.state = .stopped then s.events else (s.raise .clockStopped).events) := by
  unfold State.stoppedMark
  split <;> rfl

/-- Settles O36: a running mark relocates, and a stopped one stops the clock. -/
theorem marksPlaceClock : Obligations.MarksPlaceClock := by
  intro s song flags position awake good_song good_position
  rw [exec_goodMark awake good_song good_position]
  constructor
  · intro running why
    have relocates := Clock.relocates_iff (k := { s.clock with receiver := .hunt }).mpr why
    rw [if_pos running]
    exact congrArg Host.Outcome.next (State.runningMark_relocates relocates)
  · intro stopped
    rw [stopped, if_neg Bool.false_ne_true, State.stoppedMark_eq]
    exact ⟨_, rfl, rfl, fun already => if_pos already, fun moving => if_neg moving⟩

/-! ### An event with its act (R187, R188) -/

/-- What an event raised with the act `a` leaves: the event raised, the link and all of the clock but its point kept,
and what each act does to the show. -/
structure State.Acted (s t : State) (e : Event) (a : Act) : Prop where
  raised : t.Raised e
  clock : t.clock = { s.clock with point := t.clock.point }
  link : t.link = s.link
  none : a = .none → t = s.raise e
  hold : a = .hold → s.seq.state = .running →
    t.seq = { s.seq with state := .hold } ∧ t.Raised .stateChange
  safe : a = .safe → t.seq.state = .safe

theorem State.raiseWithAct_acted (s : State) (e : Event) : s.Acted (s.raiseWithAct e) e (s.actFor e) where
  raised := s.raiseWithAct_raised e
  clock := (State.PlayFrame.raiseWithAct s e).clock
  link := (State.PlayFrame.raiseWithAct s e).link
  none act := by
    rw [State.raiseWithAct, act]
    rfl
  hold act running := by
    have held := State.holdShow_running (s := s.raise e) running
    rw [State.raiseWithAct, act, State.apply, held]
    exact ⟨rfl, State.raise_raised _ _⟩
  safe act := by
    rw [State.raiseWithAct, act]
    exact (State.enterSafe_state _).1

theorem State.loseClock_acted (s : State) :
    (s.setClock { s.clock with state := .lost }).Acted s.loseClock .clockLost s.events.actLost :=
  State.raiseWithAct_acted _ _

/-! ### The clock's timers (R120, R121) -/

theorem Clock.timed_iff {k : Clock} : k.timed = true ↔ k.state = .locking ∨ k.state = .locked := by
  simp [Clock.timed]

theorem Clock.timeoutDue_iff {k : Clock} : k.timeoutDue = true ↔
    (k.state = .locking ∨ k.state = .locked) ∧ k.cfg.markTimeout ≤ k.markTimer + 1 := by
  rw [Clock.timeoutDue, Bool.and_eq_true, Clock.timed_iff, decide_eq_true_eq]

theorem Clock.limitDue_iff {k : Clock} : k.limitDue = true ↔
    k.state = .freewheel ∧ k.cfg.freewheel ≤ k.freewheelTimer + 1 := by
  rw [Clock.limitDue, Bool.and_eq_true, beq_iff_eq, decide_eq_true_eq]

theorem Link.silenceDue_iff {k : Link} : k.silenceDue = true ↔
    k.watchdog = .running ∧ k.limit ≤ k.timer + 1 := by
  rw [Link.silenceDue, Bool.and_eq_true, beq_iff_eq, decide_eq_true_eq]

theorem Clock.overdue_iff {k : Clock} : k.overdue = true ↔
    (k.state = .locking ∨ k.state = .locked) ∧ k.cfg.markTimeout ≤ k.markTimer := by
  rw [Clock.overdue, Bool.and_eq_true, Clock.timed_iff, decide_eq_true_eq]

theorem Clock.spent_iff {k : Clock} : k.spent = true ↔
    k.state = .freewheel ∧ k.cfg.freewheel ≤ k.freewheelTimer := by
  rw [Clock.spent, Bool.and_eq_true, beq_iff_eq, decide_eq_true_eq]

section
variable {s : State}

theorem State.timeoutClock_locking (h : s.clock.state = .locking) :
    s.timeoutClock = s.setClock { s.clock with state := .none, good := 0 } := by
  rw [State.timeoutClock, h]

theorem State.timeoutClock_freewheels (h : s.clock.state = .locked) (wheel : s.clock.cfg.freewheel ≠ 0) :
    s.timeoutClock =
      (s.setClock { s.clock with state := .freewheel, freewheelTimer := 0 }).raise .clockFreewheel := by
  rw [State.timeoutClock, h]
  exact if_neg wheel

theorem State.timeoutClock_loses (h : s.clock.state = .locked) (no_wheel : s.clock.cfg.freewheel = 0) :
    s.timeoutClock = s.loseClock := by
  rw [State.timeoutClock, h]
  exact if_pos no_wheel

variable (awake : s.resetLow = false)
include awake

theorem exec_markTimeout (state : s.clock.state = .locking ∨ s.clock.state = .locked)
    (due : s.clock.cfg.markTimeout ≤ s.clock.markTimer + 1) : exec .markTimeout s = .next s.timeoutClock := by
  show Host.Outcome.next (if s.resetLow || !s.clock.timeoutDue then s else s.timeoutClock) = _
  rw [awake, Clock.timeoutDue_iff.mpr ⟨state, due⟩]
  rfl

theorem exec_freewheelLimit (state : s.clock.state = .freewheel)
    (due : s.clock.cfg.freewheel ≤ s.clock.freewheelTimer + 1) : exec .freewheelLimit s = .next s.loseClock := by
  show Host.Outcome.next (if s.resetLow || !s.clock.limitDue then s else s.loseClock) = _
  rw [awake, Clock.limitDue_iff.mpr ⟨state, due⟩]
  rfl

theorem exec_linkSilence (state : s.link.watchdog = .running) (due : s.link.limit ≤ s.link.timer + 1) :
    exec .linkSilence s = .next ((s.setLink { s.link with watchdog := .expired }).raiseWithAct .linkSilence) := by
  show Host.Outcome.next (if s.resetLow || !s.link.silenceDue then s else _) = _
  rw [awake, Link.silenceDue_iff.mpr ⟨state, due⟩]
  rfl

/-- The two ways in which the clock is lost (R120, R121). -/
theorem exec_loses {i : Instr} (why : i = .markTimeout ∧ s.clock.state = .locked ∧
      s.clock.cfg.markTimeout ≤ s.clock.markTimer + 1 ∧ s.clock.cfg.freewheel = 0 ∨
    i = .freewheelLimit ∧ s.clock.state = .freewheel ∧
      s.clock.cfg.freewheel ≤ s.clock.freewheelTimer + 1) : exec i s = .next s.loseClock := by
  rcases why with ⟨rfl, locked, due, no_wheel⟩ | ⟨rfl, wheel, due⟩
  · rw [exec_markTimeout awake (.inr locked) due, State.timeoutClock_loses locked no_wheel]
  · exact exec_freewheelLimit awake wheel due

end

/-! ### Timers that are not due (R122) -/

theorem exec_markTimeout_early {s : State} (early : s.clock.timeoutDue = false) : exec .markTimeout s = .next s := by
  show Host.Outcome.next (if s.resetLow || !s.clock.timeoutDue then s else _) = _
  rw [early, Bool.not_false, Bool.or_true, if_pos rfl]

theorem exec_freewheelLimit_early {s : State} (early : s.clock.limitDue = false) :
    exec .freewheelLimit s = .next s := by
  show Host.Outcome.next (if s.resetLow || !s.clock.limitDue then s else _) = _
  rw [early, Bool.not_false, Bool.or_true, if_pos rfl]

theorem exec_linkSilence_early {s : State} (early : s.link.silenceDue = false) : exec .linkSilence s = .next s := by
  show Host.Outcome.next (if s.resetLow || !s.link.silenceDue then s else _) = _
  rw [early, Bool.not_false, Bool.or_true, if_pos rfl]

/-! ### The millisecond behind a loss (R124, R125) -/

theorem Arm.clock_of_point {a : Arm} (h : a.point ≠ none) : ∃ song x, a = .clock song x := by
  cases a with
  | clock song x => exact ⟨song, x, rfl⟩
  | empty | await _ | waiting _ _ => exact absurd rfl h

/-- A millisecond of a LOST clock crosses nothing: P, the clock point, the arm and the playhead stand (R124, R125). -/
theorem State.LinesRest.lost {s : State} (rest : s.LinesRest) (lost : s.clock.state = .lost) (point : s.PointMatches)
    (held : s.clock.point ≠ none) :
    s.wallMillisecond.clock.state = .lost ∧ s.wallMillisecond.clock.whole = s.clock.whole ∧
      s.wallMillisecond.clock.frac = s.clock.frac ∧ s.wallMillisecond.clock.point = s.clock.point ∧
      s.wallMillisecond.seq.arm = s.seq.arm ∧ s.wallMillisecond.seq.next = s.seq.next ∧
      s.wallMillisecond.seq.standing = s.seq.standing := by
  obtain ⟨song, x, arm⟩ := Arm.clock_of_point (point ▸ held)
  have quiet : ∀ id, s.seq.arm ≠ .await id := fun id => by rw [arm]; exact nofun
  have runs : s.clock.runs = false := by rw [Clock.runs, lost]; rfl
  have advanced : s.advanceAll = s.moved := by
    rw [State.advanceAll_eq, if_neg]
    intro crosses
    obtain ⟨-, -, state, -⟩ := Clock.crosses_iff.mp crosses
    change s.clock.state = _ ∨ s.clock.state = _ at state
    rw [lost] at state
    exact absurd state (by decide)
  obtain ⟨seq, -, at_point, -⟩ := rest.wall
  rw [advanced] at seq at_point
  obtain ⟨next, standing, -⟩ := State.moved_playhead quiet
  obtain ⟨moved_arm, moved_point⟩ := s.moved_arm quiet
  obtain ⟨whole, frac⟩ := Clock.tick_still runs
  have clock := s.wallMillisecond_clock
  refine ⟨(congrArg Clock.state clock).trans lost, (congrArg Clock.whole clock).trans whole,
    (congrArg Clock.frac clock).trans frac, ?_, ?_, ?_, ?_⟩
  · rw [at_point, moved_point, s.ticked_point point]
    rfl
  · rw [seq, moved_arm, State.armLeft, arm]
  · rw [seq, next]
  · rw [seq, standing]

/-- Settles O39: each row at its limit and what its act does, and each row further from it. -/
theorem timersRunOut : Obligations.TimersRunOut := by
  refine ⟨fun s awake => ⟨fun locking due => ?_, fun locked due wheel => ?_, fun i why => ?_,
    fun running due => ?_⟩, fun s => ⟨fun why => exec_markTimeout_early ?_,
      fun why => exec_freewheelLimit_early ?_, fun why => exec_linkSilence_early ?_⟩⟩
  · refine ⟨_, exec_markTimeout awake (.inl locking) due, ?_⟩
    rw [State.timeoutClock_locking locking]
    exact ⟨rfl, rfl, rfl, rfl, rfl⟩
  · refine ⟨_, exec_markTimeout awake (.inr locked) due, ?_⟩
    rw [State.timeoutClock_freewheels locked wheel]
    exact ⟨rfl, rfl, rfl, rfl, rfl⟩
  · have acted := s.loseClock_acted
    have left (act : s.events.actLost = .none) := acted.none act
    have clock := acted.clock
    refine ⟨_, exec_loses awake why, (congrArg Clock.state clock :), acted.raised, (congrArg Clock.whole clock :),
      (congrArg Clock.rate clock :), fun act => ?_, fun act rest point held => ?_, acted.hold, acted.safe⟩
    · rw [left act]
      rfl
    · rw [left act]
      exact ⟨_, exec_clockAdvance awake, State.LinesRest.lost (s := (s.setClock _).raise _) rest rfl point held⟩
  · have acted := State.raiseWithAct_acted (s.setLink { s.link with watchdog := .expired }) .linkSilence
    refine ⟨_, exec_linkSilence awake running due, (congrArg Link.watchdog acted.link :), acted.raised,
      (congrArg Link.limit acted.link :), fun act => ?_, acted.hold, acted.safe⟩
    rw [acted.none act]
    rfl
  · rw [Bool.eq_false_iff, ne_eq, Clock.timeoutDue_iff]
    rintro ⟨timed, due⟩
    rcases why with ⟨not_locking, not_locked⟩ | early
    · exact timed.elim not_locking not_locked
    · omega
  · rw [Bool.eq_false_iff, ne_eq, Clock.limitDue_iff]
    rintro ⟨wheel, due⟩
    rcases why with other | early
    · exact other wheel
    · omega
  · rw [Bool.eq_false_iff, ne_eq, Link.silenceDue_iff]
    rintro ⟨running, due⟩
    rcases why with other | early
    · exact other running
    · omega

/-! ### CLOCK_SETUP (R126, R127) -/

theorem parseClockSetup_settings {k : ClockConfig} (delay : k.markDelay < 256) (window : k.lockWindow < 256)
    (relocate : k.relocate < 65536) (timeout : k.markTimeout < 65536) (wheel : k.freewheel < 65536)
    (phase : k.phaseDepth < 256) (rate : k.rateDepth < 256) : parseClockSetup (clockSettings k) = some k := by
  show some (ClockConfig.mk (byte k.markDelay).toNat (byte k.lockWindow).toNat (natOf (bytesOf 2 k.relocate))
    (natOf (bytesOf 2 k.markTimeout)) (natOf (bytesOf 2 k.freewheel)) (byte k.phaseDepth).toNat
    (byte k.rateDepth).toNat) = some k
  rw [toNat_byte delay, toNat_byte window, natOf_bytesOf_two relocate, natOf_bytesOf_two timeout,
    natOf_bytesOf_two wheel, toNat_byte phase, toNat_byte rate]

section
variable (s : State) (x : Link)

theorem State.setLink_raiseWithAct (e : Event) :
    (s.setLink x).raiseWithAct e = (s.raiseWithAct e).setLink x := by
  rw [State.raiseWithAct, State.raiseWithAct, State.setLink_raise,
    show (s.setLink x).actFor e = s.actFor e from rfl]
  cases s.actFor e with
  | none => rfl
  | hold => exact State.setLink_holdShow _ x
  | safe => exact State.setLink_enterSafe _ x

theorem State.setLink_loseClock : (s.setLink x).loseClock = s.loseClock.setLink x :=
  State.setLink_raiseWithAct (s.setClock { s.clock with state := .lost }) x .clockLost

theorem State.setLink_timeoutClock : (s.setLink x).timeoutClock = s.timeoutClock.setLink x := by
  unfold State.timeoutClock
  rw [State.setLink_clock, s.setLink_loseClock]
  cases s.clock.state with
  | locked =>
    dsimp only
    split <;> rfl
  | none | locking | freewheel | stopped | lost => rfl

/-- The timers are judged alike whatever the link holds (R127). -/
theorem State.setLink_judgeTimers : (s.setLink x).judgeTimers = s.judgeTimers.setLink x := by
  unfold State.judgeTimers
  rw [State.setLink_clock, s.setLink_timeoutClock, s.setLink_loseClock]
  split
  · rfl
  · split <;> rfl

end

theorem State.heard_judgeTimers (s : State) : s.heard.judgeTimers = s.judgeTimers.heard := by
  have heard : s.judgeTimers.heard = s.judgeTimers.setLink s.heard.link := by
    rw [State.heard, s.judgeTimers_link]
    rfl
  rw [heard, ← State.setLink_judgeTimers]
  rfl

section
variable {s : State}

theorem State.judgeTimers_early (timeout : s.clock.overdue = false) (limit : s.clock.spent = false) :
    s.judgeTimers = s := by
  rw [State.judgeTimers, timeout, limit]
  rfl

theorem State.judgeTimers_overdue (timeout : s.clock.overdue = true) : s.judgeTimers = s.timeoutClock :=
  if_pos timeout

/-- A clock is lost at a limit that is newly written below its timer (R120, R121, R127). -/
theorem State.judgeTimers_loses (why : s.clock.state = .locked ∧ s.clock.cfg.markTimeout ≤ s.clock.markTimer ∧
      s.clock.cfg.freewheel = 0 ∨
    s.clock.state = .freewheel ∧ s.clock.cfg.freewheel ≤ s.clock.freewheelTimer) :
    s.judgeTimers = s.loseClock := by
  rcases why with ⟨locked, passed, no_wheel⟩ | wheel
  · rw [State.judgeTimers_overdue (Clock.overdue_iff.mpr ⟨.inr locked, passed⟩),
      State.timeoutClock_loses locked no_wheel]
  · have timeout : s.clock.overdue = false := by
      rw [Clock.overdue, Clock.timed, wheel.1]
      rfl
    rw [State.judgeTimers, timeout, Clock.spent_iff.mpr wheel]
    rfl

/-- Judging the timers leaves P, the rate and the settings of the clock (R120, R121). -/
theorem State.judgeTimers_clock (s : State) : s.judgeTimers.clock = { s.clock with
    state := s.judgeTimers.clock.state, good := s.judgeTimers.clock.good
    freewheelTimer := s.judgeTimers.clock.freewheelTimer, point := s.judgeTimers.clock.point } := by
  have lost : s.loseClock.clock = { s.clock with state := .lost, point := s.loseClock.clock.point } :=
    s.loseClock_acted.clock
  by_cases timeout : s.clock.overdue = true
  · rw [State.judgeTimers_overdue timeout]
    rcases (Clock.overdue_iff.mp timeout).1 with locking | locked
    · rw [State.timeoutClock_locking locking]
      rfl
    · by_cases wheel : s.clock.cfg.freewheel = 0
      · rw [State.timeoutClock_loses locked wheel, lost]
      · rw [State.timeoutClock_freewheels locked wheel]
        rfl
  · rw [State.judgeTimers, if_neg timeout]
    split
    · rw [lost]
    · rfl

end

/-- CLOCK_SETUP stores the settings brought into their ranges, and then judges the timers (R126, R127). -/
theorem exec_clockSetup {s : State} (h : s.Open) {k : ClockConfig}
    (parses : parseClockSetup (clockSettings k) = some k) :
    exec (.clockSetup .own (clockSettings k)) s =
      .next ((s.setClock { s.clock with cfg := k.clamped }).judgeTimers.heard.replying 0x40
        (if k = k.clamped then .ok else .okClamped) (clockSettings k.clamped)) := by
  refine State.request_replies h parses ?_
  have result : Result.applied (k.clamped != k) = if k = k.clamped then .ok else .okClamped :=
    Result.applied_of_iff (by rw [bne_eq_false_iff_eq, eq_comm])
  rw [serveClockSetup, result, ← State.heard_judgeTimers]
  rfl

/-- What judging the timers behind a CLOCK_SETUP leaves, case by case (R120, R121, R127). -/
theorem State.judgeTimers_cases (s : State) :
    ((s.clock.state = .locking ∨ s.clock.state = .locked → s.clock.markTimer < s.clock.cfg.markTimeout) →
      (s.clock.state = .freewheel → s.clock.freewheelTimer < s.clock.cfg.freewheel) → s.judgeTimers = s) ∧
    (s.clock.state = .locking → s.clock.cfg.markTimeout ≤ s.clock.markTimer →
      s.judgeTimers = s.setClock { s.clock with state := .none, good := 0 }) ∧
    (s.clock.state = .locked → s.clock.cfg.markTimeout ≤ s.clock.markTimer → s.clock.cfg.freewheel ≠ 0 →
      s.judgeTimers =
        (s.setClock { s.clock with state := .freewheel, freewheelTimer := 0 }).raise .clockFreewheel) := by
  refine ⟨fun timeout limit => State.judgeTimers_early ?_ ?_, fun locking passed => ?_, fun locked passed wheel => ?_⟩
  · rw [Bool.eq_false_iff, ne_eq, Clock.overdue_iff]
    exact fun ⟨timed, passed⟩ => Nat.not_lt.mpr passed (timeout timed)
  · rw [Bool.eq_false_iff, ne_eq, Clock.spent_iff]
    exact fun ⟨wheel, passed⟩ => Nat.not_lt.mpr passed (limit wheel)
  · rw [State.judgeTimers_overdue (Clock.overdue_iff.mpr ⟨.inl locking, passed⟩), State.timeoutClock_locking locking]
  · rw [State.judgeTimers_overdue (Clock.overdue_iff.mpr ⟨.inr locked, passed⟩),
      State.timeoutClock_freewheels locked wheel]

/-! ### CONTACT_SETUP (R155) -/

theorem Polarity.ofCode_code (p : Polarity) : Polarity.ofCode p.code = some p := by cases p <;> rfl

theorem Polarity.ofCode_eq_none {b : Byte} (h : 1 < b.toNat) : Polarity.ofCode b = none := by
  unfold Polarity.ofCode
  split <;> first | rfl | omega

theorem polaritiesOf_codes (t : Tab 4 Polarity) : polaritiesOf (t.map Polarity.code) = some t := by
  have known : (t.map Polarity.code).data.all (fun b => (Polarity.ofCode b).isSome) = true := by
    simp [Tab.map, Polarity.ofCode_code]
  have read : (t.map Polarity.code).map (fun b => (Polarity.ofCode b).getD .activeLow) = t :=
    Tab.ext_get fun i => by rw [Tab.get_map, Tab.get_map, Polarity.ofCode_code, Option.getD_some]
  rw [polaritiesOf, if_pos known, read]

theorem polaritiesOf_unknown {t : Tab 4 Byte} {b : Byte} (mem : b ∈ t.data) (high : 1 < b.toNat) :
    polaritiesOf t = none := by
  rw [polaritiesOf, if_neg]
  intro known
  have := List.all_eq_true.mp known b mem
  rw [Polarity.ofCode_eq_none high] at this
  cases this

theorem parseContactSetup_body (q g1 g0 : Byte) (t : Tab 4 Byte) : parseContactSetup ([q] ++ t.data ++ [g1, g0]) =
    some { qualify := q.toNat, polarity := t, guard := natOf [g1, g0] } :=
  match t with
  | ⟨[_, _, _, _], _⟩ => rfl

theorem parseContactSetup_settings {k : ContactConfig} (qualify : k.qualify < 256) (guard : k.guard < 65536) :
    parseContactSetup (contactSettings k) =
      some { qualify := k.qualify, polarity := k.polarity.map Polarity.code, guard := k.guard } := by
  refine (parseContactSetup_body _ _ _ (k.polarity.map Polarity.code)).trans ?_
  rw [toNat_byte qualify]
  exact congrArg (fun g => some (ContactSetup.mk k.qualify (k.polarity.map Polarity.code) g))
    (natOf_bytesOf_two guard)

/-- The contact configuration brought into its ranges (R155). -/
def ContactConfig.clamped (k : ContactConfig) : ContactConfig :=
  { qualify := clampNat 1 31 k.qualify, polarity := k.polarity, guard := min k.guard 2000 }

/-- The contacts under a newly written configuration (R155). -/
def Contacts.under (u : Contacts) (k : ContactConfig) : Contacts :=
  { u with
    cfg := k
    lines := Tab.build 4 fun i => (u.lines.get i).repolarized (u.cfg.polarity.get i) (k.polarity.get i) }

theorem ContactConfig.clamped_changes (k : ContactConfig) :
    (k.clamped.qualify != k.qualify || k.clamped.guard != k.guard) = false ↔ k = k.clamped := by
  obtain ⟨qualify, polarity, guard⟩ := k
  simp only [ContactConfig.clamped, Bool.or_eq_false_iff, bne_eq_false_iff_eq, ContactConfig.mk.injEq, true_and]
  rw [eq_comm (a := qualify), eq_comm (a := guard)]

theorem exec_contactSetup {s : State} (h : s.Open) {k : ContactConfig} (qualify : k.qualify < 256)
    (guard : k.guard < 65536) : exec (.contactSetup .own (contactSettings k)) s =
      .next ((s.setContacts (s.contacts.under k.clamped)).heard.replying 0x50
        (if k = k.clamped then .ok else .okClamped) (contactSettings k.clamped)) := by
  refine State.request_replies h (parseContactSetup_settings qualify guard) ?_
  rw [serveContactSetup, polaritiesOf_codes, ← Result.applied_of_iff k.clamped_changes]
  rfl

theorem exec_contactSetup_refused {s : State} (h : s.Open) (q g1 g0 : Byte) {t : Tab 4 Byte} {b : Byte}
    (mem : b ∈ t.data) (high : 1 < b.toNat) :
    exec (.contactSetup .own ([q] ++ t.data ++ [g1, g0])) s = .next (s.answeredBare 0x50 .badField) :=
  State.request_refuses h (parseContactSetup_body q g1 g0 t)
    (by rw [serveContactSetup, polaritiesOf_unknown mem high])

/-- A line whose polarity stays is left, and any other is read afresh from its pin (R149, R155). -/
theorem Contact.repolarized_leaves (l : Contact) (old new : Polarity) :
    (new = old → l.repolarized old new = l) ∧
    (new ≠ old → (l.repolarized old new).high = l.high ∧ (l.repolarized old new).count = 0 ∧
      (l.repolarized old new).qualified = (l.high == decide (new = .activeHigh))) := by
  refine ⟨fun same => if_pos same.symm, fun changed => ?_⟩
  rw [Contact.repolarized, if_neg (Ne.symm changed)]
  refine ⟨rfl, rfl, ?_⟩
  cases new with
  | activeLow => cases l.high <;> rfl
  | activeHigh => cases l.high <;> rfl

/-- Settles O42: the settings stored, the timers judged at once, and the lines re-derived. -/
theorem setupsStored : Obligations.SetupsStored := by
  refine ⟨?_, ?_, ?_⟩
  · rintro s k c h delay window relocate timeout wheel phase rate rfl
    have run := exec_clockSetup h (parseClockSetup_settings delay window relocate timeout wheel phase rate)
    have clock := (s.setClock { s.clock with cfg := k.clamped }).judgeTimers_clock
    obtain ⟨early, locking, freewheels⟩ := (s.setClock { s.clock with cfg := k.clamped }).judgeTimers_cases
    refine ⟨_, run, (congrArg Clock.cfg clock :), (congrArg Clock.whole clock :), (congrArg Clock.rate clock :),
      early, locking, freewheels, fun why => ?_⟩
    have acted := (s.setClock { s.clock with cfg := k.clamped }).loseClock_acted
    rw [State.judgeTimers_loses why]
    exact ⟨(congrArg Clock.state acted.clock :), acted.raised, acted.none,
      fun act running => (congrArg Sequencer.state (acted.hold act running).1 :), acted.safe⟩
  · rintro s k c h qualify guard rfl
    refine ⟨_, exec_contactSetup h qualify guard, rfl, rfl, rfl, fun l => ?_⟩
    have line : (s.contacts.under k.clamped).lines.get l.index =
        (s.contact l).repolarized (s.polarity l) (k.polarity.get l.index) := Tab.get_build _ _
    have leaves := (s.contact l).repolarized_leaves (s.polarity l) (k.polarity.get l.index)
    rw [← line] at leaves
    exact leaves
  · intro s q p0 p1 p2 p3 g1 g0 h high
    have refused {b : Byte} := exec_contactSetup_refused h q g1 g0 (t := ⟨[p0, p1, p2, p3], rfl⟩) (b := b)
    rcases high with high | high | high | high
    all_goals exact refused (by simp) high

end Sys2Proof.Machine
end

section
/-!
PROOF. The rules of the hand: what a takeover, a mapping, a reading and a release do to their own slot, and what
they leave of the others (R130, R131, R135 to R141).
-/

namespace Sys2Proof.Machine

/-! ### Slots that have their turn one after another -/

/-- Each element has one turn at the state: it is `Ready` for it, `Done` after it, and the turns of the others
leave it so. `P` is what every turn keeps. -/
structure Turns {α : Type} (P : State → Prop) (Ready Done : State → α → Prop) (f : State → α → State) : Prop where
  keeps : ∀ {t a}, P t → Ready t a → P (f t a)
  turn : ∀ {t a}, P t → Ready t a → Done (f t a) a
  ready : ∀ {t a b}, P t → Ready t a → a ≠ b → Ready t b → Ready (f t a) b
  done : ∀ {t a b}, P t → Ready t a → a ≠ b → Done t b → Done (f t a) b

section
variable {α : Type} {P : State → Prop} {Ready Done : State → α → Prop} {f : State → α → State}

/-- The turns of others leave an element that has had its own. -/
theorem Turns.stays (k : Turns P Ready Done f) {l : List α} {b : α} (out : b ∉ l) (once : l.Nodup) {s : State}
    (hs : P s) (all : ∀ a ∈ l, Ready s a) (h : Done s b) : Done (l.foldl f s) b := by
  induction l generalizing s with
  | nil => exact h
  | cons a l ih =>
    obtain ⟨first, rest⟩ := List.nodup_cons.mp once
    obtain ⟨other, out⟩ := not_or.mp (mt List.mem_cons.mpr out)
    have now := all a List.mem_cons_self
    exact ih out rest (k.keeps hs now)
      (fun c hc => k.ready hs now (fun e => first (e ▸ hc)) (all c (List.mem_cons_of_mem _ hc)))
      (k.done hs now (Ne.symm other) h)

theorem Turns.foldl (k : Turns P Ready Done f) {l : List α} (once : l.Nodup) {s : State} (hs : P s)
    (all : ∀ a ∈ l, Ready s a) : P (l.foldl f s) ∧ ∀ a ∈ l, Done (l.foldl f s) a := by
  induction l generalizing s with
  | nil => exact ⟨hs, nofun⟩
  | cons a l ih =>
    obtain ⟨first, rest⟩ := List.nodup_cons.mp once
    have now := all a List.mem_cons_self
    have after : ∀ c ∈ l, Ready (f s a) c := fun c hc =>
      k.ready hs now (fun e => first (e ▸ hc)) (all c (List.mem_cons_of_mem _ hc))
    obtain ⟨kept, each⟩ := ih rest (k.keeps hs now) after
    exact ⟨kept, List.forall_mem_cons.mpr ⟨k.stays first rest (k.keeps hs now) after (k.turn hs now), each⟩⟩

end

/-! ### What an operation on one slot leaves -/

/-- The surface unit alone has been at work: of the surface the faders are written, of the channels the hands,
and events are raised. -/
structure State.UnitFrame (s t : State) : Prop where
  whole : t = ((s.setSurface t.surface).setChannels t.channels).setEvents { s.events with flags := t.events.flags }
  surface : t.surface = { s.surface with faders := t.surface.faders }
  chan : ∀ c, t.chan c = { s.chan c with hand := (t.chan c).hand }

theorem State.UnitFrame.refl (s : State) : s.UnitFrame s := ⟨rfl, rfl, fun _ => rfl⟩

theorem State.UnitFrame.trans {s t u : State} (h : s.UnitFrame t) (k : t.UnitFrame u) : s.UnitFrame u := by
  refine ⟨?_, by rw [k.surface, h.surface], fun c => by rw [k.chan, h.chan]⟩
  have whole := k.whole
  rw [h.whole] at whole
  exact whole

theorem State.UnitFrame.foldl {α : Type} (f : State → α → State)
    (h : ∀ (t : State) (a : α), t.UnitFrame (f t a)) (l : List α) (s : State) : s.UnitFrame (l.foldl f s) :=
  foldl_closed f (fun t a ht => ht.trans (h t a)) l s (refl s)

theorem State.UnitFrame.sample {s t : State} (h : s.UnitFrame t) : s.SampleFrame t where
  surface := h.surface
  cfg c := by rw [h.chan]
  cues := by rw [h.whole]; rfl
  link := by rw [h.whole]; rfl
  output := by rw [h.whole]; rfl
  restart := by rw [h.whole]; rfl
  resetLow := by rw [h.whole]; rfl
  pending := by rw [h.whole]; rfl
  clock := by rw [h.whole]; rfl
  events := by rw [h.whole]; rfl
  contacts := by rw [h.whole]; rfl

theorem State.UnitFrame.output {s t : State} (h : s.UnitFrame t) : t.output = s.output := by
  rw [h.whole]
  rfl

/-- The unit has been at work on slot `g` alone, and of the channels those of `p` may have changed hands. -/
structure State.SlotFrame (g : Slot) (p : Chan → Prop) (s t : State) : Prop extends s.UnitFrame t where
  fader : ∀ f, f ≠ g → t.fader f = s.fader f
  other : ∀ c, ¬ p c → t.chan c = s.chan c
  flags : s.Keeps t

section
variable {s t u : State} {g : Slot} {p q : Chan → Prop}

theorem State.SlotFrame.refl (s : State) (g : Slot) (p : Chan → Prop) : SlotFrame g p s s :=
  ⟨State.UnitFrame.refl s, fun _ _ => rfl, fun _ _ => rfl, State.Keeps.refl s⟩

theorem State.SlotFrame.trans (h : SlotFrame g p s t) (k : SlotFrame g p t u) : SlotFrame g p s u :=
  ⟨h.toUnitFrame.trans k.toUnitFrame, fun f hf => (k.fader f hf).trans (h.fader f hf),
    fun c hc => (k.other c hc).trans (h.other c hc), h.flags.trans k.flags⟩

theorem State.SlotFrame.mono (h : SlotFrame g p s t) (le : ∀ c, p c → q c) : SlotFrame g q s t :=
  ⟨h.toUnitFrame, h.fader, fun c hc => h.other c (mt (le c) hc), h.flags⟩

theorem State.SlotFrame.setFader (s : State) (g : Slot) (p : Chan → Prop) (d : Fader) :
    SlotFrame g p s (s.setFader g d) :=
  ⟨⟨rfl, rfl, fun _ => rfl⟩, fun _ hf => s.setFader_fader_ne d hf.symm, fun _ _ => rfl, fun _ h => h⟩

theorem State.SlotFrame.raise (s : State) (g : Slot) (p : Chan → Prop) (e : Event) :
    SlotFrame g p s (s.raise e) := ⟨⟨rfl, rfl, fun _ => rfl⟩, fun _ _ => rfl, fun _ _ => rfl, .raise s e⟩

theorem State.SlotFrame.setHand (s : State) (g : Slot) {c : Chan} (taken : p c) (h : Hand) :
    SlotFrame g p s (s.setChan c { s.chan c with hand := h }) := by
  refine ⟨⟨rfl, rfl, fun d => ?_⟩, fun _ _ => rfl, fun d free => ?_, fun _ h => h⟩
  · rw [State.setChan_chan]
    split
    · rename_i e
      rw [e]
    · rfl
  · exact s.setChan_chan_ne _ fun e => free (e ▸ taken)

theorem State.SlotFrame.cfg (h : SlotFrame g p s t) : t.surface.cfg = s.surface.cfg := by rw [h.surface]

end

/-! ### A takeover (R138) -/

section
variable {s : State} {f : Slot} {c : Chan}

theorem State.takeTouch_unmapped (unmapped : (s.fader f).mapping = none) : s.takeTouch f = s := by
  rw [State.takeTouch, unmapped]

theorem State.takeTouch_blocked (mapped : (s.fader f).mapping = some c) {h : Int}
    (held : (s.chan c).hand = .held h) :
    s.takeTouch f = (s.setFader f { s.fader f with state := .blocked }).raise .touchBlocked := by
  rw [State.takeTouch, mapped]
  dsimp only
  rw [held]

theorem State.takeTouch_holds (mapped : (s.fader f).mapping = some c) (free : ∀ h, (s.chan c).hand ≠ .held h) :
    s.takeTouch f = (s.setFader f { s.fader f with state := .holding }).setChan c
      { s.chan c with hand := .held (faderLaw (s.fader f).position) } := by
  rw [State.takeTouch, mapped]
  cases e : (s.chan c).hand with
  | held h => exact absurd e (free h)
  | free | gliding => simp only [e]

end

/-- A channel is held by a hand, or by none. -/
theorem Channel.held_or (r : Channel) : (∃ h, r.hand = .held h) ∨ ∀ h, r.hand ≠ .held h := by
  cases e : r.hand with
  | held h => exact .inl ⟨h, rfl⟩
  | free | gliding => exact .inr nofun

/-- What a takeover can do: nothing, block the fader, or take the channel (R138). -/
theorem State.takeTouch_cases (s : State) (f : Slot) : s.takeTouch f = s ∨
    s.takeTouch f = (s.setFader f { s.fader f with state := .blocked }).raise .touchBlocked ∨
    ∃ c, (s.fader f).mapping = some c ∧ (∀ h, (s.chan c).hand ≠ .held h) ∧
      s.takeTouch f = (s.setFader f { s.fader f with state := .holding }).setChan c
        { s.chan c with hand := .held (faderLaw (s.fader f).position) } := by
  cases mapped : (s.fader f).mapping with
  | none => exact .inl (State.takeTouch_unmapped mapped)
  | some c =>
    rcases (s.chan c).held_or with ⟨h, held⟩ | free
    · exact .inr (.inl (State.takeTouch_blocked mapped held))
    · exact .inr (.inr ⟨c, rfl, free, State.takeTouch_holds mapped free⟩)

theorem State.SlotFrame.takeTouch (s : State) (f : Slot) :
    SlotFrame f (fun c => (s.fader f).mapping = some c) s (s.takeTouch f) := by
  rcases s.takeTouch_cases f with e | e | ⟨c, mapped, -, e⟩ <;> rw [e]
  · exact refl s f _
  · exact (setFader s f _ _).trans (raise _ f _ _)
  · exact (setFader s f _ _).trans (setHand _ f mapped _)

/-- A takeover writes the state of its fader alone. -/
theorem State.takeTouch_fader (s : State) (f : Slot) :
    (s.takeTouch f).fader f = { s.fader f with state := ((s.takeTouch f).fader f).state } := by
  rcases s.takeTouch_cases f with e | e | ⟨c, -, -, e⟩ <;> rw [e]
  · rw [State.raise_fader, State.setFader_fader_self]
  · rw [State.setChan_fader, State.setFader_fader_self]

/-! ### A mapping, and a bank's slot (R135, R136) -/

/-- Under a touched line another mapping is taken over (R136). -/
def State.TakesOver (s : State) (f : Slot) (m : Option Chan) : Prop :=
  m ≠ (s.fader f).mapping ∧ (s.surface.touch.get f).qualified = true

theorem State.mapFree_taken {s : State} {f : Slot} {m : Option Chan} (h : s.TakesOver f m) :
    s.mapFree f m = (s.setFader f { s.fader f with mapping := m, pending := none }).takeTouch f := if_pos h

theorem State.mapFree_still {s : State} {f : Slot} {m : Option Chan} (h : ¬ s.TakesOver f m) :
    s.mapFree f m = s.setFader f { s.fader f with mapping := m, pending := none } := if_neg h

/-- The channels that slot `f` may take over with mapping `m`. -/
def State.Takes (s : State) (f : Slot) (m : Option Chan) (c : Chan) : Prop :=
  m = some c ∧ (s.surface.touch.get f).qualified = true

theorem State.SlotFrame.mapFree (s : State) (f : Slot) (m : Option Chan) :
    SlotFrame f (s.Takes f m) s (s.mapFree f m) := by
  have mapped := setFader s f (s.Takes f m) { s.fader f with mapping := m, pending := none }
  by_cases taken : s.TakesOver f m
  · rw [State.mapFree_taken taken]
    refine mapped.trans ((takeTouch _ f).mono fun c hc => ⟨?_, taken.2⟩)
    rwa [State.setFader_fader_self] at hc
  · rw [State.mapFree_still taken]
    exact mapped

theorem State.SlotFrame.applySlot (s : State) (f : Slot) (m : Option Chan) :
    SlotFrame f (s.Takes f m) s (s.applySlot f m) := by
  unfold State.applySlot
  split
  · exact mapFree s f m
  · exact setFader s f _ _
  · exact setFader s f _ _

theorem State.UnitFrame.applyBank (s : State) : s.UnitFrame s.applyBank := by
  refine foldl _ (fun t f => ?_) _ s
  split
  · exact (State.SlotFrame.applySlot t f _).toUnitFrame
  · exact refl t

theorem State.SlotFrame.reviveSlot (s : State) (f : Slot) :
    SlotFrame f (s.Takes f (s.bankSlot f)) s (s.reviveSlot f) :=
  (setFader s f _ (Fader.fresh none)).trans (mapFree (s.setFader f (Fader.fresh none)) f (s.bankSlot f))

/-! ### A reading (R130, R131) -/

/-- A HOLDING fader's new position is told to its channel (R130). -/
theorem State.takeReading_holds {s : State} {f : Slot} {c : Chan} (h : s.Holds f c) {r : Nat}
    (accepts : acceptsReading s.surface.cfg.hysteresis (s.fader f).position r = true) :
    s.takeReading f r = (s.setFader f { s.fader f with position := r }).setChan c
      { s.chan c with hand := .held (faderLaw r) } := by
  obtain ⟨holding, mapped⟩ := h
  rw [State.takeReading, if_pos accepts, holding, mapped]
  rfl

/-- What a reading can do: nothing, place an idle fader, or move the hand on a channel (R130). -/
theorem State.takeReading_cases (s : State) (f : Slot) (r : Nat) : s.takeReading f r = s ∨
    (∀ c, ¬ s.Holds f c) ∧ s.takeReading f r = s.setFader f { s.fader f with position := r } ∨
    ∃ c, s.Holds f c ∧ s.takeReading f r = (s.setFader f { s.fader f with position := r }).setChan c
      { s.chan c with hand := .held (faderLaw r) } := by
  by_cases accepts : acceptsReading s.surface.cfg.hysteresis (s.fader f).position r = true
  · by_cases held : ∃ c, s.Holds f c
    · obtain ⟨c, h⟩ := held
      exact .inr (.inr ⟨c, h, State.takeReading_holds h accepts⟩)
    · have idle := not_exists.mp held
      refine .inr (.inl ⟨idle, ?_⟩)
      rw [State.takeReading, if_pos accepts]
      split
      · rename_i c holding mapped
        exact absurd ⟨holding, mapped⟩ (idle c)
      · rfl
  · exact .inl (if_neg accepts)

theorem State.SlotFrame.takeReading (s : State) (f : Slot) (r : Nat) :
    SlotFrame f (s.Holds f) s (s.takeReading f r) := by
  rcases s.takeReading_cases f r with e | ⟨-, e⟩ | ⟨c, h, e⟩ <;> rw [e]
  · exact refl s f _
  · exact setFader s f _ _
  · exact (setFader s f _ _).trans (setHand _ f h _)

/-- A reading that is accepted takes the place of the accepted position, and nothing else of the fader is
written. -/
theorem State.takeReading_fader (s : State) (f : Slot) (r : Nat) :
    (s.takeReading f r).fader f = { s.fader f with
      position := if acceptsReading s.surface.cfg.hysteresis (s.fader f).position r then r
        else (s.fader f).position } := by
  unfold State.takeReading
  split
  · dsimp only
    split
    · rw [State.setChan_fader, State.setFader_fader_self]
    · rw [State.setFader_fader_self]
  · rfl

section
variable {s : State} {readings : Tab 16 (BitVec 10)} {f : Slot}

theorem State.passFader_sequential (mode : s.surface.cfg.mode = .sequential) :
    s.passFader readings f = s.takeReading f (readings.get f).toNat := by
  rw [State.passFader, mode]

theorem State.passFader_unused (mode : s.surface.cfg.mode = .paired) (upper : ¬ f.val < 8) :
    s.passFader readings f = s := by
  rw [State.passFader, mode]
  exact if_neg upper

/-- Wipers that agree give their mean as a reading (R131). -/
theorem State.passFader_agrees (mode : s.surface.cfg.mode = .paired) (lower : f.val < 8) {a b : Nat}
    (wipers : wipersOf readings f = (a, b)) (same : agree s.surface.cfg.tolerance a b = true) :
    s.passFader readings f =
      (s.setFader f { s.fader f with disagree := false }).takeReading f ((a + b) / 2) := by
  rw [State.passFader, mode]
  dsimp only
  rw [if_pos lower, wipers]
  exact if_pos same

/-- Wipers that disagree set the flag, with WIPER_DISAGREE where it was clear (R131). -/
theorem State.passFader_disagrees (mode : s.surface.cfg.mode = .paired) (lower : f.val < 8) {a b : Nat}
    (wipers : wipersOf readings f = (a, b)) (apart : agree s.surface.cfg.tolerance a b = false) :
    s.passFader readings f = if (s.fader f).disagree then s
      else (s.setFader f { s.fader f with disagree := true }).raise .wiperDisagree := by
  rw [State.passFader, mode]
  dsimp only
  rw [if_pos lower, wipers]
  exact if_neg (by rw [apart]; exact Bool.false_ne_true)

end

theorem State.SlotFrame.passFader (s : State) (readings : Tab 16 (BitVec 10)) (f : Slot) :
    SlotFrame f (s.Holds f) s (s.passFader readings f) := by
  cases mode : s.surface.cfg.mode with
  | sequential =>
    rw [State.passFader_sequential mode]
    exact takeReading s f _
  | paired =>
    by_cases lower : f.val < 8
    · cases same : agree s.surface.cfg.tolerance (wipersOf readings f).1 (wipersOf readings f).2 with
      | true =>
        rw [State.passFader_agrees mode lower rfl same]
        refine (setFader s f _ _).trans ((takeReading _ f _).mono fun c hc => ?_)
        rwa [State.Holds, State.setFader_fader_self] at hc
      | false =>
        rw [State.passFader_disagrees mode lower rfl same]
        split
        · exact refl s f _
        · exact (setFader s f _ _).trans (raise _ f _ _)
    · rw [State.passFader_unused mode lower]
      exact refl s f _

/-! ### A release (R139 to R141) -/

theorem State.handBack_chan (s : State) (c : Chan) (h : Int) (d : Chan) :
    (s.handBack c h).chan d = if c = d then (s.chan c).handed h else s.chan d := by
  rw [State.handBack_eq, Channel.handed]
  split
  · rw [State.setChan_chan, State.reportActive_chan]
  · rw [State.setChan_chan]

section
variable {s : State} {f : Slot} {c : Chan}

/-- A release hands the channel of its fader back at H (R139, R140). -/
theorem State.releaseFader_chan_holds (holds : s.Holds f c) {h : Int} (held : (s.chan c).hand = .held h) :
    (s.releaseFader f).chan c = (s.chan c).handed h := by
  obtain ⟨holding, mapped⟩ := holds
  rw [State.releaseFader, holding, mapped]
  dsimp only
  rw [State.remap_chan, State.handBack_chan, if_pos rfl, State.setFader_chan, Channel.releaseLevel, held]

/-- A release reaches no other channel. -/
theorem State.releaseFader_chan_other (idle : ¬ s.Holds f c) : (s.releaseFader f).chan c = s.chan c := by
  unfold State.releaseFader
  split
  · rfl
  · rw [State.remap_chan, State.setFader_chan]
  · rename_i holding
    dsimp only
    split
    · rw [State.remap_chan, State.setFader_chan]
    · rename_i d mapped
      rw [State.remap_chan, State.handBack_chan, if_neg, State.setFader_chan]
      rintro rfl
      exact idle ⟨holding, mapped⟩

/-- A released fader is FREE (R139 to R141). -/
theorem State.releaseFader_state (s : State) (f : Slot) : ((s.releaseFader f).fader f).state = .free := by
  have freed (t : State) : ((t.setFader f { s.fader f with state := .free }).fader f).state = .free := by
    rw [State.setFader_fader_self]
  unfold State.releaseFader
  split
  · assumption
  · rw [State.remap_state, freed]
  · dsimp only
    split
    · rw [State.remap_state, freed]
    · rw [State.remap_state, State.setFader, State.handBack_setSurface]
      exact congrArg Fader.state (Tab.get_set_self _ f _)

theorem State.handBack_arm (quiet : ∀ id, s.seq.arm ≠ .await id) (h : Int) :
    (s.handBack c h).seq.arm = s.seq.arm := by
  rw [State.handBack_eq]
  split
  · exact ((State.Quiet.reportActive s c).arm quiet).1
  · rfl

/-- A release leaves an arm that awaits no firing (R74). -/
theorem State.releaseFader_arm (quiet : ∀ id, s.seq.arm ≠ .await id) :
    (s.releaseFader f).seq.arm = s.seq.arm := by
  have remap (t : State) : (t.remap f).seq = t.seq := by
    unfold State.remap
    split <;> rfl
  unfold State.releaseFader
  split
  · rfl
  · rw [remap, State.setFader_seq]
  · dsimp only
    split
    · rw [remap, State.setFader_seq]
    · rw [remap]
      exact State.handBack_arm (s := s.setFader f _) quiet _

end

end Sys2Proof.Machine
end

section
/-!
PROOF. Hands and faders stay agreed under every operation of the fader surface (R129 to R131, R135 to R141, R146).
-/

namespace Sys2Proof.Machine

/-! ### Hands that match their faders -/

/-- The invariant of the hands but for the slots out of use: while a mode changes, these are brought into line one
after another (R146). -/
structure State.HandsMatch (s : State) : Prop where
  mapped : ∀ f, (s.fader f).state = .holding → ∃ c, s.Holds f c
  level : ∀ f c, s.Holds f c → (s.chan c).hand = .held (faderLaw (s.fader f).position)
  held : ∀ c h, (s.chan c).hand = .held h → ∃ f, s.Holds f c
  alone : ∀ f g c, s.Holds f c → s.Holds g c → f = g

/-- A slot out of use is FREE (R129). -/
def State.SparesFree (s : State) : Prop := ∀ f, s.slotUsed f = false → (s.fader f).state = .free

theorem State.handsAgree_iff {s : State} : s.HandsAgree ↔ s.HandsMatch ∧ s.SparesFree :=
  ⟨fun ⟨mapped, level, held, alone, spares⟩ => ⟨⟨mapped, level, held, alone⟩, spares⟩,
    fun ⟨⟨mapped, level, held, alone⟩, spares⟩ => ⟨mapped, level, held, alone, spares⟩⟩

section
variable {s t : State} {f : Slot} {c : Chan}

theorem State.Holds.of_fader (h : s.Holds f c) (same : t.fader f = s.fader f) : t.Holds f c := by
  unfold State.Holds
  rwa [same]

theorem State.not_holds_of_state (idle : (s.fader f).state ≠ .holding) : ¬ s.Holds f c := fun h => idle h.1

/-- The same hands hold the same channels, from the same positions. -/
theorem State.HandsMatch.of_same (h : s.HandsMatch)
    (faders : ∀ g, (t.fader g).state = (s.fader g).state ∧ (t.fader g).mapping = (s.fader g).mapping ∧
      (t.fader g).position = (s.fader g).position)
    (hands : ∀ d v, (t.chan d).hand = .held v ↔ (s.chan d).hand = .held v) : t.HandsMatch := by
  have holds (g : Slot) (d : Chan) : t.Holds g d ↔ s.Holds g d := by
    obtain ⟨state, mapping, -⟩ := faders g
    rw [State.Holds, state, mapping]
    rfl
  refine ⟨fun g e => ?_, fun g d e => ?_, fun d v e => ?_, fun g k d e e' => ?_⟩
  · obtain ⟨state, -, -⟩ := faders g
    obtain ⟨d, hd⟩ := h.mapped g (state ▸ e)
    exact ⟨d, (holds g d).mpr hd⟩
  · obtain ⟨-, -, position⟩ := faders g
    rw [hands, position]
    exact h.level g d ((holds g d).mp e)
  · obtain ⟨g, hg⟩ := h.held d v ((hands d v).mp e)
    exact ⟨g, (holds g d).mpr hg⟩
  · exact h.alone g k d ((holds g d).mp e) ((holds k d).mp e')

variable (others : ∀ g, g ≠ f → t.fader g = s.fader g)
include others

/-- Fader `f` leaves the channel that it holds, if it holds one. -/
theorem State.HandsMatch.leave (h : s.HandsMatch) (idle : (t.fader f).state ≠ .holding)
    (left : ∀ d, s.Holds f d → ∀ v, (t.chan d).hand ≠ .held v)
    (hands : ∀ d, ¬ s.Holds f d → (t.chan d).hand = (s.chan d).hand) : t.HandsMatch := by
  have other {g : Slot} {d : Chan} (e : t.Holds g d) : g ≠ f ∧ s.Holds g d ∧ ¬ s.Holds f d := by
    have ne : g ≠ f := by
      rintro rfl
      exact idle e.1
    have old := e.of_fader (others g ne).symm
    exact ⟨ne, old, fun k => ne (h.alone g f d old k)⟩
  refine ⟨fun g e => ?_, fun g d e => ?_, fun d v e => ?_, fun g k d e e' => ?_⟩
  · have ne : g ≠ f := by
      rintro rfl
      exact idle e
    obtain ⟨d, hd⟩ := h.mapped g (others g ne ▸ e)
    exact ⟨d, hd.of_fader (others g ne)⟩
  · obtain ⟨ne, old, free⟩ := other e
    rw [hands d free, others g ne]
    exact h.level g d old
  · have free : ¬ s.Holds f d := fun k => left d k v e
    obtain ⟨g, hg⟩ := h.held d v (hands d free ▸ e)
    have ne : g ≠ f := by
      rintro rfl
      exact free hg
    exact ⟨g, hg.of_fader (others g ne)⟩
  · obtain ⟨-, old, -⟩ := other e
    obtain ⟨-, old', -⟩ := other e'
    exact h.alone g k d old old'

/-- Fader `f` holds channel `c`, which no other fader holds, at the law's level of its position. -/
theorem State.HandsMatch.place (h : s.HandsMatch) (holds : t.Holds f c)
    (level : (t.chan c).hand = .held (faderLaw (t.fader f).position))
    (only : ∀ g, s.Holds g c → g = f) (own : ∀ d, s.Holds f d → d = c)
    (hands : ∀ d, d ≠ c → (t.chan d).hand = (s.chan d).hand) : t.HandsMatch := by
  have other {g : Slot} {d : Chan} (ne : g ≠ f) (e : t.Holds g d) : s.Holds g d ∧ d ≠ c := by
    have old := e.of_fader (others g ne).symm
    exact ⟨old, fun k => ne (only g (k ▸ old))⟩
  have mine {d : Chan} (e : t.Holds f d) : d = c := Option.some.inj (e.2.symm.trans holds.2)
  refine ⟨fun g e => ?_, fun g d e => ?_, fun d v e => ?_, fun g k d e e' => ?_⟩
  · by_cases ne : g = f
    · exact ⟨c, ne ▸ holds⟩
    · obtain ⟨d, hd⟩ := h.mapped g (others g ne ▸ e)
      exact ⟨d, hd.of_fader (others g ne)⟩
  · by_cases ne : g = f
    · subst ne
      rw [mine e]
      exact level
    · obtain ⟨old, free⟩ := other ne e
      rw [hands d free, others g ne]
      exact h.level g d old
  · by_cases eq : d = c
    · exact ⟨f, eq ▸ holds⟩
    · obtain ⟨g, hg⟩ := h.held d v (hands d eq ▸ e)
      have ne : g ≠ f := by
        rintro rfl
        exact eq (own d hg)
      exact ⟨g, hg.of_fader (others g ne)⟩
  · by_cases ne : g = f <;> by_cases ne' : k = f
    · rw [ne, ne']
    · subst ne
      exact absurd (mine e) (other ne' e').2
    · subst ne'
      exact absurd (mine e') (other ne e).2
    · exact h.alone g k d (other ne e).1 (other ne' e').1

end

/-! ### Operations on one slot -/

section
variable {s : State} {f : Slot}

/-- An idle fader becomes another idle fader. -/
theorem State.HandsMatch.setIdle (h : s.HandsMatch) (idle : (s.fader f).state ≠ .holding) {d : Fader}
    (still : d.state ≠ .holding) : (s.setFader f d).HandsMatch :=
  h.leave (fun g ne => s.setFader_fader_ne d ne.symm) (by rwa [State.setFader_fader_self])
    (fun _ k => absurd k.1 idle) fun _ _ => rfl

theorem State.HandsMatch.raise (h : s.HandsMatch) (e : Event) : (s.raise e).HandsMatch :=
  h.of_same (fun _ => ⟨rfl, rfl, rfl⟩) fun _ _ => Iff.rfl

/-- A fader keeps its state, its mapping and its position. -/
theorem State.HandsMatch.setSame (h : s.HandsMatch) (pending : Option (Option Chan)) (disagree : Bool) :
    (s.setFader f { s.fader f with pending, disagree }).HandsMatch := by
  refine h.of_same (fun g => ?_) fun _ _ => Iff.rfl
  rw [State.setFader_fader]
  split
  · rename_i e
    subst e
    exact ⟨rfl, rfl, rfl⟩
  · exact ⟨rfl, rfl, rfl⟩

theorem State.HandsMatch.takeTouch (h : s.HandsMatch) (free : (s.fader f).state = .free) :
    (s.takeTouch f).HandsMatch := by
  have idle : (s.fader f).state ≠ .holding := by rw [free]; decide
  rcases s.takeTouch_cases f with e | e | ⟨c, mapped, unheld, e⟩ <;> rw [e]
  · exact h
  · exact (h.setIdle idle (d := { s.fader f with state := .blocked }) nofun).raise .touchBlocked
  · refine h.place (f := f) (c := c) (fun g ne => ?_) ?_ ?_ (fun g k => ?_) (fun d k => ?_) fun d ne => ?_
    · rw [State.setChan_fader, s.setFader_fader_ne _ ne.symm]
    · rw [State.Holds, State.setChan_fader, State.setFader_fader_self]
      exact ⟨rfl, mapped⟩
    · rw [State.setChan_chan_self, State.setChan_fader, State.setFader_fader_self]
    · exact absurd (h.level g c k) (unheld _)
    · exact absurd k.1 idle
    · rw [State.setChan_chan_ne _ _ (Ne.symm ne), State.setFader_chan]

theorem State.HandsMatch.mapFree (h : s.HandsMatch) (free : (s.fader f).state = .free) (m : Option Chan) :
    (s.mapFree f m).HandsMatch := by
  have mapped : (s.setFader f { s.fader f with mapping := m, pending := none }).HandsMatch :=
    h.setIdle (by rw [free]; decide) (by rw [free]; decide)
  by_cases taken : s.TakesOver f m
  · rw [State.mapFree_taken taken]
    exact mapped.takeTouch (by rwa [State.setFader_fader_self])
  · rw [State.mapFree_still taken]
    exact mapped

theorem State.HandsMatch.applySlot (h : s.HandsMatch) (m : Option Chan) : (s.applySlot f m).HandsMatch := by
  unfold State.applySlot
  split
  · exact h.mapFree ‹_› m
  · exact h.setSame _ _
  · exact h.setSame _ _

theorem State.HandsMatch.takeReading (h : s.HandsMatch) (r : Nat) : (s.takeReading f r).HandsMatch := by
  rcases s.takeReading_cases f r with e | ⟨idle, e⟩ | ⟨c, holds, e⟩ <;> rw [e]
  · exact h
  · have still : (s.fader f).state ≠ .holding := fun k => (h.mapped f k).elim idle
    exact h.setIdle still still
  · refine h.place (f := f) (c := c) (fun g ne => ?_) ?_ ?_ (fun g k => h.alone g f c k holds)
      (fun d k => Option.some.inj (k.2.symm.trans holds.2)) fun d ne => ?_
    · rw [State.setChan_fader, s.setFader_fader_ne _ ne.symm]
    · rw [State.Holds, State.setChan_fader, State.setFader_fader_self]
      exact holds
    · rw [State.setChan_chan_self, State.setChan_fader, State.setFader_fader_self]
    · rw [State.setChan_chan_ne _ _ (Ne.symm ne), State.setFader_chan]

theorem State.HandsMatch.passFader (h : s.HandsMatch) (readings : Tab 16 (BitVec 10)) :
    (s.passFader readings f).HandsMatch := by
  unfold State.passFader
  dsimp only
  repeat' split
  · exact h.takeReading _
  · exact (h.setSame _ false).takeReading _
  · exact h
  · exact (h.setSame _ true).raise .wiperDisagree
  · exact h

/-- A channel that is handed back is held by no hand (R139, R140). -/
theorem Channel.handed_free (r : Channel) (h v : Int) : (r.handed h).hand ≠ .held v := by
  unfold Channel.handed
  split
  · nofun
  · dsimp only
    split <;> nofun

theorem State.HandsMatch.releaseFader (h : s.HandsMatch) : (s.releaseFader f).HandsMatch := by
  refine h.leave (State.TouchFrame.releaseFader f s).fader (by rw [State.releaseFader_state]; decide)
    (fun d k v => ?_) fun d k => by rw [State.releaseFader_chan_other k]
  rw [State.releaseFader_chan_holds k (h.level f d k)]
  exact Channel.handed_free _ _ v

theorem State.HandsMatch.retireSlot (h : s.HandsMatch) : (s.retireSlot f).HandsMatch :=
  h.releaseFader.setIdle (by rw [State.releaseFader_state]; decide) (by decide)

theorem State.HandsMatch.reviveSlot (h : s.HandsMatch) (free : (s.fader f).state = .free) :
    (s.reviveSlot f).HandsMatch :=
  (h.setIdle (d := Fader.fresh none) (by rw [free]; decide) (by decide)).mapFree
    (by rw [State.setFader_fader_self]; rfl) _

end

/-! ### Hands and faders agreed -/

section
variable {s t : State} {f : Slot}

/-- An operation on a slot in use leaves the slots out of use. -/
theorem State.HandsAgree.of_slot (h : s.HandsAgree) (used : s.slotUsed f = true)
    (cfg : t.surface.cfg = s.surface.cfg) (others : ∀ g, g ≠ f → t.fader g = s.fader g)
    (hands : s.HandsMatch → t.HandsMatch) : t.HandsAgree := by
  obtain ⟨agree, spares⟩ := State.handsAgree_iff.mp h
  refine State.handsAgree_iff.mpr ⟨hands agree, fun g spare => ?_⟩
  rw [State.slotUsed, cfg] at spare
  have ne : g ≠ f := by
    rintro rfl
    exact Bool.false_ne_true (spare.symm.trans used)
  rw [others g ne]
  exact spares g spare

/-- The faders, the mode and the channels that are held have stayed as they were. -/
theorem State.HandsAgree.of_same (h : s.HandsAgree) (cfg : t.surface.cfg = s.surface.cfg)
    (faders : t.fader = s.fader) (hands : ∀ c v, (t.chan c).hand = .held v ↔ (s.chan c).hand = .held v) :
    t.HandsAgree := by
  obtain ⟨agree, spares⟩ := State.handsAgree_iff.mp h
  refine State.handsAgree_iff.mpr ⟨agree.of_same (fun g => by rw [faders]; exact ⟨rfl, rfl, rfl⟩) hands,
    fun g spare => ?_⟩
  rw [State.slotUsed, cfg] at spare
  rw [faders]
  exact spares g spare

theorem State.HandsAgree.of_play (h : s.HandsAgree) (k : s.PlayFrame t) : t.HandsAgree :=
  h.of_same (by rw [k.surface]) (by funext f; rw [State.fader, k.surface]; rfl) fun c v => by rw [k.chan c]

theorem State.HandsAgree.handOn (h : s.HandsAgree) (f : Slot) : (s.handOn f).HandsAgree := by
  unfold State.handOn
  split
  · rename_i on
    obtain ⟨used, free⟩ := Bool.and_eq_true_iff.mp on
    have frame := State.SlotFrame.takeTouch s f
    exact h.of_slot used frame.cfg frame.fader fun k => k.takeTouch (beq_iff_eq.mp free)
  · exact h

theorem State.HandsAgree.handOff (h : s.HandsAgree) (f : Slot) : (s.handOff f).HandsAgree := by
  unfold State.handOff
  split
  · rename_i used
    have cfg : (s.releaseFader f).surface.cfg = s.surface.cfg := by
      rw [(State.SampleFrame.releaseFader s f).surface]
    exact (h.of_slot used cfg (State.TouchFrame.releaseFader f s).fader fun k => k.releaseFader).of_play
      (State.ShowFrame.settledFrom _ s).play
  · exact h

theorem State.HandsAgree.passFader (h : s.HandsAgree) (readings : Tab 16 (BitVec 10)) (f : Slot) :
    (s.passFader readings f).HandsAgree := by
  have frame := State.SlotFrame.passFader s readings f
  by_cases used : s.slotUsed f = true
  · exact h.of_slot used frame.cfg frame.fader fun k => k.passFader readings
  · have lower : s.surface.cfg.mode = .paired ∧ ¬ f.val < 8 := by
      unfold State.slotUsed ScanMode.uses at used
      split at used
      · exact absurd rfl used
      · exact ⟨‹_›, by simpa using used⟩
    rwa [State.passFader_unused lower.1 lower.2]

theorem State.HandsAgree.applyBank (h : s.HandsAgree) : s.applyBank.HandsAgree := by
  refine foldl_closed (P := State.HandsAgree) _ (fun t g k => ?_) allSlots s h
  split
  · rename_i used
    have frame := State.SlotFrame.applySlot t g (t.bankSlot g)
    exact k.of_slot used frame.cfg frame.fader fun k => k.applySlot _
  · exact k

end

/-! ### A change of mode (R146) -/

theorem ScanMode.uses_lower {m : ScanMode} {f : Slot} (lower : f.val < 8) : m.uses f = true := by
  cases m with
  | sequential => rfl
  | paired => exact decide_eq_true lower

theorem mem_upperSlots {f : Slot} : f ∈ upperSlots ↔ 8 ≤ f.val := by
  simp [upperSlots, mem_allSlots]

theorem upperSlots_nodup : upperSlots.Nodup := allSlots_nodup.filter _

/-- Every disagreement flag is cleared (R146). -/
def State.cleared (s : State) : State :=
  s.setSurface { s.surface with faders := s.surface.faders.map fun d => { d with disagree := false } }

theorem State.cleared_fader (s : State) (f : Slot) : s.cleared.fader f = { s.fader f with disagree := false } :=
  Tab.get_map _ _ f

theorem State.modeChanged_paired {s : State} (mode : s.surface.cfg.mode = .paired) :
    s.modeChanged = upperSlots.foldl (fun t f => t.retireSlot f) s.cleared := by
  rw [State.modeChanged]
  dsimp only
  rw [State.setSurface_surface, mode]
  rfl

theorem State.modeChanged_sequential {s : State} (mode : s.surface.cfg.mode = .sequential) :
    s.modeChanged = upperSlots.foldl (fun t f => t.reviveSlot f) s.cleared := by
  rw [State.modeChanged]
  dsimp only
  rw [State.setSurface_surface, mode]
  rfl

theorem State.HandsMatch.cleared {s : State} (h : s.HandsMatch) : s.cleared.HandsMatch :=
  h.of_same (fun g => by rw [s.cleared_fader]; exact ⟨rfl, rfl, rfl⟩) fun _ _ => Iff.rfl

theorem State.retireSlot_fader (s : State) (f g : Slot) :
    (s.retireSlot f).fader g = if f = g then Fader.fresh none else s.fader g := by
  rw [State.retireSlot, State.setFader_fader]
  split
  · rfl
  · rename_i ne
    exact (State.TouchFrame.releaseFader f s).fader g (Ne.symm ne)

theorem State.SampleFrame.retireSlot (s : State) (f : Slot) : s.SampleFrame (s.retireSlot f) :=
  (SampleFrame.releaseFader s f).trans (SampleFrame.setFader _ f _)

theorem State.SampleFrame.modeChanged (s : State) : s.SampleFrame s.modeChanged := by
  have cleared : s.SampleFrame s.cleared := by constructor <;> intros <;> rfl
  cases mode : s.surface.cfg.mode with
  | paired =>
    rw [State.modeChanged_paired mode]
    exact cleared.trans (SampleFrame.foldl _ (fun t f => retireSlot t f) _ _)
  | sequential =>
    rw [State.modeChanged_sequential mode]
    exact cleared.trans (SampleFrame.foldl _ (fun t f => (State.SlotFrame.reviveSlot t f).toUnitFrame.sample) _ _)

/-- The slots that go out of use are FREE behind it. -/
theorem State.HandsMatch.retires {s : State} (h : s.HandsMatch) (mode : s.surface.cfg.mode = .paired) :
    s.modeChanged.HandsAgree := by
  have turns : Turns (fun t => t.HandsMatch ∧ t.surface.cfg.mode = .paired) (fun _ _ => True)
      (fun t f => (t.fader f).state = .free) (fun t f => t.retireSlot f) :=
    ⟨fun ⟨hands, paired⟩ _ => ⟨hands.retireSlot, by rw [(State.SampleFrame.retireSlot _ _).surface]; exact paired⟩,
      fun _ _ => by rw [State.retireSlot_fader, if_pos rfl]; rfl, fun _ _ _ _ => trivial,
      fun _ _ ne free => by rwa [State.retireSlot_fader, if_neg ne]⟩
  obtain ⟨⟨hands, paired⟩, free⟩ := turns.foldl upperSlots_nodup (s := s.cleared) ⟨h.cleared, mode⟩ fun _ _ => trivial
  rw [State.modeChanged_paired mode]
  refine State.handsAgree_iff.mpr ⟨hands, fun f spare => free f (mem_upperSlots.mpr (Nat.le_of_not_lt fun lower => ?_))⟩
  rw [State.slotUsed, ScanMode.uses_lower lower] at spare
  cases spare

/-- The slots that come into use are FREE before it. -/
theorem State.HandsMatch.revives {s : State} (h : s.HandsMatch) (mode : s.surface.cfg.mode = .sequential)
    (free : ∀ f : Slot, 8 ≤ f.val → (s.fader f).state = .free) : s.modeChanged.HandsAgree := by
  have turns : Turns (fun t => t.HandsMatch ∧ t.surface.cfg.mode = .sequential)
      (fun t f => (t.fader f).state = .free) (fun _ _ => True) (fun t f => t.reviveSlot f) :=
    ⟨fun ⟨hands, used⟩ ready => ⟨hands.reviveSlot ready, by rw [(State.SlotFrame.reviveSlot _ _).cfg]; exact used⟩,
      fun _ _ => trivial,
      fun _ _ ne ready => by rw [(State.SlotFrame.reviveSlot _ _).fader _ (Ne.symm ne)]; exact ready,
      fun _ _ _ _ => trivial⟩
  obtain ⟨⟨hands, used⟩, -⟩ := turns.foldl upperSlots_nodup (s := s.cleared) ⟨h.cleared, mode⟩ fun f upper => by
    rw [s.cleared_fader]
    exact free f (mem_upperSlots.mp upper)
  rw [State.modeChanged_sequential mode]
  refine State.handsAgree_iff.mpr ⟨hands, fun f spare => ?_⟩
  rw [State.slotUsed, used] at spare
  cases spare

/-- Another mode is taken with every hand in its place (R146). -/
theorem State.HandsAgree.modeChanged {s : State} (h : s.HandsAgree) {k : SurfaceConfig}
    (other : k.mode ≠ s.surface.cfg.mode) : (s.setSurface { s.surface with cfg := k }).modeChanged.HandsAgree := by
  obtain ⟨agree, spares⟩ := State.handsAgree_iff.mp h
  have same : (s.setSurface { s.surface with cfg := k }).HandsMatch :=
    agree.of_same (fun _ => ⟨rfl, rfl, rfl⟩) fun _ _ => Iff.rfl
  cases mode : k.mode with
  | paired => exact same.retires mode
  | sequential =>
    refine same.revives mode fun f upper => spares f ?_
    have paired : s.surface.cfg.mode = .paired := by
      cases old : s.surface.cfg.mode with
      | paired => rfl
      | sequential => exact absurd (mode.trans old.symm) other
    rw [State.slotUsed, paired]
    exact decide_eq_false (Nat.not_lt.mpr upper)

end Sys2Proof.Machine
end

section
/-!
PROOF. The relation that every step keeps: hands and faders agreed, routes and banks without a repeat (R129, R133,
R137 to R139, R146, R162). It holds of what the part does by itself.
-/

namespace Sys2Proof.Machine

/-- What an operation keeps of the surface and the routes. -/
structure State.KeepsSurface (s t : State) : Prop where
  hands : s.HandsAgree → t.HandsAgree
  routes : s.RoutesDistinct → t.RoutesDistinct
  banks : s.BanksDistinct → t.BanksDistinct

theorem State.KeepsSurface.refl (s : State) : s.KeepsSurface s := ⟨id, id, id⟩

theorem State.KeepsSurface.trans {s t u : State} (h : s.KeepsSurface t) (k : t.KeepsSurface u) :
    s.KeepsSurface u := ⟨k.hands ∘ h.hands, k.routes ∘ h.routes, k.banks ∘ h.banks⟩

theorem State.KeepsSurface.foldl {α : Type} (f : State → α → State)
    (h : ∀ (t : State) (a : α), t.KeepsSurface (f t a)) (l : List α) (s : State) : s.KeepsSurface (l.foldl f s) :=
  foldl_closed f (fun t a ht => ht.trans (h t a)) l s (refl s)

/-- An operation that is taken under a condition and leaves the state otherwise. -/
theorem State.KeepsSurface.ifTaken {s t : State} (c : Prop) [Decidable c] (h : s.KeepsSurface t) :
    s.KeepsSurface (if c then s else t) := by
  split
  · exact refl _
  · exact h

/-! ### Operations that reach no fader, no hand and no route -/

/-- Routes and banks as they were, and hands that stay agreed. -/
theorem State.KeepsSurface.of_hands {s t : State} (routes : t.output.routes = s.output.routes)
    (banks : t.surface.banks = s.surface.banks) (hands : s.HandsAgree → t.HandsAgree) : s.KeepsSurface t := by
  refine ⟨hands, ?_, ?_⟩
  · unfold State.RoutesDistinct
    rw [routes]
    exact id
  · unfold State.BanksDistinct
    rw [banks]
    exact id

theorem State.KeepsSurface.of_eq {s t : State} (surface : t.surface = s.surface) (chan : t.chan = s.chan)
    (routes : t.output.routes = s.output.routes) : s.KeepsSurface t :=
  of_hands routes (by rw [surface]) fun h => h.of_same (by rw [surface])
    (by funext f; rw [State.fader, surface]; rfl) fun c v => by rw [chan]

/-- An operation on the show reaches levels and moves alone (R72, R81). -/
theorem State.KeepsSurface.of_play {s t : State} (h : s.PlayFrame t) : s.KeepsSurface t :=
  of_hands (by rw [h.output]) (by rw [h.surface]) fun k => k.of_play h

/-- The acts of the lines reach neither banks nor routes (R132, R149). -/
theorem State.KeepsSurface.of_sample {s t : State} (h : s.SampleFrame t) (hands : s.HandsAgree → t.HandsAgree) :
    s.KeepsSurface t := of_hands (by rw [h.output]) (by rw [h.surface]) hands

section
variable (s : State)

theorem State.KeepsSurface.raise (e : Event) : s.KeepsSurface (s.raise e) := of_eq rfl rfl rfl
theorem State.KeepsSurface.setSeq (x : Sequencer) : s.KeepsSurface (s.setSeq x) := of_eq rfl rfl rfl
theorem State.KeepsSurface.setClock (x : Clock) : s.KeepsSurface (s.setClock x) := of_eq rfl rfl rfl
theorem State.KeepsSurface.setContacts (x : Contacts) : s.KeepsSurface (s.setContacts x) := of_eq rfl rfl rfl
theorem State.KeepsSurface.setLink (x : Link) : s.KeepsSurface (s.setLink x) := of_eq rfl rfl rfl
theorem State.KeepsSurface.setEvents (x : Events) : s.KeepsSurface (s.setEvents x) := of_eq rfl rfl rfl
theorem State.KeepsSurface.setArm (a : Arm) : s.KeepsSurface (s.setArm a) := of_eq rfl rfl rfl

/-- Another surface with the same faders, mode and banks. -/
theorem State.KeepsSurface.setLines {x : Surface} (cfg : x.cfg = s.surface.cfg)
    (faders : x.faders = s.surface.faders) (banks : x.banks = s.surface.banks) :
    s.KeepsSurface (s.setSurface x) :=
  of_hands rfl banks fun h => h.of_same cfg
    (by funext f; rw [State.fader, State.setSurface_surface, faders]; rfl) fun _ _ => Iff.rfl

/-- The channels take other records, held by the same hands. -/
theorem State.KeepsSurface.setChannels {x : Tab 56 Channel}
    (hands : ∀ c v, (x.get c).hand = .held v ↔ (s.chan c).hand = .held v) : s.KeepsSurface (s.setChannels x) :=
  of_hands rfl rfl fun h => h.of_same rfl rfl hands

theorem State.KeepsSurface.setChan (c : Chan) {r : Channel} (hand : r.hand = (s.chan c).hand) :
    s.KeepsSurface (s.setChan c r) := by
  refine setChannels s fun d v => ?_
  rw [Tab.get_set]
  split
  · rename_i e
    rw [hand, e]
  · rfl

end

/-! ### The surface by its own events (R130, R138 to R141, R143) -/

section
variable (s : State)

theorem State.KeepsSurface.touchChanged (f : Slot) (active : Bool) : s.KeepsSurface (s.touchChanged f active) :=
  setLines s rfl rfl rfl

theorem State.KeepsSurface.keyChanged (f : Slot) (active : Bool) : s.KeepsSurface (s.keyChanged f active) :=
  setLines s rfl rfl rfl

theorem State.KeepsSurface.handOn (f : Slot) : s.KeepsSurface (s.handOn f) :=
  of_sample (.handOn s f) fun h => h.handOn f

theorem State.KeepsSurface.handOff (f : Slot) : s.KeepsSurface (s.handOff f) :=
  of_sample (.handOff s f) fun h => h.handOff f

theorem State.KeepsSurface.keyOn (f : Slot) : s.KeepsSurface (s.keyOn f) := by
  unfold State.keyOn State.toggleOperator
  repeat' split
  · exact refl s
  · exact setChan s _ rfl
  · exact refl s

theorem State.KeepsSurface.of_unit {s t : State} (h : s.UnitFrame t) (hands : s.HandsAgree → t.HandsAgree) :
    s.KeepsSurface t := of_hands (by rw [h.output]) (by rw [h.surface]) hands

theorem State.KeepsSurface.passFader (readings : Tab 16 (BitVec 10)) (f : Slot) :
    s.KeepsSurface (s.passFader readings f) :=
  of_unit (State.SlotFrame.passFader s readings f).toUnitFrame fun h => h.passFader readings f

/-! ### Contact lines and the wall millisecond (R26, R98, R132, R149 to R153) -/

/-- The request of a contact line is an operation on the show, a press that it refuses being counted. -/
theorem State.KeepsSurface.contactRequest (l : ContactLine) : s.KeepsSurface (s.contactRequest l) := by
  obtain ⟨u, play, same | ignored⟩ := s.contactRequest_play l
  · rw [same]
    exact of_play play
  · rw [ignored]
    exact (of_play play).trans (of_eq rfl rfl rfl)

theorem State.KeepsSurface.contactActs (l : ContactLine) (old : Bool) : s.KeepsSurface (s.contactActs l old) := by
  unfold State.contactActs
  split
  · exact contactRequest s l
  · exact refl s

/-- A press makes the request of its line (R150). -/
theorem State.KeepsSurface.press (l : ContactLine) : s.KeepsSurface (s.press l fun t => t.contactRequest l) :=
  ifTaken _ ((setContacts s _).trans (contactRequest (s.contactChanged l true) l))

theorem State.KeepsSurface.touchActs (f : Slot) (old : Bool) : s.KeepsSurface (s.touchActs f old) := by
  unfold State.touchActs
  split
  · exact handOn s f
  · exact handOff s f
  · exact refl s
  · exact refl s

theorem State.KeepsSurface.keyActs (f : Slot) (old : Bool) : s.KeepsSurface (s.keyActs f old) := by
  unfold State.keyActs
  split
  · exact keyOn s f
  · exact refl s

/-- The advance and the samples leave the faders, and every hand that holds a channel. -/
theorem State.KeepsSurface.sampled : s.KeepsSurface (s.advanceAll.sampled s.shown) := by
  obtain ⟨-, -, cfg, -, -⟩ := s.advanceAll_lines
  refine of_hands (by rw [State.sampled_output, s.advanceAll_output]; rfl)
    (by rw [State.sampled_surface, s.advanceAll_surface]; rfl) fun h => h.of_same ?_ (funext s.sampled_faders)
      fun c v => by rw [State.sampled_hand, Hand.after_eq_held]
  rw [State.sampled_surface]
  exact cfg

theorem State.KeepsSurface.sampleAll (x : Pins) : (s.sampled x).KeepsSurface (s.sampleAll x) := by
  have touched : (s.sampled x).KeepsSurface (s.touched x) := foldl _ (fun t f => touchActs t f _) _ _
  have keyed : (s.touched x).KeepsSurface (s.keyed x) := foldl _ (fun t f => keyActs t f _) _ _
  rw [State.sampleAll_eq]
  exact (touched.trans keyed).trans (foldl _ (fun t l => contactActs t l _) _ _)

theorem State.KeepsSurface.millisecond : s.KeepsSurface s.wallMillisecond :=
  ((sampled s).trans (sampleAll _ _)).trans
    (of_eq s.wallMillisecond_surface_eq s.wallMillisecond_chan
      (by rw [State.wallMillisecond, State.setInputs_output, State.takePins_output]))

/-! ### The show clock, the frame event and the link (R112, R116 to R121, R158, R168, R177, R193) -/

theorem State.KeepsSurface.raiseWithAct (e : Event) : s.KeepsSurface (s.raiseWithAct e) :=
  of_play (.raiseWithAct s e)

theorem State.KeepsSurface.runningMark (song m : Nat) : s.KeepsSurface (s.runningMark song m) := by
  unfold State.runningMark State.correct
  dsimp only
  repeat' split
  · exact of_eq rfl rfl rfl
  · exact ((setClock s _).trans (raise _ _)).trans (of_play (.takeCrossing _))
  · exact (setClock s _).trans (of_play (.takeCrossing _))
  · exact of_eq rfl rfl rfl
  · exact of_eq rfl rfl rfl

theorem State.KeepsSurface.stoppedMark (song m : Nat) : s.KeepsSurface (s.stoppedMark song m) := by
  unfold State.stoppedMark
  dsimp only
  split <;> exact of_eq rfl rfl rfl

theorem State.KeepsSurface.loseClock : s.KeepsSurface s.loseClock := (setClock s _).trans (raiseWithAct _ _)

theorem State.KeepsSurface.timeoutClock : s.KeepsSurface s.timeoutClock := by
  unfold State.timeoutClock
  repeat' split
  case h_2.isTrue => exact loseClock s
  all_goals exact of_eq rfl rfl rfl

theorem State.KeepsSurface.judgeTimers : s.KeepsSurface s.judgeTimers := by
  unfold State.judgeTimers
  repeat' split
  · exact timeoutClock s
  · exact loseClock s
  · exact refl s

/-- A frame event ends glides, and so leaves every hand that holds a channel (R6). -/
theorem State.KeepsSurface.frameEvent : s.KeepsSurface s.frameEvent := by
  have held (h : Hand) (v : Int) : h.atFrame = .held v ↔ h = .held v := by
    cases h with
    | free | held => rfl
    | gliding start since time =>
      unfold Hand.atFrame
      dsimp only
      split <;> exact ⟨nofun, nofun⟩
  have placed : s.KeepsSurface s.placed := by
    refine of_hands (by rw [s.placed_output]) ?_ fun h => h.of_same ?_ s.formed_fader fun c v => ?_
    · exact congrArg Surface.banks s.formed_surface
    · exact congrArg Surface.cfg s.formed_surface
    · show (s.formed.chan c).hand = .held v ↔ _
      obtain ⟨-, hand⟩ := s.formed_hand c
      rw [hand, held]
  rw [State.frameEvent_eq]
  exact State.raiseLate_keeps (fun u hu => hu.trans (raiseWithAct u _)) s placed

theorem State.KeepsSurface.sendEnd (l : OutLine) : s.KeepsSurface (s.sendEnd l) := by
  unfold State.sendEnd
  repeat' split
  all_goals exact of_eq rfl rfl rfl

theorem State.KeepsSurface.linkFault (after : Receiver) (quiet : Nat) (count : Link → Link) :
    s.KeepsSurface (s.linkFault after quiet count) := by
  unfold State.linkFault
  split <;> exact of_eq rfl rfl rfl

theorem State.KeepsSurface.sequenceIdle : s.KeepsSurface s.sequenceIdle := by
  unfold State.sequenceIdle
  split <;> exact of_eq rfl rfl rfl

/-! ### Tracking scans and resets (R84, R89, R148, R192, R195) -/

theorem Channel.loaded_hand (r : Channel) (target : Int) (mute : Bool) (time : Nat) :
    (r.loaded target mute time).hand = r.hand := by
  unfold Channel.loaded
  repeat' split
  all_goals rfl

theorem State.KeepsSurface.loadScan (k : Scan) : s.KeepsSurface (s.loadScan k) := by
  have cleared : s.KeepsSurface s.clearShow := of_play (State.ShowFrame.clearShow s).play
  have loaded : s.clearShow.KeepsSurface (s.clearShow.setChannels (Tab.build 56 fun c => (s.clearShow.chan c).loaded
      (trackedLevel s.clearShow.cues k.cue c (s.clearShow.chan c).cfg.base)
      (trackedMute s.clearShow.cues k.cue c) k.loadTime)) :=
    setChannels _ fun c v => by rw [Tab.get_build, Channel.loaded_hand]
  unfold State.loadScan
  dsimp only
  split
  · exact ((cleared.trans loaded).trans (setSeq _ _)).trans (setArm _ _)
  · exact (cleared.trans loaded).trans (setSeq _ _)

/-- A part whose faders are FREE and whose channels no hand holds (R89, R148). -/
theorem State.handsAgree_of_free {s : State} (faders : ∀ f, (s.fader f).state = .free)
    (hands : ∀ c, (s.chan c).hand = .free) : s.HandsAgree := by
  have idle (f : Slot) (c : Chan) : ¬ s.Holds f c := State.not_holds_of_state (by rw [faders]; decide)
  refine State.handsAgree_iff.mpr ⟨⟨fun f e => ?_, fun f c e => absurd e (idle f c), fun c v e => ?_,
    fun f g c e => absurd e (idle f c)⟩, fun f _ => faders f⟩
  · rw [faders] at e
    cases e
  · rw [hands] at e
    cases e

theorem State.KeepsSurface.takeReset (cause : ResetCause) : s.KeepsSurface (s.takeReset cause) := by
  refine of_hands rfl rfl fun _ => State.handsAgree_of_free (fun f => ?_) fun c => ?_
  · exact congrArg Fader.state (Tab.get_build _ f)
  · exact congrArg Channel.hand (Tab.get_build _ c)

theorem State.KeepsSurface.takePowerOn (straps : BitVec 5) : s.KeepsSurface (s.takePowerOn straps) := by
  obtain ⟨-, -, -, -, -, -, routes, banks, hands, -⟩ := resetMeetsInvariants
  exact ⟨fun _ => hands, fun _ => routes, fun _ => banks⟩

/-- The reset pin and the link restart that falls together with it (R192). -/
theorem State.KeepsSurface.resetPin (straps : BitVec 5) : s.KeepsSurface
    ((if s.link.restartDue then
      ((s.setLink { s.link with straps }).takeReset .resetPin).takeReset .linkRestart
    else (s.setLink { s.link with straps }).takeReset .resetPin).setResetLow true) := by
  have taken := (setLink s { s.link with straps }).trans (takeReset _ .resetPin)
  have held (t : State) : t.KeepsSurface (t.setResetLow true) := of_eq rfl rfl rfl
  split
  · exact (taken.trans (takeReset _ _)).trans (held _)
  · exact taken.trans (held _)

end

end Sys2Proof.Machine
end

section
/-!
PROOF. O58: every request, every command and so every step keeps hands and faders agreed, routes and banks without
a repeat (R129, R133, R134, R137 to R139, R146, R162, R163).
-/

namespace Sys2Proof.Machine

/-! ### Banks and routes that are written (R133, R134, R162, R163) -/

/-- No channel of a list of slots stands in it twice (R134). -/
theorem slotsRepeat_eq_false {l : List (Option Chan)} :
    slotsRepeat l = false ↔ l.Pairwise fun a b => a ≠ none → a ≠ b := by
  induction l with
  | nil => exact iff_of_true rfl List.Pairwise.nil
  | cons m l ih =>
    cases m with
    | none => simp [slotsRepeat, ih]
    | some c =>
      rw [slotsRepeat, Bool.or_eq_false_iff, ih, List.pairwise_cons]
      refine and_congr_left fun _ => ?_
      rw [List.contains_eq_mem, decide_eq_false_iff_not]
      exact ⟨fun out b hb _ e => out (e ▸ hb), fun all hc => all _ hc (Option.some_ne_none c) rfl⟩

/-- A bank repeats no channel when no two of its slots do (R133, R134). -/
theorem bank_distinct_iff {b : Bank} :
    slotsRepeat b.data = false ↔ ∀ f g, f ≠ g → b.get f ≠ none → b.get f ≠ b.get g := by
  rw [slotsRepeat_eq_false, Tab.data_eq_map_get, List.pairwise_map]
  constructor
  · intro distinct f g ne mapped same
    have pair := List.pairwise_iff_getElem.mp distinct
    rcases Nat.lt_or_gt_of_ne (Fin.val_ne_of_ne ne) with lt | lt
    · have := pair f.val g.val (by simp) (by simp) lt
      simp only [List.getElem_finRange, Fin.cast_mk, Fin.eta] at this
      exact this mapped same
    · have := pair g.val f.val (by simp) (by simp) lt
      simp only [List.getElem_finRange, Fin.cast_mk, Fin.eta] at this
      exact this (same ▸ mapped) same.symm
  · intro distinct
    exact (List.nodup_finRange 16).imp fun ne mapped => distinct _ _ ne mapped

/-- A bank without a repeat takes its place (R134). -/
theorem State.BanksDistinct.putBank {s : State} (h : s.BanksDistinct) (k : Fin 8) {b : Bank}
    (distinct : slotsRepeat b.data = false) :
    (s.setSurface { s.surface with banks := s.surface.banks.set k b }).BanksDistinct := by
  intro j
  rw [State.setSurface_surface, Tab.get_set]
  split
  · exact bank_distinct_iff.mp distinct
  · exact h j

theorem otherHolder_eq_none {routes : Tab 48 (Option (GainNo × Fin 64))} {p : Strip}
    {place : Option (GainNo × Fin 64)} (free : otherHolder routes p place = none) {q : Strip} (ne : q ≠ p)
    (placed : place ≠ none) : routes.get q ≠ place := by
  have := List.find?_eq_none.mp free q (List.mem_finRange q)
  intro same
  simp [ne, Option.isSome_iff_ne_none.mpr placed, same] at this

/-- A strip takes a line slot that no other strip holds (R163). -/
theorem State.RoutesDistinct.putRoute {s : State} (h : s.RoutesDistinct) {p : Strip}
    {place : Option (GainNo × Fin 64)} (free : otherHolder s.output.routes p place = none) :
    (s.setOutput { s.output with routes := s.output.routes.set p place }).RoutesDistinct := by
  intro a b ne
  rw [State.setOutput_output, Tab.get_set, Tab.get_set]
  split <;> split
  · rename_i ea eb
    exact absurd (ea.symm.trans eb) ne
  · rename_i ea _
    exact fun placed same => otherHolder_eq_none free (ea ▸ ne.symm) placed same.symm
  · rename_i _ eb
    exact fun placed same => otherHolder_eq_none free (eb ▸ ne) (same ▸ placed) same
  · exact h a b ne

/-! ### Receiving and judging a request (R178, R179, R193) -/

section
variable (s : State)

theorem State.KeepsSurface.receive (d : Dest) (code : Byte) {serve : Bool → State → Served}
    (h : ∀ (b : Bool) (t : State), t.KeepsSurface (serve b t).state) :
    s.KeepsSurface (s.receive d code serve) := by
  have enqueue (v : Served) (b : Bool) : v.state.KeepsSurface (State.enqueue v code b) := by
    unfold State.enqueue
    split <;> exact of_eq rfl rfl rfl
  unfold State.receive
  dsimp only
  repeat' split
  · exact ((setLink s _).trans (h _ _)).trans (enqueue _ _)
  · exact of_eq rfl rfl rfl
  · exact refl s

/-- A request keeps what its own block keeps when it serves it. -/
theorem State.KeepsSurface.request {α : Type} (d : Dest) (code : Byte) (parsed : Option α)
    {serve : α → Bool → State → Served} (h : ∀ f b (t : State), t.KeepsSurface (serve f b t).state)
    (carried : State → List Byte := fun _ => []) : s.KeepsSurface (s.request d code parsed serve carried) := by
  refine receive s d code fun b t => ?_
  unfold judge
  repeat' split
  · exact sequenceIdle t
  · exact sequenceIdle t
  · exact h _ b t

/-! ### The blocks -/

variable (b : Bool)

/-! #### Link, events and channels (R13, R15, R16, R105, R184, R190, R191, R193) -/

theorem State.KeepsSurface.serveLinkSetup (f : LinkSetup) : s.KeepsSurface (serveLinkSetup f b s).state := by
  unfold Machine.serveLinkSetup
  dsimp only
  split <;> exact of_eq rfl rfl rfl

theorem State.KeepsSurface.serveEventsSetup (f : EventsSetup) : s.KeepsSurface (serveEventsSetup f b s).state := by
  unfold Machine.serveEventsSetup
  split <;> exact of_eq rfl rfl rfl

theorem State.KeepsSurface.serveEventsRead (g : Byte) : s.KeepsSurface (serveEventsRead g b s).state := by
  unfold Machine.serveEventsRead
  repeat' split
  all_goals exact of_eq rfl rfl rfl

/-- A RESTART may restart the part at once (R193). -/
theorem State.KeepsSurface.serveRestart (step : Nat) : s.KeepsSurface (serveRestart step b s).state := by
  unfold Machine.serveRestart
  split
  · exact sequenceIdle s
  · cases s.events.sequence with
    | idle => dsimp only; split <;> exact of_eq rfl rfl rfl
    | step1 => dsimp only; split <;> exact of_eq rfl rfl rfl
    | step2 =>
      dsimp only
      repeat' split
      · exact (setEvents s _).trans (takeReset _ _)
      · exact setEvents s _
      · exact setEvents s _
    | due => exact of_eq rfl rfl rfl

theorem State.KeepsSurface.serveChannelSetup (f : ChannelSetup) :
    s.KeepsSurface (serveChannelSetup f b s).state := by
  unfold Machine.serveChannelSetup
  repeat' split
  · exact refl s
  · exact setChan s _ rfl
  · exact refl s

theorem State.KeepsSurface.serveTrim (f : TrimBody) : s.KeepsSurface (serveTrim f b s).state := by
  unfold Machine.serveTrim
  split
  · exact refl s
  · exact setChan s _ rfl

theorem State.KeepsSurface.serveMuteRemote (f : MuteRemote) : s.KeepsSurface (serveMuteRemote f b s).state := by
  unfold Machine.serveMuteRemote
  split
  · exact setChan s _ rfl
  · exact refl s

theorem State.KeepsSurface.serveLevel (f : LevelBody) : s.KeepsSurface (serveLevel f b s).state := by
  unfold Machine.serveLevel
  split
  · exact of_play ((ShowFrame.startLevel s _ _ _ _ _ _).trans (ShowFrame.settledFrom _ s)).play
  · exact refl s

/-! #### The cue list and the show (R50 to R56, R61 to R66, R69, R80 to R82, R87) -/

theorem State.KeepsSurface.serveCuePut (f : CuePut) : s.KeepsSurface (serveCuePut f b s).state := by
  unfold Machine.serveCuePut
  dsimp only
  repeat' split
  all_goals exact of_eq rfl rfl rfl

theorem State.KeepsSurface.serveMovesAdd (f : MovesAdd) : s.KeepsSurface (serveMovesAdd f b s).state := by
  unfold Machine.serveMovesAdd
  dsimp only
  repeat' split
  all_goals exact of_eq rfl rfl rfl

theorem State.KeepsSurface.serveCueDelete (n : Nat) : s.KeepsSurface (serveCueDelete n b s).state := by
  unfold Machine.serveCueDelete State.deleteCue
  dsimp only
  repeat' split
  all_goals exact of_eq rfl rfl rfl

theorem State.KeepsSurface.serveListClear (u : Unit) : s.KeepsSurface (serveListClear u b s).state := by
  unfold Machine.serveListClear
  repeat' split
  all_goals exact of_eq rfl rfl rfl

theorem State.KeepsSurface.serveShowStart (u : Unit) : s.KeepsSurface (serveShowStart u b s).state := by
  unfold Machine.serveShowStart
  repeat' split
  case isFalse.isFalse.isFalse => exact ((of_play (.setShow s .running)).trans (setSeq _ _)).trans (setArm _ _)
  all_goals exact refl s

theorem State.KeepsSurface.serveShowEnd (u : Unit) : s.KeepsSurface (serveShowEnd u b s).state := by
  unfold Machine.serveShowEnd
  repeat' split
  case isFalse.isFalse.isFalse => exact ((setSeq s _).trans (setArm _ _)).trans (of_play (.setShow _ .edit))
  all_goals exact refl s

theorem State.KeepsSurface.serveGo (n : Nat) : s.KeepsSurface (serveGo n b s).state := by
  unfold Machine.serveGo
  dsimp only
  split
  · exact refl s
  · exact of_play (.go s _ _)

theorem State.KeepsSurface.serveHold (u : Unit) : s.KeepsSurface (serveHold u b s).state := by
  unfold Machine.serveHold
  split
  · exact of_play (.holdShow s)
  · exact refl s

theorem State.KeepsSurface.serveResume (u : Unit) : s.KeepsSurface (serveResume u b s).state := by
  unfold Machine.serveResume
  split
  · exact of_play (.resumeShow s)
  · exact refl s

theorem State.KeepsSurface.serveStop (u : Unit) : s.KeepsSurface (serveStop u b s).state := by
  unfold Machine.serveStop
  split
  · exact of_play (ShowFrame.clearShow s).play
  · exact refl s

theorem State.KeepsSurface.serveSafeRelease (u : Unit) : s.KeepsSurface (serveSafeRelease u b s).state := by
  unfold Machine.serveSafeRelease
  split
  · exact of_play (.leaveSafe s)
  · exact refl s

theorem State.KeepsSurface.serveGoto (f : GotoBody) : s.KeepsSurface (serveGoto f b s).state := by
  unfold Machine.serveGoto
  repeat' split
  all_goals exact of_eq rfl rfl rfl

theorem State.KeepsSurface.serveNoticesRead (n : Byte) : s.KeepsSurface (serveNoticesRead n b s).state := by
  unfold Machine.serveNoticesRead
  repeat' split
  all_goals exact of_eq rfl rfl rfl

/-! #### Surface, contacts and output (R134, R135, R146, R155, R163, R170) -/

/-- Another configuration; a change of mode puts every hand in its place (R146). -/
theorem State.KeepsSurface.serveSurfaceSetup (f : SurfaceSetup) :
    s.KeepsSurface (serveSurfaceSetup f b s).state := by
  unfold Machine.serveSurfaceSetup
  split
  · exact refl s
  · dsimp only
    split
    · rename_i same
      refine of_hands rfl rfl fun h => ?_
      obtain ⟨hands, spares⟩ := State.handsAgree_iff.mp h
      refine State.handsAgree_iff.mpr ⟨hands.of_same (fun _ => ⟨rfl, rfl, rfl⟩) fun _ _ => Iff.rfl, fun g spare => ?_⟩
      exact spares g (by rw [State.slotUsed, ← same]; exact spare)
    · rename_i other
      have frame := State.SampleFrame.modeChanged
      refine State.KeepsSurface.trans ?_ (of_play (ShowFrame.settledFrom _ s).play)
      exact of_hands (by rw [(frame _).output]; rfl) (by rw [(frame _).surface]; rfl) fun h => h.modeChanged other

theorem State.KeepsSurface.applyBank : s.KeepsSurface s.applyBank :=
  of_unit (State.UnitFrame.applyBank s) fun h => h.applyBank

theorem State.KeepsSurface.serveBankPut (f : BankPut) : s.KeepsSurface (serveBankPut f b s).state := by
  unfold Machine.serveBankPut
  split
  · rename_i k bank _ _
    split
    · exact refl s
    · rename_i distinct
      have put : s.KeepsSurface (s.setSurface { s.surface with banks := s.surface.banks.set k bank }) :=
        ⟨fun h => h.of_same rfl rfl fun _ _ => Iff.rfl, id, fun h => h.putBank k (Bool.eq_false_of_not_eq_true distinct)⟩
      dsimp only
      split
      · exact put.trans (applyBank _)
      · exact put
  · exact refl s

theorem State.KeepsSurface.serveBankSelect (k : Byte) : s.KeepsSurface (serveBankSelect k b s).state := by
  unfold Machine.serveBankSelect
  split
  · exact refl s
  · refine State.KeepsSurface.trans ?_ (applyBank _)
    exact setLines s rfl rfl rfl

theorem State.KeepsSurface.serveContactSetup (f : ContactSetup) :
    s.KeepsSurface (serveContactSetup f b s).state := by
  unfold Machine.serveContactSetup
  split <;> exact of_eq rfl rfl rfl

theorem State.KeepsSurface.serveOutputSetup (f : OutputSetup) :
    s.KeepsSurface (serveOutputSetup f b s).state := by
  unfold Machine.serveOutputSetup
  split <;> exact of_eq rfl rfl rfl

theorem State.KeepsSurface.serveRoutePut (f : RoutePut) : s.KeepsSurface (serveRoutePut f b s).state := by
  unfold Machine.serveRoutePut
  repeat' split
  · exact refl s
  · exact refl s
  · exact refl s
  · rename_i free
    exact ⟨fun h => h.of_same rfl rfl fun _ _ => Iff.rfl, fun h => h.putRoute free, id⟩

/-! ### Commands whose effect is written in their arm -/

theorem State.KeepsSurface.timeMark (song : Byte) (position : BitVec 32) (flags check : Byte) :
    ∃ u, execTimeMark song position flags check s = .next u ∧ s.KeepsSurface u := by
  refine ⟨_, rfl, ifTaken _ ?_⟩
  dsimp only
  repeat' split
  · exact of_eq rfl rfl rfl
  · exact of_eq rfl rfl rfl
  · exact (setClock s _).trans (runningMark _ _ _)
  · exact (setClock s _).trans (stoppedMark _ _ _)

theorem State.KeepsSurface.passEnd (readings : Tab 16 (BitVec 10)) :
    ∃ u, execPassEnd readings s = .next u ∧ s.KeepsSurface u := by
  refine ⟨_, rfl, ifTaken _ (State.KeepsSurface.trans ?_ (foldl _ (fun t f => passFader t readings f) _ _))⟩
  exact setLines s rfl rfl rfl

theorem State.KeepsSurface.gotoComplete : ∃ u, execGotoComplete s = .next u ∧ s.KeepsSurface u := by
  refine ⟨_, rfl, ifTaken _ ?_⟩
  split
  · exact refl s
  · exact (loadScan s _).trans (setLink _ _)

theorem State.KeepsSurface.moveStart (c : Chan) : ∃ u, execMoveStart c s = .next u ∧ s.KeepsSurface u := by
  refine ⟨_, rfl, ifTaken _ ?_⟩
  repeat' split
  · exact refl s
  · refine State.KeepsSurface.trans ?_ (of_play ((ShowFrame.startDue _ _ c).trans (ShowFrame.settledFrom _ s)).play)
    exact setChan s c rfl
  · exact refl s

theorem State.KeepsSurface.moveComplete (c : Chan) : ∃ u, execMoveComplete c s = .next u ∧ s.KeepsSurface u := by
  refine ⟨_, rfl, ifTaken _ ?_⟩
  repeat' split
  · exact refl s
  · exact of_play ((ShowFrame.completeMove s c).trans (ShowFrame.settledFrom _ s)).play
  · exact refl s

theorem State.KeepsSurface.replySend : ∃ u, execReplySend s = .next u ∧ s.KeepsSurface u := by
  refine ⟨_, rfl, ?_⟩
  repeat' split
  all_goals exact of_eq rfl rfl rfl

/-- The end of a reply may bring the link restart about (R181, R193). -/
theorem State.KeepsSurface.replyEnd : ∃ u, execReplyEnd s = .next u ∧ s.KeepsSurface u := by
  refine ⟨_, rfl, ifTaken _ ?_⟩
  dsimp only
  repeat' split
  case h_3 => exact (setLink s _).trans (takeReset _ _)
  all_goals exact of_eq rfl rfl rfl

theorem State.KeepsSurface.otherTraffic : ∃ u, execTrafficForOtherParts s = .next u ∧ s.KeepsSurface u := by
  refine ⟨_, rfl, ?_⟩
  repeat' split
  · exact setLink s _
  · exact linkFault s _ _ _
  · exact refl s

theorem State.KeepsSurface.requestOverrun : ∃ u, execRequestOverrun s = .next u ∧ s.KeepsSurface u := by
  refine ⟨_, rfl, ?_⟩
  split <;> exact of_eq rfl rfl rfl

theorem State.KeepsSurface.restart (d : Dest) (body : List Byte) :
    ∃ u, execRestart d body s = .next u ∧ s.KeepsSurface u := by
  refine ⟨_, rfl, receive s d _ fun b t => ?_⟩
  split
  · exact sequenceIdle t
  · exact serveRestart t b _

end

/-- Every command keeps hands and faders agreed, routes and banks without a repeat. -/
theorem State.KeepsSurface.exec (i : Instr) (s : State) : ∃ u, exec i s = .next u ∧ s.KeepsSurface u := by
  cases i with
  | nop | linkQuery | restartQuery | channelQuery | cueQuery | movesQuery | listQuery | showQuery | clockQuery
  | surfaceQuery | contactQuery | routeQuery | outputQuery =>
    exact ⟨_, rfl, request s _ _ _ fun _ _ t => refl t⟩
  | linkSetup => exact ⟨_, rfl, request s _ _ _ fun f b t => serveLinkSetup t b f⟩
  | eventsSetup => exact ⟨_, rfl, request s _ _ _ fun f b t => serveEventsSetup t b f⟩
  | eventsRead => exact ⟨_, rfl, request s _ _ _ fun f b t => serveEventsRead t b f⟩
  | restart => exact restart s _ _
  | channelSetup => exact ⟨_, rfl, request s _ _ _ fun f b t => serveChannelSetup t b f⟩
  | trim => exact ⟨_, rfl, request s _ _ _ fun f b t => serveTrim t b f⟩
  | muteRemote => exact ⟨_, rfl, request s _ _ _ fun f b t => serveMuteRemote t b f⟩
  | level => exact ⟨_, rfl, request s _ _ _ fun f b t => serveLevel t b f⟩
  | cuePut => exact ⟨_, rfl, request s _ _ _ fun f b t => serveCuePut t b f⟩
  | movesAdd => exact ⟨_, rfl, request s _ _ _ fun f b t => serveMovesAdd t b f⟩
  | cueDelete => exact ⟨_, rfl, request s _ _ _ fun f b t => serveCueDelete t b f⟩
  | listClear => exact ⟨_, rfl, request s _ _ _ fun f b t => serveListClear t b f⟩
  | showStart => exact ⟨_, rfl, request s _ _ _ fun f b t => serveShowStart t b f⟩
  | showEnd => exact ⟨_, rfl, request s _ _ _ fun f b t => serveShowEnd t b f⟩
  | go => exact ⟨_, rfl, request s _ _ _ (fun f b t => serveGo t b f) _⟩
  | back => exact ⟨_, rfl, request s _ _ _ (fun _ _ t => of_play (.back t)) _⟩
  | hold => exact ⟨_, rfl, request s _ _ _ fun f b t => serveHold t b f⟩
  | resume => exact ⟨_, rfl, request s _ _ _ fun f b t => serveResume t b f⟩
  | stop => exact ⟨_, rfl, request s _ _ _ fun f b t => serveStop t b f⟩
  | safe => exact ⟨_, rfl, request s _ _ _ fun _ _ t => of_play (.enterSafe t)⟩
  | safeRelease => exact ⟨_, rfl, request s _ _ _ fun f b t => serveSafeRelease t b f⟩
  | gotoCue => exact ⟨_, rfl, request s _ _ _ fun f b t => serveGoto t b f⟩
  | noticesRead => exact ⟨_, rfl, request s _ _ _ fun f b t => serveNoticesRead t b f⟩
  | clockSetup => exact ⟨_, rfl, request s _ _ _ fun _ _ t => (setClock t _).trans (judgeTimers _)⟩
  | surfaceSetup => exact ⟨_, rfl, request s _ _ _ fun f b t => serveSurfaceSetup t b f⟩
  | bankPut => exact ⟨_, rfl, request s _ _ _ fun f b t => serveBankPut t b f⟩
  | bankSelect => exact ⟨_, rfl, request s _ _ _ fun f b t => serveBankSelect t b f⟩
  | contactSetup => exact ⟨_, rfl, request s _ _ _ fun f b t => serveContactSetup t b f⟩
  | outputSetup => exact ⟨_, rfl, request s _ _ _ fun f b t => serveOutputSetup t b f⟩
  | routePut => exact ⟨_, rfl, request s _ _ _ fun f b t => serveRoutePut t b f⟩
  | unknownType => exact ⟨_, rfl, receive s _ _ fun _ t => sequenceIdle t⟩
  | requestOverrun => exact requestOverrun s
  | linkFramingFault | linkGapFault | linkFormFault | linkCheckFault => exact ⟨_, rfl, linkFault s _ _ _⟩
  | replySend => exact replySend s
  | replyEnd => exact replyEnd s
  | linkSilence => exact ⟨_, rfl, ifTaken _ ((setLink s _).trans (raiseWithAct _ _))⟩
  | restartWindowLapse => exact ⟨_, rfl, ifTaken _ (sequenceIdle s)⟩
  | powerOn => exact ⟨_, rfl, takePowerOn s _⟩
  | resetPin => exact ⟨_, rfl, ifTaken _ (resetPin s _)⟩
  | resetPinRelease => exact ⟨_, rfl, of_eq rfl rfl rfl⟩
  | timeMark => exact timeMark s _ _ _ _
  | markFramingFault | markGapFault => exact ⟨_, rfl, ifTaken _ (of_eq rfl rfl rfl)⟩
  | markTimeout => exact ⟨_, rfl, ifTaken _ (timeoutClock s)⟩
  | freewheelLimit => exact ⟨_, rfl, ifTaken _ (loseClock s)⟩
  | clockAdvance => exact ⟨_, rfl, ifTaken _ (millisecond s)⟩
  | waitExpiry => exact ⟨_, rfl, ifTaken _ (of_play (ShowFrame.fireChain s _).play)⟩
  | gotoComplete => exact gotoComplete s
  | moveStart => exact moveStart s _
  | moveComplete => exact moveComplete s _
  | passEnd => exact passEnd s _
  | qualifiedTouch => exact ⟨_, rfl, ifTaken _ ((touchChanged s _ _).trans (handOn _ _))⟩
  | qualifiedRelease => exact ⟨_, rfl, ifTaken _ ((touchChanged s _ _).trans (handOff _ _))⟩
  | keyPress => exact ⟨_, rfl, ifTaken _ ((keyChanged s _ _).trans (keyOn _ _))⟩
  | keyRelease => exact ⟨_, rfl, ifTaken _ (keyChanged s _ _)⟩
  | contactGoPress => exact ⟨_, rfl, press s .cgo⟩
  | contactBackPress => exact ⟨_, rfl, press s .cback⟩
  | contactHoldPress => exact ⟨_, rfl, press s .chold⟩
  | contactSafePress => exact ⟨_, rfl, press s .csafe⟩
  | contactRelease => exact ⟨_, rfl, ifTaken _ (setContacts s _)⟩
  | frameEvent => exact ⟨_, rfl, ifTaken _ (frameEvent s)⟩
  | sendEnd => exact ⟨_, rfl, ifTaken _ (sendEnd s _)⟩
  | trafficForOtherParts => exact otherTraffic s

/-! ### The step -/

theorem State.KeepsSurface.of_exec {i : Instr} {s t : State} (h : Machine.exec i s = .next t) :
    s.KeepsSurface t := by
  obtain ⟨u, hu, k⟩ := exec i s
  cases hu.symm.trans h
  exact k

/-- A character that is judged reaches the link or the show clock alone (R111, R176). -/
theorem State.KeepsSurface.nextCharacter {s t : State} {i : Option Instr}
    (h : s.nextCharacter = some (t, i)) : s.KeepsSurface t := by
  have link (x : LinkHeard) (rest : List LinkHeard) : s.KeepsSurface (s.judgeLink x rest).1 := by
    unfold State.judgeLink
    repeat' split
    all_goals exact of_eq rfl rfl rfl
  have mark (x : MarkHeard) (rest : List MarkHeard) : s.KeepsSurface (s.judgeMark x rest).1 := by
    unfold State.judgeMark
    repeat' split
    all_goals exact of_eq rfl rfl rfl
  unfold State.nextCharacter at h
  repeat' split at h
  · cases h
  · rename_i x rest _
    have k := link x rest
    rwa [Option.some.inj h] at k
  · rename_i x rest _ _
    have k := mark x rest
    rwa [Option.some.inj h] at k
  · cases h

/-- Every step: the command taken, the character judged, or the part's own event. -/
theorem State.KeepsSurface.step {s t : State} (h : Machine.step s = .next t) : s.KeepsSurface t := by
  unfold Machine.step at h
  repeat' split at h
  · rename_i rest _
    have taken : s.KeepsSurface (s.setPending rest) := of_eq rfl rfl rfl
    exact taken.trans (of_exec h)
  · rename_i hc
    exact (nextCharacter hc).trans (of_exec h)
  · rename_i hc
    cases h
    exact nextCharacter hc
  · exact of_exec h
  · cases h
    exact refl s

/-- Settles O58: the relation that every step keeps. -/
theorem surfaceKept : Obligations.SurfaceKept := fun _ _ h =>
  ⟨(State.KeepsSurface.step h).hands, (State.KeepsSurface.step h).routes, (State.KeepsSurface.step h).banks⟩

end Sys2Proof.Machine
end

section
/-!
PROOF. O44: qualified touches of the faders, and presses and releases of the mute keys (R129, R132, R138, R143).
-/

namespace Sys2Proof.Machine

/-- All slots are in use in SEQUENTIAL mode and the first 8 in PAIRED (R129). -/
theorem State.slotUsed_iff (s : State) (f : Slot) :
    s.slotUsed f = true ↔ (s.surface.cfg.mode = .paired → f.val < 8) := by
  rw [State.slotUsed]
  cases s.surface.cfg.mode with
  | sequential => exact iff_of_true rfl nofun
  | paired => simp [ScanMode.uses]

/-! ### A touch of a fader -/

section
variable {s : State} {f : Slot}

theorem State.handOn_still
    (still : s.slotUsed f = false ∨ (s.fader f).state ≠ .free ∨ (s.fader f).mapping = none) : s.handOn f = s := by
  unfold State.handOn
  split
  · rename_i on
    obtain ⟨used, free⟩ := Bool.and_eq_true_iff.mp on
    rcases still with unused | busy | unmapped
    · exact absurd (unused.symm.trans used) Bool.false_ne_true
    · exact absurd (beq_iff_eq.mp free) busy
    · exact State.takeTouch_unmapped unmapped
  · rfl

theorem State.handOn_free (used : s.slotUsed f = true) (free : (s.fader f).state = .free) :
    s.handOn f = s.takeTouch f := if_pos (Bool.and_eq_true_iff.mpr ⟨used, beq_iff_eq.mpr free⟩)

theorem exec_qualifiedTouch (awake : s.resetLow = false) (idle : (s.surface.touch.get f).qualified = false) :
    exec (.qualifiedTouch f) s = .next ((s.touchChanged f true).handOn f) := by
  show Host.Outcome.next (if _ then _ else _) = _
  rw [awake, idle]
  rfl

/-! ### A press and a release of a mute key -/

theorem exec_keyPress (awake : s.resetLow = false) (idle : (s.surface.keys.get f).qualified = false) :
    exec (.keyPress f) s = .next ((s.keyChanged f true).keyOn f) := by
  show Host.Outcome.next (if _ then _ else _) = _
  rw [awake, idle]
  rfl

theorem exec_keyRelease (awake : s.resetLow = false) (active : (s.surface.keys.get f).qualified = true) :
    exec (.keyRelease f) s = .next (s.keyChanged f false) := by
  show Host.Outcome.next (if _ then _ else _) = _
  rw [awake, active]
  rfl

theorem State.keyOn_still (still : s.slotUsed f = false ∨ (s.fader f).mapping = none) : s.keyOn f = s := by
  unfold State.keyOn
  split
  · rename_i used
    rcases still with unused | unmapped
    · exact absurd (unused.symm.trans used) Bool.false_ne_true
    · rw [State.toggleOperator, unmapped]
  · rfl

theorem State.keyOn_mapped (used : s.slotUsed f = true) {c : Chan} (mapped : (s.fader f).mapping = some c) :
    s.keyOn f = s.setChan c { s.chan c with operator := !(s.chan c).operator } := by
  rw [State.keyOn, if_pos used, State.toggleOperator, mapped]

end

/-! ### A row that finds its line in that state already (log entry 4) -/

theorem ite_self_of_or {c : Bool} (b : Bool) (h : c = true) (s t : State) : (if b || c then s else t) = s :=
  if_pos (by rw [h, Bool.or_true])

section
variable {s : State} {f : Slot}

theorem exec_qualifiedTouch_again (active : (s.surface.touch.get f).qualified = true) :
    exec (.qualifiedTouch f) s = .next s := congrArg _ (ite_self_of_or _ active s _)

theorem exec_qualifiedRelease_again (idle : (s.surface.touch.get f).qualified = false) :
    exec (.qualifiedRelease f) s = .next s := congrArg _ (ite_self_of_or _ (Bool.not_eq_true' _ ▸ idle) s _)

theorem exec_keyPress_again (active : (s.surface.keys.get f).qualified = true) :
    exec (.keyPress f) s = .next s := congrArg _ (ite_self_of_or _ active s _)

theorem exec_keyRelease_again (idle : (s.surface.keys.get f).qualified = false) :
    exec (.keyRelease f) s = .next s := congrArg _ (ite_self_of_or _ (Bool.not_eq_true' _ ▸ idle) s _)

end

/-- Settles O44: the takeover by its cases, and the toggle of a mapped slot. -/
theorem touchesAndKeys : Obligations.TouchesAndKeys := by
  refine ⟨State.slotUsed_iff, ?_, ?_, fun s f => ⟨exec_qualifiedTouch_again, exec_qualifiedRelease_again,
    exec_keyPress_again, exec_keyRelease_again⟩⟩
  · rintro s f awake idle touched rfl
    rw [exec_qualifiedTouch awake idle]
    refine ⟨fun still => ?_, fun used free c mapped => ?_⟩
    · rw [State.handOn_still (s := s.touchChanged f true) still]
      rfl
    · rw [State.handOn_free (s := s.touchChanged f true) used free]
      exact ⟨fun h held => congrArg _ (State.takeTouch_blocked (s := s.touchChanged f true) mapped held),
        fun unheld => congrArg _ (State.takeTouch_holds (s := s.touchChanged f true) mapped unheld)⟩
  · intro s f awake line hline
    obtain rfl : line = s.keyChanged f := funext hline
    refine ⟨fun idle => ⟨fun still => ?_, fun used c mapped => ?_⟩, exec_keyRelease awake⟩
    · rw [exec_keyPress awake idle, State.keyOn_still (s := s.keyChanged f true) still]
    · rw [exec_keyPress awake idle, State.keyOn_mapped (s := s.keyChanged f true) used mapped]
      rfl

end Sys2Proof.Machine
end

section
/-!
PROOF. O43: the end of a scan pass judges every fader once, by its own reading (R129 to R131).
-/

namespace Sys2Proof.Machine

/-! ### One fader at the end of a pass -/

/-- What reading `r` leaves of a fader (R130). -/
def Fader.judged (d : Fader) (hysteresis r : Nat) : Fader :=
  { d with position := if acceptsReading hysteresis d.position r then r else d.position }

/-- What the end of a pass leaves of the fader of slot `f` (R129 to R131). -/
def SurfaceConfig.passed (k : SurfaceConfig) (readings : Tab 16 (BitVec 10)) (f : Slot) (d : Fader) : Fader :=
  match k.mode with
  | .sequential => d.judged k.hysteresis (readings.get f).toNat
  | .paired =>
    if f.val < 8 then
      if agree k.tolerance (wipersOf readings f).1 (wipersOf readings f).2 then
        { d with disagree := false }.judged k.hysteresis (((wipersOf readings f).1 + (wipersOf readings f).2) / 2)
      else { d with disagree := true }
    else d

theorem State.passFader_fader (s : State) (readings : Tab 16 (BitVec 10)) (f : Slot) :
    (s.passFader readings f).fader f = s.surface.cfg.passed readings f (s.fader f) := by
  unfold SurfaceConfig.passed
  cases mode : s.surface.cfg.mode with
  | sequential =>
    rw [State.passFader_sequential mode]
    exact s.takeReading_fader f _
  | paired =>
    dsimp only
    split
    · rename_i lower
      split
      · rename_i same
        rw [State.passFader_agrees mode lower rfl same, State.takeReading_fader, State.setFader_fader_self]
        rfl
      · rename_i apart
        rw [State.passFader_disagrees mode lower rfl (Bool.eq_false_of_not_eq_true apart)]
        split
        · rename_i flagged
          rw [← flagged]
        · rw [State.raise_fader, State.setFader_fader_self]
    · rename_i upper
      rw [State.passFader_unused mode upper]

/-- A pass writes the position and the disagreement flag of a fader alone. -/
theorem SurfaceConfig.passed_kept (k : SurfaceConfig) (readings : Tab 16 (BitVec 10)) (f : Slot) (d : Fader) :
    (k.passed readings f d).state = d.state ∧ (k.passed readings f d).mapping = d.mapping ∧
      (k.passed readings f d).pending = d.pending := by
  unfold SurfaceConfig.passed
  repeat' split
  all_goals exact ⟨rfl, rfl, rfl⟩

/-- The wipers of fader `f` come to disagree (R131). -/
def State.ComesApart (s : State) (readings : Tab 16 (BitVec 10)) (f : Slot) : Prop :=
  s.surface.cfg.mode = .paired ∧ f.val < 8 ∧
    agree s.surface.cfg.tolerance (wipersOf readings f).1 (wipersOf readings f).2 = false ∧
      (s.fader f).disagree = false

theorem State.ComesApart.raised {s : State} {readings : Tab 16 (BitVec 10)} {f : Slot}
    (h : s.ComesApart readings f) : (s.passFader readings f).Raised .wiperDisagree := by
  obtain ⟨mode, lower, apart, clear⟩ := h
  rw [State.passFader_disagrees mode lower rfl apart, clear]
  exact State.raise_raised _ _

/-! ### Every fader at the end of a pass -/

/-- Every fader is judged. -/
def State.passAll (s : State) (readings : Tab 16 (BitVec 10)) : State :=
  allSlots.foldl (fun t f => t.passFader readings f) s

/-- Fader `f` has been judged from state `s`. -/
def State.PassDone (s : State) (readings : Tab 16 (BitVec 10)) (t : State) (f : Slot) : Prop :=
  t.fader f = s.surface.cfg.passed readings f (s.fader f) ∧ (s.ComesApart readings f → t.Raised .wiperDisagree)

section
variable (s : State) (readings : Tab 16 (BitVec 10))

/-- Each fader is judged at its own turn, as the pass found it. -/
theorem State.passFader_turns : Turns s.UnitFrame (fun t f => t.fader f = s.fader f) (s.PassDone readings)
    (fun t f => t.passFader readings f) where
  keeps {t a} frame _ := frame.trans (SlotFrame.passFader t readings a).toUnitFrame
  turn {t a} frame same := by
    have cfg : t.surface.cfg = s.surface.cfg := by rw [frame.surface]
    refine ⟨by rw [State.passFader_fader, cfg, same], fun apart => State.ComesApart.raised ?_⟩
    rwa [State.ComesApart, cfg, same]
  ready {t a b} _ _ ne same := ((SlotFrame.passFader t readings a).fader b ne.symm).trans same
  done {t a b} _ _ ne := fun ⟨same, raised⟩ =>
    have frame := SlotFrame.passFader t readings a
    ⟨(frame.fader b ne.symm).trans same, fun apart => frame.flags _ (raised apart)⟩

theorem State.passAll_done : s.UnitFrame (s.passAll readings) ∧ ∀ f, s.PassDone readings (s.passAll readings) f := by
  obtain ⟨frame, done⟩ := (s.passFader_turns readings).foldl allSlots_nodup (.refl s) fun _ _ => rfl
  exact ⟨frame, fun f => done f (mem_allSlots f)⟩

theorem State.HandsAgree.passAll (h : s.HandsAgree) : (s.passAll readings).HandsAgree :=
  foldl_closed (P := State.HandsAgree) _ (fun _ f k => k.passFader readings f) allSlots s h

variable {s}

/-- A judged fader holds what it held. -/
theorem State.passFader_holds_iff {f g : Slot} {c : Chan} :
    (s.passFader readings f).Holds g c ↔ s.Holds g c := by
  by_cases e : g = f
  · subst e
    obtain ⟨state, mapping, -⟩ := s.surface.cfg.passed_kept readings g (s.fader g)
    rw [State.Holds, State.passFader_fader, state, mapping]
    rfl
  · rw [State.Holds, (State.SlotFrame.passFader s readings f).fader g e]
    rfl

/-- A pass leaves the channels that no fader holds. -/
theorem State.passAll_idle {c : Chan} (idle : ∀ f, ¬ s.Holds f c) : (s.passAll readings).chan c = s.chan c := by
  have kept := foldl_closed (P := fun t => t.chan c = s.chan c ∧ ∀ f, ¬ t.Holds f c)
    (fun t f => t.passFader readings f)
    (fun t f ⟨same, idle⟩ => ⟨((State.SlotFrame.passFader t readings f).other c (idle f)).trans same,
      fun g => mt (State.passFader_holds_iff readings).mp (idle g)⟩)
    allSlots s ⟨rfl, idle⟩
  exact kept.1

end

/-! ### The readings as the rules name them (R130, R131) -/

theorem Fader.judged_position (d : Fader) (hysteresis r : Nat) :
    (d.judged hysteresis r).position =
      if r = 0 ∨ r = 1023 ∨ hysteresis < d.position - r ∨ hysteresis < r - d.position then r else d.position := by
  unfold Fader.judged acceptsReading
  refine if_congr ?_ rfl rfl
  rw [decide_eq_true_iff]
  omega

theorem agree_iff {tolerance a b : Nat} : agree tolerance a b = true ↔ a - b ≤ tolerance ∧ b - a ≤ tolerance := by
  rw [agree, decide_eq_true_iff]
  omega

/-- The wipers of fader `f` are those of channels 2f and 2f + 1 of the scanner, counted from 0 (R131). -/
theorem wipersOf_eq {readings : Tab 16 (BitVec 10)} {f x y : Slot} (hx : x.val = 2 * f.val)
    (hy : y.val = 2 * f.val + 1) :
    wipersOf readings f = ((readings.get x).toNat, (readings.get y).toNat) := by
  have at_x : Fin.ofNat 16 (2 * f.val) = x := Fin.ext (by rw [← hx]; exact Nat.mod_eq_of_lt x.isLt)
  have at_y : Fin.ofNat 16 (2 * f.val + 1) = y := Fin.ext (by rw [← hy]; exact Nat.mod_eq_of_lt y.isLt)
  rw [wipersOf, at_x, at_y]

section
variable {k : SurfaceConfig} {readings : Tab 16 (BitVec 10)} {f : Slot} {d : Fader}

theorem SurfaceConfig.passed_sequential (mode : k.mode = .sequential) :
    k.passed readings f d = d.judged k.hysteresis (readings.get f).toNat := by
  rw [SurfaceConfig.passed, mode]

theorem SurfaceConfig.passed_agrees (mode : k.mode = .paired) (lower : f.val < 8) {a b : Nat}
    (wipers : wipersOf readings f = (a, b)) (same : agree k.tolerance a b = true) :
    k.passed readings f d = { d with disagree := false }.judged k.hysteresis ((a + b) / 2) := by
  rw [SurfaceConfig.passed, mode]
  dsimp only
  rw [if_pos lower, wipers, if_pos same]

theorem SurfaceConfig.passed_apart (mode : k.mode = .paired) (lower : f.val < 8) {a b : Nat}
    (wipers : wipersOf readings f = (a, b)) (apart : agree k.tolerance a b = false) :
    k.passed readings f d = { d with disagree := true } := by
  rw [SurfaceConfig.passed, mode]
  dsimp only
  rw [if_pos lower, wipers, if_neg (by rw [apart]; exact Bool.false_ne_true)]

end

/-- The readings stand at the wipers, and the next pass begins (R129). -/
def State.passRead (s : State) (readings : Tab 16 (BitVec 10)) : State :=
  s.setSurface { s.surface with wipers := readings, passLeft := s.surface.cfg.period }

theorem exec_passEnd {s : State} (awake : s.resetLow = false) (readings : Tab 16 (BitVec 10)) :
    exec (.passEnd readings) s = .next ((s.passRead readings).passAll readings) := by
  show Host.Outcome.next (if s.resetLow then s else (s.passRead readings).passAll readings) = _
  rw [awake]
  rfl

/-- Settles O43: every fader by its own turn, and H by the hands that stay agreed. -/
theorem passJudged : Obligations.PassJudged := by
  intro s readings awake
  obtain ⟨frame, done⟩ := (s.passRead readings).passAll_done readings
  have passed (f : Slot) : ((s.passRead readings).passAll readings).fader f =
      s.surface.cfg.passed readings f (s.fader f) := (done f).1
  have kept (f : Slot) := s.surface.cfg.passed_kept readings f (s.fader f)
  refine ⟨_, exec_passEnd awake readings, ?_, ?_, ?_, fun f => ?_, fun c => ⟨frame.chan c, fun idle => ?_⟩,
    fun agreed f c holds => ?_, fun mode f r hr => ?_, fun mode f x y a b hx hy ha hb => ?_⟩
  · have whole := frame.whole
    rwa [← frame.sample.events] at whole
  · rw [frame.surface]
    rfl
  · rw [frame.surface]
    rfl
  · rw [passed]
    exact kept f
  · exact State.passAll_idle (s := s.passRead readings) readings idle
  · have agreed' : (s.passRead readings).HandsAgree := agreed.of_same rfl rfl fun _ _ => Iff.rfl
    obtain ⟨state, mapping, -⟩ := kept f
    refine (State.handsAgree_iff.mp (agreed'.passAll _ readings)).1.level f c ?_
    rw [State.Holds, passed]
    exact ⟨state.trans holds.1, mapping.trans holds.2⟩
  · rw [passed, SurfaceConfig.passed_sequential mode, hr]
    exact Fader.judged_position _ _ _
  · have lower : f.val < 8 := by omega
    have wipers : wipersOf readings f = (a, b) := by rw [wipersOf_eq hx hy, ha, hb]
    refine ⟨fun same => ?_, fun different => ?_⟩
    · rw [passed, SurfaceConfig.passed_agrees mode lower wipers (agree_iff.mpr same)]
      exact ⟨rfl, Fader.judged_position _ _ _⟩
    · have apart := Bool.eq_false_of_not_eq_true (mt agree_iff.mp different)
      rw [passed, SurfaceConfig.passed_apart mode lower wipers apart]
      refine ⟨rfl, rfl, fun clear => (done f).2 ⟨mode, lower, ?_, clear⟩⟩
      rw [wipers]
      exact apart

end Sys2Proof.Machine
end

section
/-!
PROOF. A slot is brought up to date from a bank, and so is every slot in its turn (R135, R136).
-/

namespace Sys2Proof.Machine

/-! ### One slot -/

/-- What bringing slot `f` up to date from the bank's slot `m` leaves: a held or blocked fader its mapping, with `m`
pending where it differs; a FREE one `m` at once, taken over where that changes to a channel under an active touch
line (R135, R136). -/
structure State.SlotApplied (s t : State) (f : Slot) (m : Option Chan) : Prop where
  position : (t.fader f).position = (s.fader f).position
  disagree : (t.fader f).disagree = (s.fader f).disagree
  busy : (s.fader f).state ≠ .free → (t.fader f).state = (s.fader f).state ∧
    (t.fader f).mapping = (s.fader f).mapping ∧
      (t.fader f).pending = if m = (s.fader f).mapping then none else some m
  free : (s.fader f).state = .free → (t.fader f).mapping = m ∧ (t.fader f).pending = none ∧
    (m = none ∨ m = (s.fader f).mapping ∨ (s.surface.touch.get f).qualified = false → (t.fader f).state = .free) ∧
      ∀ c, m = some c → m ≠ (s.fader f).mapping → (s.surface.touch.get f).qualified = true →
        s.Taken t f c (s.fader f).position

section
variable {s t u : State} {f : Slot} {m : Option Chan}

/-- The state before has the same fader, touch line and channel. -/
theorem State.SlotApplied.of_before (h : t.SlotApplied u f m) (fader : t.fader f = s.fader f)
    (touch : t.surface.touch = s.surface.touch) (chan : ∀ c, m = some c → t.chan c = s.chan c) :
    s.SlotApplied u f m := by
  obtain ⟨position, disagree, busy, free⟩ := h
  rw [fader] at position disagree busy free
  rw [touch] at free
  refine ⟨position, disagree, busy, fun idle => ?_⟩
  obtain ⟨mapping, pending, still, taken⟩ := free idle
  refine ⟨mapping, pending, still, fun c hc other touched => ?_⟩
  have := taken c hc other touched
  rwa [State.Taken, chan c hc] at this

/-- The state behind has the same fader and channel, and raises no less. -/
theorem State.SlotApplied.of_after (h : s.SlotApplied t f m) (fader : u.fader f = t.fader f)
    (chan : ∀ c, m = some c → u.chan c = t.chan c) (flags : t.Keeps u) : s.SlotApplied u f m := by
  obtain ⟨position, disagree, busy, free⟩ := h
  rw [← fader] at position disagree busy free
  refine ⟨position, disagree, busy, fun idle => ?_⟩
  obtain ⟨mapping, pending, still, taken⟩ := free idle
  refine ⟨mapping, pending, still, fun c hc other touched => ?_⟩
  obtain ⟨blocked, holding⟩ := taken c hc other touched
  rw [State.Taken, fader, chan c hc]
  refine ⟨fun h held => ?_, holding⟩
  obtain ⟨state, raised, hand⟩ := blocked h held
  exact ⟨state, flags _ raised, hand⟩

theorem State.SlotApplied.mapFree (idle : (s.fader f).state = .free) (m : Option Chan) :
    s.SlotApplied (s.mapFree f m) f m := by
  have v_fader := s.setFader_fader_self f { s.fader f with mapping := m, pending := none }
  by_cases taken : s.TakesOver f m
  · rw [State.mapFree_taken taken]
    have behind := (s.setFader f { s.fader f with mapping := m, pending := none }).takeTouch_fader f
    rw [v_fader] at behind
    refine ⟨by rw [behind], by rw [behind], fun busy => absurd idle busy, fun _ =>
      ⟨by rw [behind], by rw [behind], fun still => ?_, fun c hc _ _ => ?_⟩⟩
    · rcases still with unmapped | same | idle_line
      · rw [State.takeTouch_unmapped (by rw [v_fader]; exact unmapped), v_fader]
        exact idle
      · exact absurd same taken.1
      · exact absurd (idle_line.symm.trans taken.2) Bool.false_ne_true
    · have := State.takeTouch_taken (s := s.setFader f { s.fader f with mapping := m, pending := none }) (f := f)
        (c := c) (by rw [v_fader]; exact hc)
      rwa [v_fader] at this
  · rw [State.mapFree_still taken]
    refine ⟨by rw [v_fader], by rw [v_fader], fun busy => absurd idle busy, fun _ =>
      ⟨by rw [v_fader], by rw [v_fader], fun _ => by rw [v_fader]; exact idle, fun c _ other touched => ?_⟩⟩
    exact absurd ⟨other, touched⟩ taken

theorem State.SlotApplied.applySlot (s : State) (f : Slot) (m : Option Chan) :
    s.SlotApplied (s.applySlot f m) f m := by
  have pends : (s.fader f).state ≠ .free → s.SlotApplied (s.setFader f
      { s.fader f with pending := if m = (s.fader f).mapping then none else some m }) f m := fun busy => by
    refine ⟨?_, ?_, fun _ => ?_, fun idle => absurd idle busy⟩ <;> rw [State.setFader_fader_self]
    exact ⟨rfl, rfl, rfl⟩
  unfold State.applySlot
  split
  · exact mapFree ‹_› m
  · exact pends (by rw [‹(s.fader f).state = _›]; decide)
  · exact pends (by rw [‹(s.fader f).state = _›]; decide)

end

/-! ### Slot after slot -/

/-- Operations that agree where `P` holds, which they keep, run alike. -/
theorem foldl_congr_of {α : Type} {P : State → Prop} {f g : State → α → State}
    (keeps : ∀ t a, P t → P (g t a)) (same : ∀ t a, P t → f t a = g t a) (l : List α) {s : State} (hs : P s) :
    l.foldl f s = l.foldl g s := by
  induction l generalizing s with
  | nil => rfl
  | cons a l ih =>
    rw [List.foldl_cons, List.foldl_cons, same s a hs]
    exact ih (keeps s a hs)

/-- A slot that has no turn keeps its fader. -/
theorem foldl_fader_of_not_mem {op : State → Slot → State}
    (other : ∀ t f g, g ≠ f → (op t f).fader g = t.fader g) {l : List Slot} {g : Slot} (out : g ∉ l) (s : State) :
    (l.foldl op s).fader g = s.fader g := by
  induction l generalizing s with
  | nil => rfl
  | cons f l ih =>
    obtain ⟨ne, out⟩ := not_or.mp (mt List.mem_cons.mpr out)
    rw [List.foldl_cons, ih out, other s f g ne]

section
variable {s : State} {op : State → Slot → State} {before : Slot → State} {m : Slot → Option Chan} {l : List Slot}
  (frame : ∀ t f, s.UnitFrame t → State.SlotFrame f (s.Takes f (m f)) t (op t f))
  (apart : ∀ f g, f ≠ g → m f ≠ none → m f ≠ m g)
  (turn : ∀ t f, s.UnitFrame t → t.fader f = s.fader f → (∀ c, m f = some c → t.chan c = s.chan c) →
    (before f).SlotApplied (op t f) f (m f))
include frame apart turn

/-- Slots that take what no other slot takes: each one's turn leaves the other slots their channels. -/
theorem State.slots_turns :
    Turns (fun t => s.UnitFrame t ∧ ∀ c, (∀ f ∈ l, ¬ s.Takes f (m f) c) → t.chan c = s.chan c)
      (fun t f => f ∈ l ∧ t.fader f = s.fader f ∧ ∀ c, m f = some c → t.chan c = s.chan c)
      (fun t f => (before f).SlotApplied t f (m f)) op := by
  have own {t : State} {a b : Slot} (unit : s.UnitFrame t) (ne : a ≠ b) (c : Chan) (hc : m b = some c) :
      (op t a).chan c = t.chan c :=
    (frame t a unit).other c fun taken => apart b a ne.symm (by rw [hc]; exact Option.some_ne_none c)
      (hc.trans taken.1.symm)
  refine ⟨fun ⟨unit, idle⟩ ⟨mem, _⟩ => ⟨unit.trans (frame _ _ unit).toUnitFrame, fun c untaken => ?_⟩,
    fun ⟨unit, _⟩ ⟨_, fader, chan⟩ => turn _ _ unit fader chan,
    fun ⟨unit, _⟩ _ ne ⟨mem, fader, chan⟩ => ⟨mem, ((frame _ _ unit).fader _ ne.symm).trans fader,
      fun c hc => (own unit ne c hc).trans (chan c hc)⟩,
    fun ⟨unit, _⟩ _ ne done => done.of_after ((frame _ _ unit).fader _ ne.symm) (own unit ne) (frame _ _ unit).flags⟩
  exact ((frame _ _ unit).other c (untaken _ mem)).trans (idle c untaken)

theorem State.slots_applied (once : l.Nodup) :
    s.UnitFrame (l.foldl op s) ∧ (∀ c, (∀ f ∈ l, ¬ s.Takes f (m f) c) → (l.foldl op s).chan c = s.chan c) ∧
      ∀ f ∈ l, (before f).SlotApplied (l.foldl op s) f (m f) := by
  obtain ⟨⟨unit, idle⟩, done⟩ := (slots_turns frame apart turn).foldl once
    ⟨State.UnitFrame.refl s, fun _ _ => rfl⟩ fun f mem => ⟨mem, rfl, fun _ _ => rfl⟩
  exact ⟨unit, idle, done⟩

end

/-! ### A bank is applied (R135, R136) -/

section
variable {s : State}

theorem State.UnitFrame.bankSlot {t : State} (h : s.UnitFrame t) (f : Slot) : t.bankSlot f = s.bankSlot f := by
  rw [State.bankSlot, h.surface]
  rfl

theorem State.UnitFrame.slotUsed {t : State} (h : s.UnitFrame t) (f : Slot) : t.slotUsed f = s.slotUsed f := by
  rw [State.slotUsed, h.surface]
  rfl

theorem State.UnitFrame.touch {t : State} (h : s.UnitFrame t) : t.surface.touch = s.surface.touch := by
  rw [h.surface]

/-- The slots in use are brought up to date, each from its own slot of the bank. -/
theorem State.applyBank_eq (s : State) :
    s.applyBank = (allSlots.filter s.slotUsed).foldl (fun t f => t.applySlot f (s.bankSlot f)) s := by
  rw [List.foldl_filter]
  refine foldl_congr_of (P := s.UnitFrame) (fun t f unit => ?_) (fun t f unit => ?_) _ (.refl s)
  · split
    · exact unit.trans (SlotFrame.applySlot t f _).toUnitFrame
    · exact unit
  · rw [unit.slotUsed, unit.bankSlot]

theorem State.Takes.frame {t : State} (unit : s.UnitFrame t) {f : Slot} {m : Option Chan} (c : Chan)
    (h : t.Takes f m c) : s.Takes f m c := by rwa [State.Takes, unit.touch] at h

/-- The active bank is applied: every slot in use from its own slot. -/
theorem State.applyBank_applied (distinct : ∀ f g, f ≠ g → s.bankSlot f ≠ none → s.bankSlot f ≠ s.bankSlot g) :
    s.BankApplied s.applyBank (s.surface.banks.get s.surface.activeBank) := by
  have mem {f : Slot} (used : s.slotUsed f = true) : f ∈ allSlots.filter s.slotUsed :=
    List.mem_filter.mpr ⟨mem_allSlots f, used⟩
  have slots := State.slots_applied (op := fun t f => t.applySlot f (s.bankSlot f)) (before := fun _ => s)
    (m := s.bankSlot) (l := allSlots.filter s.slotUsed)
    (fun t f unit => (SlotFrame.applySlot t f (s.bankSlot f)).mono (Takes.frame unit)) distinct
    (fun t f unit fader chan => (SlotApplied.applySlot t f _).of_before fader unit.touch chan)
    (allSlots_nodup.filter _)
  rw [← State.applyBank_eq] at slots
  obtain ⟨unit, untaken, applied⟩ := slots
  have unused {f : Slot} (spare : s.slotUsed f = false) : s.applyBank.fader f = s.fader f := by
    rw [State.applyBank_eq]
    refine foldl_fader_of_not_mem (fun t f g ne => (SlotFrame.applySlot t f _).fader g ne) (fun listed => ?_) s
    exact Bool.false_ne_true (spare.symm.trans (List.mem_filter.mp listed).2)
  refine ⟨unit.chan, fun c free => untaken c fun f listed taken => ?_, fun f => ?_⟩
  · exact free f (List.mem_filter.mp listed).2 taken.2 taken.1
  · cases used : s.slotUsed f with
    | false => exact ⟨by rw [unused used], by rw [unused used], fun _ => unused used, nofun, nofun⟩
    | true =>
      obtain ⟨position, disagree, busy, free⟩ := applied f (mem used)
      exact ⟨position, disagree, nofun, fun _ => busy, fun _ => free⟩

end

end Sys2Proof.Machine
end

section
/-!
PROOF. O46: the requests of the fader surface (R133 to R136, R146).
-/

namespace Sys2Proof.Machine

/-! ### A change of mode, slot by slot (R146) -/

section
variable {s : State}

/-- Slots 1 to 8 lose their disagreement flags alone. -/
theorem State.modeChanged_lower (s : State) {f : Slot} (lower : f.val < 8) :
    s.modeChanged.fader f = { s.fader f with disagree := false } := by
  have out : f ∉ upperSlots := fun upper => absurd (mem_upperSlots.mp upper) (Nat.not_le.mpr lower)
  rw [← s.cleared_fader]
  cases mode : s.surface.cfg.mode with
  | paired =>
    rw [State.modeChanged_paired mode]
    exact foldl_fader_of_not_mem (fun t f g ne => by rw [State.retireSlot_fader, if_neg ne.symm]) out _
  | sequential =>
    rw [State.modeChanged_sequential mode]
    exact foldl_fader_of_not_mem (fun t f g ne => (SlotFrame.reviveSlot t f).fader g ne) out _

/-- A change of mode leaves an arm that awaits no firing (R74). -/
theorem State.modeChanged_arm (quiet : ∀ id, s.seq.arm ≠ .await id) : s.modeChanged.seq.arm = s.seq.arm := by
  cases mode : s.surface.cfg.mode with
  | paired =>
    rw [State.modeChanged_paired mode]
    refine foldl_closed (P := fun t => t.seq.arm = s.seq.arm) _ (fun t f same => ?_) upperSlots s.cleared rfl
    exact (State.releaseFader_arm (by rw [same]; exact quiet)).trans same
  | sequential =>
    rw [State.modeChanged_sequential mode, (State.UnitFrame.foldl _
      (fun t f => (SlotFrame.reviveSlot t f).toUnitFrame) upperSlots s.cleared).whole]
    rfl

/-- Slot `f` has gone out of use, and the channel that its fader held has been handed back (R139, R140, R146). -/
def State.Retired (s t : State) (f : Slot) : Prop :=
  t.fader f = Fader.fresh none ∧
    ∀ c, s.Holds f c → t.chan c = (s.chan c).handed (faderLaw (s.fader f).position)

/-- Each slot goes out of use at its own turn, with its hand as the change of mode found it. -/
theorem State.HandsMatch.retire_turns (h : s.HandsMatch) :
    Turns (fun t => ∀ c, (∀ f : Slot, 8 ≤ f.val → ¬ s.Holds f c) → t.chan c = s.chan c)
      (fun t f => 8 ≤ f.val ∧ t.fader f = s.fader f ∧ ∀ c, s.Holds f c → t.chan c = s.chan c) s.Retired
      (fun t f => t.retireSlot f) where
  keeps {t a} idle := fun ⟨upper, fader, _⟩ c free =>
    (State.releaseFader_chan_other fun holds => free a upper (holds.of_fader fader.symm)).trans (idle c free)
  turn {t a} _ := fun ⟨_, fader, chan⟩ => by
    refine ⟨by rw [State.retireSlot_fader, if_pos rfl], fun c holds => ?_⟩
    have held := h.level a c holds
    rw [← chan c holds] at held ⊢
    exact State.releaseFader_chan_holds (holds.of_fader fader) held
  ready {t a b} _ := fun ⟨_, fader, _⟩ ne ⟨upper, fader', chan⟩ =>
    ⟨upper, by rw [State.retireSlot_fader, if_neg ne]; exact fader', fun c holds =>
      (State.releaseFader_chan_other fun k =>
        ne (h.alone a b c (k.of_fader fader.symm) holds)).trans (chan c holds)⟩
  done {t a b} _ := fun ⟨_, fader, _⟩ ne ⟨fresh, handed⟩ =>
    ⟨by rw [State.retireSlot_fader, if_neg ne]; exact fresh, fun c holds =>
      (State.releaseFader_chan_other fun k =>
        ne (h.alone a b c (k.of_fader fader.symm) holds)).trans (handed c holds)⟩

/-- Slots 9 to 16 go out of use, and no channel but those held there is reached. -/
theorem State.HandsMatch.modeChanged_retires (h : s.HandsMatch) (mode : s.surface.cfg.mode = .paired) :
    (∀ f : Slot, 8 ≤ f.val → s.Retired s.modeChanged f) ∧
      ∀ c, (∀ f : Slot, 8 ≤ f.val → ¬ s.Holds f c) → s.modeChanged.chan c = s.chan c := by
  have holds_iff (f : Slot) (c : Chan) : s.cleared.Holds f c ↔ s.Holds f c := by
    rw [State.Holds, s.cleared_fader]
    rfl
  obtain ⟨idle, retired⟩ := h.cleared.retire_turns.foldl upperSlots_nodup (fun _ _ => rfl) fun f upper =>
    ⟨mem_upperSlots.mp upper, rfl, fun _ _ => rfl⟩
  rw [State.modeChanged_paired mode]
  refine ⟨fun f upper => ?_, fun c free => idle c fun f upper => mt (holds_iff f c).mp (free f upper)⟩
  obtain ⟨fresh, handed⟩ := retired f (mem_upperSlots.mpr upper)
  refine ⟨fresh, fun c holds => ?_⟩
  have back := handed c ((holds_iff f c).mpr holds)
  rwa [s.cleared_fader] at back

/-- Slots 9 to 16 come into use, each from its own slot of the active bank. -/
theorem State.modeChanged_revives (mode : s.surface.cfg.mode = .sequential)
    (distinct : ∀ f g, f ≠ g → s.bankSlot f ≠ none → s.bankSlot f ≠ s.bankSlot g) :
    (∀ c, (∀ f : Slot, 8 ≤ f.val → ¬ s.Takes f (s.bankSlot f) c) → s.modeChanged.chan c = s.chan c) ∧
      ∀ f : Slot, 8 ≤ f.val →
        (s.setFader f (Fader.fresh none)).SlotApplied s.modeChanged f (s.bankSlot f) := by
  have slots := State.slots_applied (op := fun t f => t.reviveSlot f) (s := s.cleared)
    (before := fun f => s.setFader f (Fader.fresh none)) (m := s.bankSlot) (l := upperSlots)
    (fun t f unit => (SlotFrame.reviveSlot t f).mono fun c taken => ?frame) distinct
    (fun t f unit _ chan => ?turn) upperSlots_nodup
  · rw [← State.modeChanged_sequential mode] at slots
    obtain ⟨-, untaken, applied⟩ := slots
    exact ⟨fun c free => untaken c fun f upper => free f (mem_upperSlots.mp upper),
      fun f upper => applied f (mem_upperSlots.mpr upper)⟩
  case frame =>
    rw [unit.bankSlot] at taken
    exact taken.frame unit c
  case turn =>
    have mapped : (t.setFader f (Fader.fresh none)).SlotApplied (t.reviveSlot f) f (s.bankSlot f) := by
      rw [State.reviveSlot, unit.bankSlot]
      exact .mapFree (by rw [State.setFader_fader_self]; rfl) _
    exact mapped.of_before (by rw [State.setFader_fader_self, State.setFader_fader_self]) unit.touch chan

end

/-! ### What the requests carry -/

theorem ScanMode.ofCode_code (m : ScanMode) : ScanMode.ofCode m.code = some m := by cases m <;> rfl

theorem ScanMode.ofCode_eq_none {b : Byte} (h : 1 < b.toNat) : ScanMode.ofCode b = none := by
  unfold ScanMode.ofCode
  split
  · omega
  · omega
  · rfl

theorem parseSurfaceSetup_settings {k : SurfaceConfig} (period : k.period < 256) (hysteresis : k.hysteresis < 256)
    (tolerance : k.tolerance < 256) (qualify : k.qualify < 256) :
    parseSurfaceSetup (surfaceSettings k) =
      some ⟨k.mode.code, k.period, k.hysteresis, k.tolerance, k.qualify⟩ := by
  rw [surfaceSettings, parseSurfaceSetup, toNat_byte period, toNat_byte hysteresis, toNat_byte tolerance,
    toNat_byte qualify]

theorem bankOf_eq_none {b : Byte} (h : b.toNat = 0 ∨ 8 < b.toNat) : bankOf b = none :=
  dif_neg (by omega)

theorem slotOf_chanField (m : Option Chan) : slotOf (chanField m) = some m := by
  cases m with
  | none => rfl
  | some c =>
    have number := toNat_byte (v := c.val + 1) (by omega)
    rw [chanField, slotOf, if_neg (by omega), chanOf_byte]

theorem slotOf_eq_none {b : Byte} (h : 56 < b.toNat) : slotOf b = none := by
  rw [slotOf, if_neg (by omega), chanOf_eq_none.mpr (.inr h)]

theorem bankOfSlots_fields (b : Bank) : bankOfSlots (b.map chanField) = some b := by
  have known : (b.map chanField).data.all (fun x => (slotOf x).isSome) = true := by
    simp [Tab.map, slotOf_chanField]
  have read : (b.map chanField).map (fun x => (slotOf x).getD none) = b :=
    Tab.ext_get fun i => by rw [Tab.get_map, Tab.get_map, slotOf_chanField, Option.getD_some]
  rw [bankOfSlots, if_pos known, read]

theorem bankOfSlots_unknown {t : Tab 16 Byte} {b : Byte} (mem : b ∈ t.data) (high : 56 < b.toNat) :
    bankOfSlots t = none := by
  refine if_neg fun known => ?_
  have := List.all_eq_true.mp known b mem
  rw [slotOf_eq_none high] at this
  cases this

theorem parseBankPut_body (k : Byte) (t : Tab 16 Byte) : parseBankPut (k :: t.data) = some ⟨k, t⟩ := dif_pos t.size

theorem parseBankPut_bankBytes (k : Byte) (b : Bank) :
    parseBankPut (k :: bankBytes b) = some ⟨k, b.map chanField⟩ := parseBankPut_body k (b.map chanField)

/-! ### SURFACE_SETUP -/

/-- The surface configuration brought into its ranges (R146). -/
def SurfaceConfig.clamped (k : SurfaceConfig) : SurfaceConfig :=
  { mode := k.mode, period := clampNat 1 8 k.period, hysteresis := min k.hysteresis 15
    tolerance := min k.tolerance 63, qualify := clampNat 1 15 k.qualify }

theorem SurfaceConfig.clamped_changes (k : SurfaceConfig) :
    (k.clamped.period != k.period || k.clamped.hysteresis != k.hysteresis || k.clamped.tolerance != k.tolerance ||
      k.clamped.qualify != k.qualify) = false ↔ k = k.clamped := by
  obtain ⟨mode, period, hysteresis, tolerance, qualify⟩ := k
  simp only [SurfaceConfig.clamped, Bool.or_eq_false_iff, bne_eq_false_iff_eq, SurfaceConfig.mk.injEq, true_and,
    and_assoc]
  rw [eq_comm (a := period), eq_comm (a := hysteresis), eq_comm (a := tolerance), eq_comm (a := qualify)]

/-- The surface under a newly written configuration (R146). -/
def State.configured (s : State) (k : SurfaceConfig) : State := s.setSurface { s.surface with cfg := k }

/-- What a SURFACE_SETUP of configuration `k` leaves of the part (R146). -/
def State.surfaceSetUp (s : State) (k : SurfaceConfig) : State :=
  if k.mode = s.surface.cfg.mode then s.configured k else (s.configured k).modeChanged.settledFrom s

theorem State.surfaceSetUp_link (s : State) (k : SurfaceConfig) : (s.surfaceSetUp k).link = s.link := by
  unfold State.surfaceSetUp
  split
  · rfl
  · exact (State.ShowFrame.settledFrom _ s).link.trans (State.modeChanged_link _)

theorem State.surfaceSetUp_changed {s : State} {k : SurfaceConfig} (other : k.mode ≠ s.surface.cfg.mode)
    (quiet : ∀ id, s.seq.arm ≠ .await id) : s.surfaceSetUp k = (s.configured k).modeChanged := by
  rw [State.surfaceSetUp, if_neg other, State.settledFrom_same_arm]
  exact State.modeChanged_arm (s := s.configured k) quiet

theorem exec_surfaceSetup {s : State} (h : s.Open) {k : SurfaceConfig} (period : k.period < 256)
    (hysteresis : k.hysteresis < 256) (tolerance : k.tolerance < 256) (qualify : k.qualify < 256) :
    exec (.surfaceSetup .own (surfaceSettings k)) s = .next ((s.heard.surfaceSetUp k.clamped).replying 0x48
      (if k = k.clamped then .ok else .okClamped) (surfaceSettings k.clamped)) := by
  refine State.request_replies h (parseSurfaceSetup_settings period hysteresis tolerance qualify) ?_
  rw [serveSurfaceSetup, ScanMode.ofCode_code, ← Result.applied_of_iff k.clamped_changes]
  rfl

/-! ### BANK_PUT and BANK_SELECT -/

/-- Bank `k` takes the place of the one of its number, and is applied when it is the active one (R134). -/
def State.bankPut (s : State) (k : Fin 8) (b : Bank) : State :=
  let t := s.setSurface { s.surface with banks := s.surface.banks.set k b }
  if k = s.surface.activeBank then t.applyBank else t

/-- Bank `k` becomes the active one (R135). -/
def State.bankSelected (s : State) (k : Fin 8) : State :=
  (s.setSurface { s.surface with activeBank := k }).applyBank

theorem State.bankPut_link (s : State) (k : Fin 8) (b : Bank) : (s.bankPut k b).link = s.link := by
  unfold State.bankPut
  dsimp only
  split
  · exact State.applyBank_link _
  · rfl

theorem State.bankSelected_link (s : State) (k : Fin 8) : (s.bankSelected k).link = s.link := State.applyBank_link _

theorem exec_bankPut {s : State} (h : s.Open) (k : Fin 8) {b : Bank} (distinct : slotsRepeat b.data = false) :
    exec (.bankPut .own (byte (k.val + 1) :: bankBytes b)) s = .next ((s.heard.bankPut k b).replying 0x49 .ok
      (bankBytes b ++ [byte (s.heard.bankPut k b).pendingFaders])) := by
  refine State.request_replies h (parseBankPut_bankBytes _ b) ?_
  rw [serveBankPut, bankOf_byte, bankOfSlots_fields]
  dsimp only
  rw [if_neg (by rw [distinct]; exact Bool.false_ne_true)]
  rfl

theorem exec_bankPut_duplicate {s : State} (h : s.Open) (k : Fin 8) {b : Bank} (twice : slotsRepeat b.data = true) :
    exec (.bankPut .own (byte (k.val + 1) :: bankBytes b)) s = .next (s.answeredBare 0x49 .duplicate) := by
  refine State.request_refuses h (parseBankPut_bankBytes _ b) ?_
  rw [serveBankPut, bankOf_byte, bankOfSlots_fields]
  exact if_pos twice

theorem exec_bankPut_badField {s : State} (h : s.Open) (k : Byte) (t : Tab 16 Byte)
    (unknown : bankOf k = none ∨ bankOfSlots t = none) :
    exec (.bankPut .own (k :: t.data)) s = .next (s.answeredBare 0x49 .badField) := by
  refine State.request_refuses h (parseBankPut_body k t) ?_
  unfold serveBankPut
  split
  · rename_i number slots
    rcases unknown with none | none
    · cases number.symm.trans none
    · cases slots.symm.trans none
  · rfl

theorem exec_bankSelect {s : State} (h : s.Open) (k : Fin 8) : exec (.bankSelect .own [byte (k.val + 1)]) s =
    .next ((s.heard.bankSelected k).replying 0x4A .ok
      [byte (k.val + 1), byte (s.heard.bankSelected k).pendingFaders]) := by
  refine State.request_replies h (parsed := parseByte [byte (k.val + 1)]) rfl ?_
  rw [serveBankSelect, bankOf_byte]
  rfl

/-! ### The requests settled -/

/-- What a request leaves, but for the link that has heard it. -/
theorem State.heard_setLink {s r : State} (h : r.link = s.heard.link) : (r.setLink s.link).heard = r := by
  show r.setLink s.heard.link = r
  rw [← h]
  rfl

/-- Under the active bank the surface unit alone is at work, but for the bank itself. -/
theorem State.applied_whole {s t : State} {x : Surface} (unit : (s.heard.setSurface x).UnitFrame t) :
    t.setLink s.link = ((s.setSurface { x with faders := t.surface.faders }).setChannels t.channels).setEvents
      t.events := by
  have whole := unit.whole
  rw [← unit.sample.events, unit.surface] at whole
  rw [whole]
  rfl

section
variable {s : State}

/-- A new configuration in the mode in force. -/
theorem State.surfaceSetUp_same {k : SurfaceConfig} (same : k.mode = s.surface.cfg.mode) :
    s.surfaceSetUp k = s.configured k := if_pos same

theorem State.bankPut_other {k : Fin 8} (other : k ≠ s.surface.activeBank) (b : Bank) :
    s.bankPut k b = s.setSurface { s.surface with banks := s.surface.banks.set k b } := if_neg other

theorem State.UnitFrame.bankPut (s : State) (k : Fin 8) (b : Bank) :
    (s.setSurface { s.surface with banks := s.surface.banks.set k b }).UnitFrame (s.bankPut k b) := by
  unfold State.bankPut
  dsimp only
  split
  · exact applyBank _
  · exact refl _

/-- The active bank that is written is applied (R134). -/
theorem State.bankPut_active {k : Fin 8} (active : k = s.surface.activeBank) {b : Bank}
    (distinct : ∀ f g, f ≠ g → b.get f ≠ none → b.get f ≠ b.get g) : s.BankApplied (s.bankPut k b) b := by
  have stands : (s.surface.banks.set k b).get s.surface.activeBank = b := by rw [← active, Tab.get_set_self]
  have slot (f : Slot) : (s.setSurface { s.surface with banks := s.surface.banks.set k b }).bankSlot f = b.get f :=
    congrArg (Tab.get · f) stands
  have applied := State.applyBank_applied (s := s.setSurface { s.surface with banks := s.surface.banks.set k b })
    fun f g => by rw [slot, slot]; exact distinct f g
  rw [State.bankPut, if_pos active]
  rw [State.setSurface_surface, stands] at applied
  exact applied

/-- The bank that becomes active is applied (R135). -/
theorem State.bankSelected_applied (h : s.BanksDistinct) (k : Fin 8) :
    s.BankApplied (s.bankSelected k) (s.surface.banks.get k) :=
  State.applyBank_applied (s := s.setSurface { s.surface with activeBank := k }) (h k)

/-- A held channel that goes out of use with its slot is handed back at its own H. -/
theorem State.Retired.handed {t : State} {f : Slot} {c : Chan} {h : Int} (retired : s.Retired t f)
    (agree : s.HandsMatch) (holds : s.Holds f c) (held : (s.chan c).hand = .held h) :
    t.chan c = (s.chan c).handed h := by
  obtain ⟨-, back⟩ := retired
  rw [back c holds, Hand.held.inj ((agree.level f c holds).symm.trans held)]

/-- A slot that has come into use stands at position 0 with its slot of the bank (R146). -/
theorem State.SlotApplied.revived {t : State} {f : Slot} {m : Option Chan}
    (h : (s.setFader f (Fader.fresh none)).SlotApplied t f m) :
    (t.fader f).position = 0 ∧ (t.fader f).disagree = false ∧ (t.fader f).mapping = m ∧
      (t.fader f).pending = none ∧
      (m = none ∨ (s.surface.touch.get f).qualified = false → (t.fader f).state = .free) ∧
        ∀ c, m = some c → (s.surface.touch.get f).qualified = true → s.Taken t f c 0 := by
  obtain ⟨position, disagree, -, free⟩ := h
  rw [State.setFader_fader_self] at position disagree free
  obtain ⟨mapping, pending, still, taken⟩ := free rfl
  refine ⟨position, disagree, mapping, pending, fun h => still (h.imp_right .inr), fun c hc => taken c hc ?_⟩
  rw [hc]
  exact Option.some_ne_none c

end

/-- Settles O46: what each request leaves of the part that has heard it, slot by slot. -/
theorem surfaceRequests : Obligations.SurfaceRequests := by
  refine ⟨fun s ready distinct => ⟨?setup, ?put, fun k => ?select⟩, fun s ready =>
    ⟨fun m a b c d high => ?mode, fun k slots size unknown => ?bank, fun k b twice => ?twice, fun k unknown => ?number⟩⟩
  case setup =>
    rintro k _ period hysteresis tolerance qualify rfl
    refine ⟨(s.heard.surfaceSetUp k.clamped).setLink s.link, ?_, fun same => ?_, fun other agree quiet => ?_⟩
    · rw [State.heard_setLink (State.surfaceSetUp_link _ _)]
      exact exec_surfaceSetup ready period hysteresis tolerance qualify
    · rw [State.surfaceSetUp_same (s := s.heard) (k := k.clamped) same]
      rfl
    · obtain ⟨hands, -⟩ := State.handsAgree_iff.mp agree
      have hands : (s.heard.configured k.clamped).HandsMatch :=
        hands.of_same (fun _ => ⟨rfl, rfl, rfl⟩) fun _ _ => Iff.rfl
      rw [State.surfaceSetUp_changed (s := s.heard) (k := k.clamped) other quiet]
      refine ⟨(State.SampleFrame.modeChanged (s.heard.configured k.clamped)).surface,
        fun f lower => State.modeChanged_lower _ lower, fun mode => ?_, fun mode => ?_⟩
      · obtain ⟨retired, idle⟩ := hands.modeChanged_retires mode
        exact ⟨fun f upper => (retired f upper).1, fun c =>
          ⟨fun f h upper holds held => (retired f upper).handed hands holds held, idle c⟩⟩
      · obtain ⟨untaken, revived⟩ := State.modeChanged_revives (s := s.heard.configured k.clamped) mode (distinct _)
        exact ⟨fun f upper => (revived f upper).revived, fun c free =>
          untaken c fun f upper taken => free f upper taken.2 taken.1⟩
  case put =>
    intro k b apart
    refine ⟨(s.heard.bankPut k b).setLink s.link, ?_, ?_, fun other => ?_, fun active => ?_⟩
    · rw [State.heard_setLink (State.bankPut_link _ _ _)]
      exact exec_bankPut ready k (bank_distinct_iff.mpr apart)
    · exact State.applied_whole (State.UnitFrame.bankPut s.heard k b)
    · rw [State.bankPut_other (s := s.heard) other]
      rfl
    · exact State.bankPut_active (s := s.heard) active apart
  case select =>
    refine ⟨(s.heard.bankSelected k).setLink s.link, ?_, ?_, ?_⟩
    · rw [State.heard_setLink (State.bankSelected_link _ _)]
      exact exec_bankSelect ready k
    · exact State.applied_whole (State.UnitFrame.applyBank _)
    · exact State.bankSelected_applied (s := s.heard) distinct k
  case mode =>
    refine State.request_refuses ready (parsed := parseSurfaceSetup [m, a, b, c, d]) rfl ?_
    rw [serveSurfaceSetup, ScanMode.ofCode_eq_none high]
  case bank =>
    refine exec_bankPut_badField ready k ⟨slots, size⟩ ?_
    rcases unknown with zero | high | ⟨b, mem, high⟩
    · exact .inl (bankOf_eq_none (.inl zero))
    · exact .inl (bankOf_eq_none (.inr high))
    · exact .inr (bankOfSlots_unknown mem high)
  case twice =>
    refine exec_bankPut_duplicate ready k ?_
    obtain ⟨f, g, ne, mapped, same⟩ := twice
    by_contra distinct
    exact bank_distinct_iff.mp (Bool.eq_false_of_not_eq_true distinct) f g ne mapped same
  case number =>
    refine State.request_refuses ready (parsed := parseByte [k]) rfl ?_
    rw [serveBankSelect, bankOf_eq_none unknown]

end Sys2Proof.Machine
end

section
/-!
PROOF. Frames as they are sent: numbers read back from their bytes, the layout of a gain frame and of a surface
frame, bit by bit, and the examples written out from chapter 12 (R160, R161, R165, R169, R196, R198 to R200).
-/

namespace Sys2Proof.Machine

/-! ### Numbers in bytes (R196) -/

theorem foldl_bytesOf (n v acc : Nat) :
    (bytesOf n v).foldl (fun m b => m * 256 + b.toNat) acc = acc * 256 ^ n + v % 256 ^ n := by
  induction n generalizing acc with
  | zero => simp [bytesOf, Nat.mod_one]
  | succ n ih =>
    have split : v % 256 ^ (n + 1) = v % 256 ^ n + 256 ^ n * (v / 256 ^ n % 2 ^ 8) := Nat.mod_pow_succ
    rw [bytesOf, List.foldl_cons, ih, BitVec.toNat_ofNat, split]
    ring

/-- A number that fits its field is read back from it (R196). -/
theorem natOf_bytesOf {n v : Nat} (fits : v < 256 ^ n) : natOf (bytesOf n v) = v := by
  rw [natOf, foldl_bytesOf, Nat.zero_mul, Nat.zero_add, Nat.mod_eq_of_lt fits]

/-- A byte's bits go out from bit 7 down (R165). -/
theorem frameBits_getElem? (b : Byte) {j : Nat} (h : j < 8) :
    (frameBits b)[j]? = some (b.toNat.testBit (7 - j)) := by
  rw [frameBits, List.getElem?_map, List.getElem?_range h, Option.map_some, BitVec.getMsbD, decide_eq_true h,
    Bool.true_and, BitVec.testBit_toNat]

/-! ### Fields of one width in a row -/

section
variable {α β : Type} {f : α → List β} {w : Nat} (wide : ∀ a, (f a).length = w)
include wide

theorem take_drop_flatMap {l : List α} {k : Nat} {a : α} (found : l[k]? = some a) (rest : List β) :
    ((l.flatMap f ++ rest).drop (w * k)).take w = f a := by
  induction l generalizing k with
  | nil => cases found
  | cons b l ih =>
    rw [List.flatMap_cons, List.append_assoc]
    cases k with
    | zero =>
      obtain rfl : b = a := by simpa using found
      exact List.take_left' (wide b)
    | succ k =>
      rw [Nat.mul_succ, Nat.add_comm, ← List.drop_drop, List.drop_left' (wide b)]
      exact ih found

theorem getElem?_flatMap {l : List α} {k : Nat} {a : α} (found : l[k]? = some a) {j : Nat} (h : j < w) :
    (l.flatMap f)[w * k + j]? = (f a)[j]? := by
  rw [← take_drop_flatMap wide found [], List.append_nil, List.getElem?_take_of_lt h, List.getElem?_drop]

end

/-! ### Frames (R160, R161, R165, R169, R199, R200) -/

/-- The flag byte of a frame (R161). -/
def Frame.flagByte (f : Frame) : Byte := byte ((if f.safe then 1 else 0) + (if f.hold then 2 else 0))

theorem Frame.flagByte_bits (f : Frame) : f.flagByte.toNat.testBit 0 = f.safe ∧
    f.flagByte.toNat.testBit 1 = f.hold ∧ f.flagByte.toNat < 4 := by
  unfold Frame.flagByte
  cases f.safe <;> cases f.hold <;> decide

/-- A frame's bytes in their order: sync, count, flags, contents, CRC (R199). -/
theorem Frame.bytes_eq (f : Frame) : f.bytes =
    f.content.sync ++ (bytesOf 2 f.count ++ f.flagByte :: f.content.bytes) ++
      bytesOf 2 (crc16 f.covered).toNat := rfl

/-- The number that a slot entry is sent as (R199). -/
def SlotEntry.number (e : SlotEntry) : Nat :=
  (if e.drive then 32768 else 0) + (if e.tally then 16384 else 0) + e.target % 1024

theorem SlotEntry.number_lt (e : SlotEntry) : e.number < 65536 := by
  unfold SlotEntry.number
  split <;> split <;> omega

theorem Content.bytes_surface (slots : List SlotEntry) :
    (Content.surface slots).bytes = (slots.map SlotEntry.number).flatMap (bytesOf 2) :=
  (List.flatMap_map SlotEntry.number (bytesOf 2) (l := slots)).symm

/-- A frame whose contents are `n` numbers in fields of one width is laid out so. -/
theorem Frame.laidOut {f : Frame} {sync : Byte} {n width : Nat} {value : Nat → Nat} {numbers : List Nat}
    (opens : f.content.sync = [0x5A, sync]) (carries : f.content.bytes = numbers.flatMap (bytesOf width))
    (size : numbers.length = n) (reads : ∀ k, k < n → numbers[k]? = some (value k))
    (fits : ∀ v ∈ numbers, v < 256 ^ width) (count : f.count < 65536) : f.LaidOut sync n width value := by
  have long : f.content.bytes.length = width * n := by
    rw [carries, length_flatMap_of_const (bytesOf_length width), size, Nat.mul_comm]
  have covered : f.covered.length = 3 + width * n := by
    simp [Frame.covered, long]
    omega
  have bytes := f.bytes_eq
  rw [opens] at bytes
  exact {
    size := by simp [Frame.bytes, opens, covered]; omega
    sync := by rw [bytes]; rfl
    count := by rw [bytes]; exact natOf_bytesOf (n := 2) count
    flags := ⟨f.flagByte, by rw [bytes]; rfl, f.flagByte_bits⟩
    field := by
      intro k low
      have found := reads k low
      have skip : f.bytes.drop 5 = f.content.bytes ++ bytesOf 2 (crc16 f.covered).toNat := by
        rw [bytes]
        rfl
      rw [← List.drop_drop, skip, carries, take_drop_flatMap (bytesOf_length width) found]
      exact natOf_bytesOf (fits _ (List.mem_of_getElem? found))
    crc := by
      have skip : f.bytes.drop 2 = f.covered ++ bytesOf 2 (crc16 f.covered).toNat := by
        rw [bytes]
        rfl
      rw [show 5 + width * n = 2 + f.covered.length by omega, ← List.drop_drop, skip, List.drop_left, ← covered,
        List.take_left]
      exact natOf_bytesOf (n := 2) (crc16 f.covered).isLt
    bits := by simp [Frame.bits, frameBits, Nat.mul_comm]
    bit := fun i b found j low => by
      rw [Frame.bits, getElem?_flatMap (fun b => by simp [frameBits]) found low, frameBits_getElem? b low] }

/-- A gain frame of 64 words (R160, R199). -/
theorem Frame.laidOut_gain {f : Frame} {words : List Nat} (gain : f.content = .gain words)
    (size : words.length = 64) (fits : ∀ w ∈ words, w < 16777216) (count : f.count < 65536) :
    f.LaidOut 0xC3 64 3 fun k => words.getD k 0 := by
  refine Frame.laidOut (numbers := words) (by rw [gain]; rfl) (by rw [gain]; rfl) size (fun k low => ?_) fits count
  rw [List.getElem?_eq_getElem (by omega), List.getD_eq_getElem]

/-- A surface frame of 16 slot entries (R169, R199). -/
theorem Frame.laidOut_surface {f : Frame} {slots : List SlotEntry} {value : Nat → Nat}
    (surface : f.content = .surface slots) (size : slots.length = 16) (fits : ∀ e ∈ slots, e.target < 1024)
    (count : f.count < 65536) (reads : ∀ k e, slots[k]? = some e →
      value k = (if e.drive then 32768 else 0) + (if e.tally then 16384 else 0) + e.target) :
    f.LaidOut 0x3C 16 2 value := by
  refine Frame.laidOut (numbers := slots.map SlotEntry.number) (by rw [surface]; rfl)
    (by rw [surface, Content.bytes_surface]) (by rw [List.length_map, size]) (fun k low => ?_) ?_ count
  · have found : slots[k]? = some slots[k] := List.getElem?_eq_getElem (by omega)
    rw [List.getElem?_map, found, Option.map_some, reads k _ found, SlotEntry.number,
      Nat.mod_eq_of_lt (fits _ (List.getElem_mem _))]
  · intro v sent
    obtain ⟨e, -, rfl⟩ := List.mem_map.mp sent
    exact e.number_lt

/-! ### Examples written out (chapter 12) -/

/-- The gain frame of the examples: count 258, SAFE, words in slots 1 and 64. -/
def exampleGain : Frame :=
  { count := 258, safe := true, hold := false, content := .gain (1048576 :: List.replicate 62 0 ++ [3315888]) }

theorem exampleGain_laidOut : exampleGain.LaidOut 0xC3 64 3
    fun k => (1048576 :: List.replicate 62 0 ++ [3315888]).getD k 0 :=
  Frame.laidOut_gain rfl rfl (by decide +kernel) (by decide)

theorem exampleGain_bytes : exampleGain.bytes.take 8 = [0x5A, 0xC3, 0x01, 0x02, 0x01, 0x10, 0x00, 0x00] ∧
    (exampleGain.bytes.drop 8).take 186 = List.replicate 186 0 ∧
    (exampleGain.bytes.drop 194).take 3 = [0x32, 0x98, 0xB0] ∧
    exampleGain.bits.take 16 = [false, true, false, true, true, false, true, false,
      true, true, false, false, false, false, true, true] := by
  decide +kernel

/-- Settles O5: the messages and the frames by running the model, the fields by their layouts. -/
theorem formatExamples : Obligations.FormatExamples := by
  refine ⟨rfl, rfl, rfl, rfl, rfl, rfl, rfl, rfl, by decide +kernel, ?gain, by decide +kernel,
    fun n v => (fieldBytes_nat n v).symm, fun v => (fieldBytes_int2 v).symm, fun o => (ownerField_eq o).symm,
    rfl, rfl, rfl, rfl, rfl, rfl, rfl, rfl, rfl, rfl, rfl, rfl, rfl, rfl, rfl, rfl, fun _ _ _ => rfl, rfl, rfl⟩
  case gain =>
    rintro _ rfl
    exact ⟨exampleGain_laidOut.size, exampleGain_bytes⟩

end Sys2Proof.Machine
end

section
/-!
PROOF. The gain output lines: the end of a send, the pins of a line, OUTPUT_SETUP and ROUTE_PUT (R162, R163, R165,
R166, R169, R170).
-/

namespace Sys2Proof.Machine

/-! ### Sends and pins (R165, R166, R169) -/

theorem nextShift_eq (stage : Option Frame) (b : Nat) (ended : Shifting) : nextShift stage b ended =
    stage.map fun f => { frame := f, bitTime := b, left := (f.sendTime b : Nat) + min ended.left 0 } := by
  cases stage <;> rfl

theorem exec_sendEnd {s : State} (awake : s.resetLow = false) (l : OutLine) :
    exec (.sendEnd l) s = .next (s.sendEnd l) :=
  congrArg Host.Outcome.next (if_neg (ne_true_of_eq_false awake))

theorem State.sendEnd_gain {s : State} {n : GainNo} {h : Shifting} (sends : (s.output.lines.get n).shift = some h) :
    s.sendEnd (.gain n) = s.setOutput { s.output with
      lines := s.output.lines.set n
        { s.output.lines.get n with
          shift := nextShift (s.output.lines.get n).stage (s.bitTime n) h, stage := none } } := by
  rw [State.sendEnd, sends]

theorem State.sendEnd_surface {s : State} {h : Shifting} (sends : s.output.surfaceShift = some h) :
    s.sendEnd .surface = s.setOutput { s.output with
      surfaceShift := nextShift s.output.surfaceStage surfaceBitTime h, surfaceStage := none } := by
  rw [State.sendEnd, sends]

theorem State.sendEnd_gain_idle {s : State} {n : GainNo} (idle : (s.output.lines.get n).shift = none) :
    s.sendEnd (.gain n) = s := by
  rw [State.sendEnd, idle]

theorem State.sendEnd_surface_idle {s : State} (idle : s.output.surfaceShift = none) : s.sendEnd .surface = s := by
  rw [State.sendEnd, idle]

/-- The cycles since the start of a send are what its time has lost (R165). -/
theorem Shifting.since_eq {h : Shifting} {n : Nat}
    (left : h.left = (h.frame.sendTime h.bitTime : Nat) - (n : Nat)) : h.since = n := by
  unfold Shifting.since
  omega

theorem Shifting.carried (h : Shifting) : h.Carried (h.clock, h.data) := by
  refine ⟨fun k r within sending left => ?_, fun ended => ?_⟩
  · have since := h.since_eq left
    have period : (h.bitTime * k + r) / h.bitTime = k := by
      rw [Nat.mul_add_div (by omega), Nat.div_eq_of_lt within, Nat.add_zero]
    have phase : (h.bitTime * k + r) % h.bitTime = r := by rw [Nat.mul_add_mod, Nat.mod_eq_of_lt within]
    constructor
    · simp only [Shifting.clock, since, phase, sending, decide_true, Bool.true_and]
    · simp only [Shifting.data, since, period]
      cases h.frame.bits[k]? <;> simp
  · simp only [Shifting.clock, decide_eq_false (not_lt.mpr ended), Bool.false_and]

theorem linePins_carried {shift : Option Shifting} {h : Shifting} (sends : shift = some h) :
    h.Carried (linePins shift) := by
  rw [sends]
  exact h.carried

theorem linePins_idle {shift : Option Shifting} (idle : shift = none) : linePins shift = (false, false) := by
  rw [idle]
  rfl

/-! ### OUTPUT_SETUP (R170) -/

theorem parseOutputSetup_body (p : Byte) (t : Tab 4 Byte) :
    parseOutputSetup (p :: t.data) = some { period := p.toNat, dividers := t.map BitVec.toNat } :=
  match t with
  | ⟨[_, _, _, _], _⟩ => rfl

theorem parseOutputSetup_settings {k : OutputConfig} (period : k.period < 256)
    (dividers : ∀ n, k.dividers.get n < 256) :
    parseOutputSetup (outputSettings k) = some { period := k.period, dividers := k.dividers } := by
  have read : (k.dividers.map byte).map BitVec.toNat = k.dividers :=
    Tab.ext_get fun n => by rw [Tab.get_map, Tab.get_map, toNat_byte (dividers n)]
  refine (parseOutputSetup_body (byte k.period) (k.dividers.map byte)).trans ?_
  rw [read, toNat_byte period]

/-- A configuration of the unit, its dividers brought into their range (R165, R170). -/
def OutputConfig.clamped (k : OutputConfig) : OutputConfig :=
  { period := k.period, dividers := k.dividers.map (clampNat 3 255) }

theorem OutputConfig.eq_clamped {k c : OutputConfig} (fits : ∀ n, k.dividers.get n < 256)
    (period : c.period = k.period) (dividers : ∀ n, c.dividers.get n = max 3 (k.dividers.get n)) :
    c = k.clamped := by
  obtain ⟨cp, cd⟩ := c
  have same : cd = k.dividers.map (clampNat 3 255) := Tab.ext_get fun n => by
    have := fits n
    rw [dividers n, Tab.get_map, clampNat, Nat.min_eq_right (by omega)]
  rw [OutputConfig.clamped, ← same, ← period]

theorem OutputConfig.clamped_changes (k : OutputConfig) :
    (k.clamped.dividers != k.dividers) = false ↔ k = k.clamped := by
  obtain ⟨period, dividers⟩ := k
  simp only [OutputConfig.clamped, bne_eq_false_iff_eq, OutputConfig.mk.injEq, true_and]
  exact eq_comm

theorem exec_outputSetup {s : State} (h : s.Open) {k : OutputConfig}
    (period : k.period = 1 ∨ k.period = 2 ∨ k.period = 4 ∨ k.period = 8)
    (dividers : ∀ n, k.dividers.get n < 256) : exec (.outputSetup .own (outputSettings k)) s =
      .next ((s.setOutput { s.output with stored := k.clamped }).heard.replying 0x58
        (if k = k.clamped then .ok else .okClamped)
        (outputSettings k.clamped ++ [flag (decide (k.clamped ≠ s.output.inForce))])) := by
  have pending : (k.clamped != s.output.inForce) = decide (k.clamped ≠ s.output.inForce) := by
    rw [Bool.eq_iff_iff, bne_iff_ne, decide_eq_true_iff]
  refine State.request_replies h (parseOutputSetup_settings (by omega) dividers) ?_
  rw [serveOutputSetup, if_pos period, ← Result.applied_of_iff k.clamped_changes, ← pending]
  rfl

theorem exec_outputSetup_refused {s : State} (h : s.Open) {f : Byte} (a b c d : Byte)
    (other : ¬ (f.toNat = 1 ∨ f.toNat = 2 ∨ f.toNat = 4 ∨ f.toNat = 8)) :
    exec (.outputSetup .own [f, a, b, c, d]) s = .next (s.answeredBare 0x58 .badField) :=
  State.request_refuses h (parsed := parseOutputSetup [f, a, b, c, d]) rfl
    (by rw [serveOutputSetup, if_neg other])

/-! ### ROUTE_PUT (R163) -/

theorem stripOf_byte (p : Strip) : stripOf (byte (p.val + 1)).toNat = some p := by
  rw [toNat_byte (by omega), stripOf, dif_pos (by omega)]
  rfl

theorem stripOf_eq_none {v : Nat} (outside : v = 0 ∨ 48 < v) : stripOf v = none := dif_neg (by omega)

theorem routePlace_byte (n : GainNo) (k : Fin 64) :
    routePlace (byte (n.val + 1)).toNat (byte (k.val + 1)).toNat = some (some (n, k)) := by
  rw [toNat_byte (by omega), toNat_byte (by omega), routePlace, if_neg (by omega), dif_pos (by omega)]
  rfl

theorem routePlace_eq_none {l k : Nat} (outside : 4 < l ∨ l ≠ 0 ∧ (k = 0 ∨ 64 < k)) :
    routePlace l k = none := by
  rw [routePlace, if_neg (by omega), dif_neg (by omega)]

/-- No other strip is in the way of a strip that is unrouted, or routed to a slot that no other holds. -/
theorem otherHolder_of_free {routes : Tab 48 (Option (GainNo × Fin 64))} {p : Strip}
    {place : Option (GainNo × Fin 64)} (free : place ≠ none → ∀ q, q ≠ p → routes.get q ≠ place) :
    otherHolder routes p place = none := by
  refine List.find?_eq_none.mpr fun q _ held => ?_
  simp only [Bool.and_eq_true, bne_iff_ne, beq_iff_eq, Option.isSome_iff_ne_none] at held
  obtain ⟨⟨other, placed⟩, same⟩ := held
  exact free placed q other same

/-- The strip that holds a slot is the only one that does (R162). -/
theorem State.RoutesDistinct.otherHolder {s : State} (distinct : s.RoutesDistinct) {p q : Strip} (other : q ≠ p)
    {place : GainNo × Fin 64} (holds : s.output.routes.get q = some place) :
    otherHolder s.output.routes p (some place) = some q := by
  cases found : Machine.otherHolder s.output.routes p (some place) with
  | none => exact absurd holds (otherHolder_eq_none found other (Option.some_ne_none _))
  | some r =>
    have held := List.find?_some found
    simp only [Bool.and_eq_true, beq_iff_eq] at held
    obtain ⟨-, same⟩ := held
    by_contra differ
    exact distinct q r (fun e => differ (e ▸ rfl)) (holds ▸ Option.some_ne_none _) (holds.trans same.symm)

section
variable {s : State} (h : s.Open) (p : Strip) {l k : Byte}
include h

theorem exec_routePut_unknown {x : Byte} (outside : x.toNat = 0 ∨ 48 < x.toNat) :
    exec (.routePut .own [x, l, k]) s = .next (s.answeredBare 0x59 .badField) :=
  State.request_refuses h (parsed := parseRoutePut [x, l, k]) rfl
    (by rw [serveRoutePut, stripOf_eq_none outside])

theorem exec_routePut_outside (nowhere : routePlace l.toNat k.toNat = none) :
    exec (.routePut .own [byte (p.val + 1), l, k]) s =
      .next (s.heard.replying 0x59 .badField (routeBytes (s.output.routes.get p))) := by
  refine State.request_replies h (parsed := parseRoutePut [byte (p.val + 1), l, k]) rfl ?_
  simp only [serveRoutePut, stripOf_byte, nowhere]
  rfl

variable {place : Option (GainNo × Fin 64)} (named : routePlace l.toNat k.toNat = some place)
include named

theorem exec_routePut_stores (free : otherHolder s.output.routes p place = none) :
    exec (.routePut .own [byte (p.val + 1), l, k]) s =
      .next ((s.setOutput { s.output with routes := s.output.routes.set p place }).heard.replying 0x59 .ok
        (routeBytes place)) := by
  have free : otherHolder s.heard.output.routes p place = none := free
  refine State.request_replies h (parsed := parseRoutePut [byte (p.val + 1), l, k]) rfl ?_
  simp only [serveRoutePut, stripOf_byte, named, free]
  rfl

theorem exec_routePut_held {q : Strip} (held : otherHolder s.output.routes p place = some q) :
    exec (.routePut .own [byte (p.val + 1), l, k]) s =
      .next (s.heard.replying 0x59 .duplicate
        (routeBytes (s.output.routes.get p) ++ [byte (q.val + 1)])) := by
  have held : otherHolder s.heard.output.routes p place = some q := held
  refine State.request_replies h (parsed := parseRoutePut [byte (p.val + 1), l, k]) rfl ?_
  simp only [serveRoutePut, stripOf_byte, named, held]
  rfl

end

/-- Settles O49: the ends of sends, the layout of each frame, the pins of a send, and the two requests. -/
theorem outputLines : Obligations.OutputLines := by
  refine ⟨fun s awake => ⟨fun n h sends => ?gainEnd, fun h sends => ?surfaceEnd, fun n idle => ?gainIdle,
      fun idle => ?surfaceIdle⟩,
    fun f b => ⟨fun words gain => by rw [Frame.sendTime, gain],
      fun slots surface => by rw [Frame.sendTime, surface]⟩,
    fun f count => ⟨fun words gain size fits => Frame.laidOut_gain gain size fits count,
      fun slots surface size fits => Frame.laidOut_surface surface size fits count fun k e found => by rw [found]⟩,
    fun s => ⟨fun n => ⟨linePins_idle, fun h => linePins_carried⟩, linePins_idle, fun h => linePins_carried⟩,
    fun s ready => ⟨fun k c period dividers same clamped => ?setup,
      fun f a b c d => ?period, fun p n k free => ?place, fun p x => ?unroute,
      fun x l k => exec_routePut_unknown ready, fun p l k outside => ?outside,
      fun p q n k distinct other holds => ?held⟩⟩
  case gainEnd =>
    rw [exec_sendEnd awake, State.sendEnd_gain sends]
    exact ⟨_, rfl, rfl, rfl, nextShift_eq ..⟩
  case surfaceEnd =>
    rw [exec_sendEnd awake, State.sendEnd_surface sends]
    exact ⟨_, rfl, nextShift_eq ..⟩
  case gainIdle => rw [exec_sendEnd awake, State.sendEnd_gain_idle idle]
  case surfaceIdle => rw [exec_sendEnd awake, State.sendEnd_surface_idle idle]
  case setup =>
    rw [OutputConfig.eq_clamped dividers same clamped]
    exact exec_outputSetup ready period dividers
  case period =>
    intro one two four eight
    exact exec_outputSetup_refused ready a b c d (by omega)
  case place =>
    exact exec_routePut_stores ready p (routePlace_byte n k) (otherHolder_of_free fun _ => free)
  case unroute =>
    exact exec_routePut_stores ready p rfl (otherHolder_of_free fun placed => absurd rfl placed)
  case outside => exact exec_routePut_outside ready p (routePlace_eq_none outside)
  case held => exact exec_routePut_held ready p (routePlace_byte n k) (distinct.otherHolder other holds)

end Sys2Proof.Machine
end

section
/-!
PROOF. LINK_SETUP, the overruns and faults of the link, and the traffic for other parts (R173, R176, R177, R179, R180,
R183, R184).
-/

namespace Sys2Proof.Machine

/-! ### LINK_SETUP (R184) -/

theorem parseLinkSetup_bytes (n hi lo : Byte) :
    parseLinkSetup [n, hi, lo] = some { divider := n.toNat, limit := (hi ++ lo).toNat } :=
  congrArg (fun limit => some (LinkSetup.mk n.toNat limit)) (natOf_pair hi lo)

/-- The silence limit is rounded down to a multiple of 100, in the words of R184. -/
theorem silenceLimit_eq (v : Nat) : silenceLimit v =
    (let m := min v 25500
      if m = 0 then 0 else if m < 100 then 100 else m - m % 100) := by
  have down (m : Nat) : m / 100 * 100 = m - m % 100 := by omega
  simp only [silenceLimit, down]

/-- Settles O13: the parsed request as its block serves it, addressed and broadcast. -/
theorem linkSetupStores : Obligations.LinkSetupStores := by
  intro s n hi lo limit h hlimit
  rw [← silenceLimit_eq] at hlimit
  subst hlimit
  have parsed := parseLinkSetup_bytes n hi lo
  constructor
  · refine State.request_answers h parsed ?_
    rw [serveLinkSetup, byte_toNat]
    rfl
  · exact congrArg Host.Outcome.next (State.request_broadcast h parsed serveLinkSetup _)

/-! ### Overruns (R179) -/

/-- Every request of the link is received, whatever then serves it. -/
theorem exec_request_receives {i : Instr} {d : Dest} {code : Byte} {body : List Byte}
    (carries : i.request = some (d, code, body)) :
    ∃ serve, ∀ s, exec i s = .next (s.receive d code serve) := by
  by_cases fits : i.codeFits = true
  · obtain ⟨rule, judged⟩ := request_rule body code
    rw [← requestOf_request fits carries]
    exact ⟨rule, judged.runs d⟩
  · cases i
    case unknownType =>
      cases carries
      exact ⟨_, fun _ => rfl⟩
    all_goals exact absurd rfl fits

section
variable {s : State} (hears : s.Hears)
include hears

theorem State.receive_full (full : 2 ≤ s.link.buffer.length) (d : Dest) (code : Byte)
    (serve : Bool → State → Served) : s.receive d code serve = s.heard.dropRequest := by
  have no_room : ¬ s.heard.link.buffer.length < 2 := Nat.not_lt.mpr full
  rw [State.receive, if_pos hears.hears]
  exact if_neg no_room

theorem exec_requestOverrun (full : 2 ≤ s.link.buffer.length) :
    exec .requestOverrun s = .next s.heard.dropRequest := by
  have drops : (s.hears && decide (2 ≤ s.link.buffer.length)) = true := by
    rw [hears.hears, decide_eq_true full]
    rfl
  exact congrArg Host.Outcome.next (if_pos drops)

/-! ### Faults and other traffic (R176, R177, R180) -/

theorem State.linkFault_heard (after : Receiver) (quiet : Nat) (count : Link → Link) :
    s.linkFault after quiet count =
      (s.setLink (count { s.link with receiver := after, rxQuiet := quiet })).raise .linkError :=
  if_pos hears.hears

theorem exec_linkFormFault (how : FormFault) : exec (.linkFormFault how) s =
    .next ((s.setLink { s.link with
      receiver := receiverAfterForm how, rxQuiet := 0,
      form := countUp 255 s.link.form }).raise .linkError) :=
  congrArg Host.Outcome.next (State.linkFault_heard hears _ _ _)

theorem exec_trafficForOtherParts_unaddressed (outside : s.link.receiver = .unaddressed) :
    exec .trafficForOtherParts s = .next (s.setLink { s.link with rxQuiet := 0 }) :=
  congrArg Host.Outcome.next ((if_pos hears.hears).trans (if_pos outside))

/-- Another part's address character abandons a collection, as a form fault does (log entry 18). -/
theorem exec_trafficForOtherParts_collecting (inside : s.link.receiver ≠ .unaddressed) :
    exec .trafficForOtherParts s = exec (.linkFormFault (.abandoned none)) s :=
  congrArg Host.Outcome.next ((if_pos hears.hears).trans (if_neg inside))

end

/-- A character that began within four character times makes no gap (R177; log entry 29). -/
theorem Link.gapped_of_begun {k : Link} {b : Begun} (under_way : k.begun = some b)
    (soon : b.quiet ≤ 4 * (176 * (k.divider + 1))) : k.gapped = false := by
  have within : ¬ gapQuiet k.divider ≤ b.quiet := Nat.not_le.mpr (Nat.lt_succ_of_le soon)
  rw [Link.gapped, under_way, quietSoFar, decide_eq_false within, Bool.and_false]

/-- Settles O11: an overrun by the one way a request is received, each fault by what every fault leaves. -/
theorem linkErrorsCounted : Obligations.LinkErrorsCounted := by
  intro s hears
  refine ⟨fun full => ⟨exec_requestOverrun hears full, fun i d code body carries => ?request⟩,
    congrArg Host.Outcome.next (State.linkFault_heard hears _ _ _),
    congrArg Host.Outcome.next (State.linkFault_heard hears _ _ _),
    congrArg Host.Outcome.next (State.linkFault_heard hears _ _ _),
    exec_linkFormFault hears .length, exec_linkFormFault hears (.abandoned none),
    fun d => exec_linkFormFault hears (.abandoned (some d)),
    exec_trafficForOtherParts_unaddressed hears, fun inside => ?abandoned, fun b under_way soon own => ?gap⟩
  case request =>
    obtain ⟨serve, received⟩ := exec_request_receives carries
    rw [received, State.receive_full hears full, exec_requestOverrun hears full]
  case abandoned =>
    rw [exec_trafficForOtherParts_collecting hears inside]
    exact exec_linkFormFault hears (.abandoned none)
  case gap =>
    have gapped := State.gapped_of_ownEvent own
    rw [Link.gapped_of_begun under_way soon] at gapped
    cases gapped

end Sys2Proof.Machine
end

section
/-!
PROOF. A reply on LTX, from its turnaround to its end, and the characters that come over LRX meanwhile (R173, R176,
R180, R181, R184, R192, R193, R196).
-/

namespace Sys2Proof.Machine

/-! ### The bits at LTX (R173, R181, R196) -/

theorem LinkChar.bits_length (c : LinkChar) : c.bits.length = 11 := by
  rw [LinkChar.bits, List.length_cons, List.length_append, List.length_map, List.length_range]
  rfl

/-- A character's bits as they go out: the start bit, the data from bit 0 up, the marker and the stop bit. -/
theorem LinkChar.bits_getElem? (c : LinkChar) {j : Nat} (h : j < 11) :
    c.bits[j]? = some (if j = 0 then false else if j = 9 then c.marker else if j = 10 then true
      else c.data.toNat.testBit (j - 1)) := by
  interval_cases j <;> rfl

/-- So many bit times and cycles after the start of a reply, LTX shows that bit of it. -/
theorem State.ltx_eq {s : State} {x : Sending} (sends : s.link.sending = some x) {k r : Nat}
    (within : r < 16 * (s.link.divider + 1))
    (left : x.left = (x.message.length * (176 * (s.link.divider + 1)) : Nat) -
      (k * (16 * (s.link.divider + 1)) + r : Nat)) :
    s.ltx = (x.message.flatMap LinkChar.bits)[k]? := by
  have since : ((x.message.length * charTime s.link.divider : Nat) - x.left).toNat =
      k * (16 * (s.link.divider + 1)) + r := by
    rw [left, charTime, sub_sub_cancel, Int.toNat_natCast]
  have bit : (k * (16 * (s.link.divider + 1)) + r) / (16 * (s.link.divider + 1)) = k := by
    rw [Nat.mul_comm, Nat.mul_add_div (by omega), Nat.div_eq_of_lt within, Nat.add_zero]
  rw [State.ltx, sends, Option.bind_some, since, bit]

/-! ### Characters about the end of a reply (R176, R181) -/

theorem Link.releasedBefore_sending {k : Link} {x : Sending} (sends : k.sending = some x) (h : LinkHeard) :
    k.releasedBefore h = decide (x.left + h.ago < 0) := by
  rw [Link.releasedBefore, sends, Option.any_some]

section
variable {s : State} {x : Sending} (sends : s.link.sending = some x) {h : LinkHeard}
include sends

/-- A character that ended while LDE was driven is lost. -/
theorem State.judgeLink_driven (under : 0 ≤ x.left + h.ago) (rest : List LinkHeard) :
    s.judgeLink h rest = (s.setLink { s.link with line := rest }, none) := by
  have deaf : s.hears = false := by rw [State.hears, sends, Option.isNone_some, Bool.and_false]
  rw [State.judgeLink, Link.releasedBefore_sending sends, decide_eq_false (not_lt.mpr under), deaf]
  rfl

/-- A reply that ended before a character did has its end taken first. -/
theorem State.judgeLink_released (ended : x.left + h.ago < 0) (rest : List LinkHeard) :
    s.judgeLink h rest = (s, some .replyEnd) := by
  rw [State.judgeLink, Link.releasedBefore_sending sends, decide_eq_true ended, if_pos rfl]

end

/-! ### The start of a reply (R180, R181) -/

/-- The address, the length, the type, the result code and the check stand about the payload (R175, R180). -/
theorem Reply.message_length (address : BitVec 5) (r : Reply) :
    (r.message address).length = r.payload.length + 5 := by
  simp [Reply.message, marked]

theorem Link.turned_of_quiet_line {k : Link} (quiet : k.begun = none) :
    k.turned = true ↔ 2 * (176 * (k.divider + 1)) ≤ k.rxQuiet ∧ 2 * (176 * (k.divider + 1)) ≤ k.txQuiet := by
  rw [Link.turned, quiet, decide_eq_true_iff, charTime]

theorem Link.turned_of_begun {k : Link} {b : Begun} (under_way : k.begun = some b) :
    k.turned = true ↔
      2 * (176 * (k.divider + 1)) ≤ b.quiet ∧ 2 * (176 * (k.divider + 1)) + b.since ≤ k.txQuiet := by
  rw [Link.turned, under_way, decide_eq_true_iff, charTime]

/-- The state in which a ready reply has begun its send. -/
def State.replyBegun (s : State) (r : Reply) : State :=
  s.setLink { s.link with
    receiver := .unaddressed
    sending := some { message := r.message s.link.address
                      left := ((r.message s.link.address).length * charTime s.link.divider : Nat) }
    rxQuiet := max s.link.rxQuiet (2 * charTime s.link.divider)
    txQuiet := max s.link.txQuiet (2 * charTime s.link.divider) }

section
variable {s : State} (awake : s.resetLow = false) {r : Reply} {after : AfterReply} {rest : List Entry}
  (held : s.link.buffer = ⟨some r, after⟩ :: rest)
include awake held

theorem exec_replySend (idle : s.link.sending = none) : exec .replySend s = .next (s.replyBegun r) := by
  have hears : s.hears = true := State.Hears.hears ⟨awake, idle⟩
  have ready : s.link.ready = some r := by rw [Link.ready, held]
  show Host.Outcome.next (if s.hears then _ else _) = _
  rw [if_pos hears, ready]
  rfl

/-! ### The end of a reply (R180, R181, R184, R192, R193) -/

/-- LDE is released, and the request of the reply has left the buffer, with `rest` still in it. -/
def State.replyEnded (s : State) (rest : List Entry) : State :=
  s.setLink { s.link with sending := none, txQuiet := 0, receiver := .unaddressed, buffer := rest }

/-- What the end of a reply brings about then: nothing more, a new divider (R184) or the link restart (R193). -/
def AfterReply.bringAbout (t : State) : AfterReply → State
  | .nothing => t
  | .setDivider n => t.setLink { t.link with divider := n }
  | .linkRestart => t.takeReset .linkRestart

theorem exec_replyEnd (sends : s.link.sending ≠ none) :
    exec .replyEnd s = .next (after.bringAbout (s.replyEnded rest)) := by
  have ends : (s.resetLow || s.link.sending.isNone) = false := by
    rw [awake, Bool.false_or, Option.isNone_eq_false_iff, Option.isSome_iff_ne_none]
    exact sends
  show Host.Outcome.next (if s.resetLow || s.link.sending.isNone then _ else _) = _
  rw [ends, held]
  cases after <;> rfl

end

/-- Settles O12: the bits at LTX, the characters that come under LDE, and a reply from its start to its end. -/
theorem repliesSent : Obligations.RepliesSent := by
  refine ⟨fun s => ⟨fun idle => ?idle, fun x i j r c sends found bit within left => ?bit⟩,
    fun s x h rest queue awake sends line => ⟨fun under => ?lost, fun ended => ?released⟩,
    fun s r after rest awake held => ⟨fun idle => ?start, fun sends => ?finish,
      fun own => ⟨fun quiet => ?quiet, fun b under_way => ?under_way⟩⟩⟩
  case idle =>
    rw [State.ltx, idle]
    rfl
  case bit =>
    rw [State.ltx_eq sends within left, getElem?_flatMap LinkChar.bits_length found bit]
    exact c.bits_getElem? bit
  case lost => rw [step, queue, State.nextCharacter_link awake line, State.judgeLink_driven sends under]
  case released => rw [step, queue, State.nextCharacter_link awake line, State.judgeLink_released sends ended]
  case start =>
    refine ⟨_, exec_replySend awake held idle, rfl, rfl, rfl, rfl, rfl, ?_⟩
    rw [← r.message_length s.link.address]
    rfl
  case finish =>
    have ended := exec_replyEnd awake held sends
    cases after with
    | nothing => exact ⟨_, ended, rfl, rfl, rfl, rfl⟩
    | setDivider n => exact ⟨_, ended, rfl, rfl, rfl, rfl⟩
    | linkRestart =>
      exact ⟨_, ended, rfl, State.takeReset_afresh _ _, State.takeReset_restarted _ _,
        State.takeReset_retained _ _, rfl, awake, rfl, rfl⟩
  case quiet => exact (Link.turned_of_quiet_line quiet).mp (State.turned_of_ownEvent own)
  case under_way => exact (Link.turned_of_begun under_way).mp (State.turned_of_ownEvent own)

end Sys2Proof.Machine
end

section
/-!
PROOF. RESETn low: every command but those of the supply and of RESETn itself is lost (R181, R192).
-/

namespace Sys2Proof.Machine

section
variable {s : State} (low : s.resetLow = true)
include low

/-- While RESETn is low no request is received (R192). -/
theorem State.receive_low (d : Dest) (code : Byte) (serve : Bool → State → Served) :
    s.receive d code serve = s := by
  rw [State.receive, State.hears, low]
  rfl

/-- A well-formed request is received by its rule, and so is lost. -/
theorem exec_request_low {i : Instr} (fits : i.codeFits = true) {d : Dest} {code : Byte} {body : List Byte}
    (carries : i.request = some (d, code, body)) : exec i s = .next s := by
  obtain ⟨rule, judged⟩ := request_rule body code
  rw [← requestOf_request fits carries, judged.runs, State.receive_low low]

/-- What the link judges needs a part that hears it. -/
theorem State.linkFault_low (after : Receiver) (quiet : Nat) (count : Link → Link) :
    s.linkFault after quiet count = s := by
  rw [State.linkFault, State.hears, low]
  rfl

theorem State.press_low (l : ContactLine) (act : State → State) : s.press l act = s := by
  rw [State.press, low]
  rfl

/-- An arm that leaves the state under RESETn low. -/
theorem next_ite_low (t : State) :
    (.next (if s.resetLow then s else t) : Host.Outcome State Fault Refusal) = .next s := by
  rw [if_pos low]

/-- An arm that leaves the state under RESETn low, or where its event cannot occur. -/
theorem next_ite_or_low (b : Bool) (t : State) :
    (.next (if s.resetLow || b then s else t) : Host.Outcome State Fault Refusal) = .next s := by
  rw [low]
  rfl

/-- An arm that acts on what the link hears alone. -/
theorem next_ite_hears_low (t : State) :
    (.next (if s.hears then t else s) : Host.Outcome State Fault Refusal) = .next s := by
  rw [State.hears, low]
  rfl

end

/-- Settles O3: a request is not received, and every event's arm looks at RESETn first. -/
theorem heldInReset : Obligations.HeldInReset := by
  intro i s low supply release
  cases i with
  | unknownType => exact congrArg Host.Outcome.next (State.receive_low low _ _ _)
  | powerOn x => exact absurd rfl (supply x)
  | resetPinRelease => exact absurd rfl release
  | requestOverrun =>
    show Host.Outcome.next (if s.hears && _ then _ else s) = _
    rw [State.hears, low]
    rfl
  | linkFramingFault | linkGapFault | linkFormFault | linkCheckFault =>
    exact congrArg Host.Outcome.next (State.linkFault_low low _ _ _)
  | replySend | trafficForOtherParts => exact next_ite_hears_low low _
  | replyEnd | linkSilence | restartWindowLapse | markTimeout | freewheelLimit | waitExpiry | qualifiedTouch
  | qualifiedRelease | keyPress | keyRelease | contactRelease => exact next_ite_or_low low _ _
  | contactGoPress | contactBackPress | contactHoldPress | contactSafePress =>
    exact congrArg Host.Outcome.next (State.press_low low _ _)
  | resetPin | timeMark | markFramingFault | markGapFault | clockAdvance | gotoComplete | moveStart
  | moveComplete | passEnd | frameEvent | sendEnd => exact next_ite_low low _
  | nop | linkSetup | linkQuery | eventsSetup | eventsRead | restart | restartQuery | channelSetup | trim
  | muteRemote | channelQuery | level | cuePut | movesAdd | cueDelete | listClear | cueQuery | movesQuery
  | listQuery | showStart | showEnd | go | back | hold | resume | stop | safe | safeRelease | gotoCue
  | noticesRead | showQuery | clockSetup | clockQuery | surfaceSetup | bankPut | bankSelect | surfaceQuery
  | contactSetup | contactQuery | outputSetup | routePut | routeQuery | outputQuery =>
    exact exec_request_low low rfl rfl

end Sys2Proof.Machine
end

section
/-!
PROOF. O60: every command but the owners of the retained memory and the supply keeps it (R195).
-/

namespace Sys2Proof.Machine

/-! ### Frames that hold the retained memory (R195) -/

/-- The acts of the lines reach no configuration, and so nothing that is retained. -/
theorem State.SampleFrame.retained {s t : State} (h : s.SampleFrame t) : t.retained = s.retained := by
  have cfg : t.channels.map Channel.cfg = s.channels.map Channel.cfg := Tab.ext_get fun c => by
    rw [Tab.get_map, Tab.get_map]
    exact h.cfg c
  rw [State.retained, cfg, h.cues, h.link, h.output, h.clock, h.events, h.surface, h.contacts]
  rfl

/-- Nor does an operation on the show. -/
theorem State.PlayFrame.retained {s t : State} (h : s.PlayFrame t) : t.retained = s.retained := h.sample.retained

theorem State.ShowFrame.retained {s t : State} (h : s.ShowFrame t) : t.retained = s.retained := h.play.retained

/-- The channels take other records with the same configurations. -/
theorem State.setChannels_retained (s : State) {x : Tab 56 Channel} (cfg : ∀ c, (x.get c).cfg = (s.chan c).cfg) :
    (s.setChannels x).retained = s.retained := by
  have same : x.map Channel.cfg = s.channels.map Channel.cfg := Tab.ext_get fun c => by
    rw [Tab.get_map, Tab.get_map]
    exact cfg c
  rw [State.retained, State.setChannels_channels, same]
  rfl

/-- An operation that is taken under a condition. -/
theorem State.retained_ite {s t : State} (c : Prop) [Decidable c] (h : t.retained = s.retained) :
    (if c then s else t).retained = s.retained := by
  split
  · rfl
  · exact h

section
variable (s : State)

/-! ### The link (R176 to R183) -/

theorem State.linkFault_retained (after : Receiver) (quiet : Nat) {count : Link → Link}
    (limit : ∀ k, (count k).limit = k.limit) : (s.linkFault after quiet count).retained = s.retained := by
  unfold State.linkFault
  split
  · simp only [State.retained, State.raise_link, State.setLink_link, limit]
    rfl
  · rfl

theorem State.sequenceIdle_retained : s.sequenceIdle.retained = s.retained := by
  unfold State.sequenceIdle
  split <;> rfl

theorem State.enqueue_retained (v : Served) (code : Byte) (broadcast : Bool) :
    (State.enqueue v code broadcast).retained = v.state.retained := by
  unfold State.enqueue
  split <;> rfl

theorem State.receive_retained (d : Dest) (code : Byte) {serve : Bool → State → Served}
    (h : ∀ b t, (serve b t).state.retained = t.retained) : (s.receive d code serve).retained = s.retained := by
  have good : s.goodRequest.retained = s.retained := rfl
  unfold State.receive
  split
  · dsimp only
    split
    · rw [State.enqueue_retained, h, good]
    · exact good
  · rfl

/-- A request keeps the retained memory when its own block does. -/
theorem State.request_retained {α : Type} (d : Dest) (code : Byte) (parsed : Option α)
    {serve : α → Bool → State → Served} (h : ∀ f b t, (serve f b t).state.retained = t.retained)
    (carried : State → List Byte := fun _ => []) :
    (s.request d code parsed serve carried).retained = s.retained := by
  refine s.receive_retained d code fun b t => ?_
  unfold judge
  split
  · exact t.sequenceIdle_retained
  · split
    · exact t.sequenceIdle_retained
    · exact h _ b t

/-! ### Requests that own no retained memory -/

theorem serveEventsRead_retained (g : Byte) (b : Bool) : (serveEventsRead g b s).state.retained = s.retained := by
  unfold serveEventsRead
  repeat' split
  all_goals rfl

/-- A RESTART may restart the part, which keeps the retained memory (R193, R195). -/
theorem serveRestart_retained (step : Nat) (b : Bool) : (serveRestart step b s).state.retained = s.retained := by
  unfold serveRestart
  repeat' split
  case h_3.isTrue.isTrue => exact State.takeReset_retained _ _
  case isTrue => exact s.sequenceIdle_retained
  all_goals rfl

theorem serveMuteRemote_retained (f : MuteRemote) (b : Bool) :
    (serveMuteRemote f b s).state.retained = s.retained := by
  unfold serveMuteRemote
  split
  · exact State.SampleFrame.retained (.setChan s _ _ rfl)
  · rfl

theorem serveLevel_retained (f : LevelBody) (b : Bool) : (serveLevel f b s).state.retained = s.retained := by
  unfold serveLevel
  split
  · exact ((State.ShowFrame.startLevel s _ _ _ _ _ _).trans (State.ShowFrame.settledFrom _ s)).retained
  · rfl

theorem serveShowStart_retained (u : Unit) (b : Bool) : (serveShowStart u b s).state.retained = s.retained := by
  unfold serveShowStart
  repeat' split
  case isFalse.isFalse.isFalse => exact (State.PlayFrame.setShow s .running).retained
  all_goals rfl

theorem serveShowEnd_retained (u : Unit) (b : Bool) : (serveShowEnd u b s).state.retained = s.retained := by
  unfold serveShowEnd
  repeat' split
  case isFalse.isFalse.isFalse => exact (State.PlayFrame.setShow _ .edit).retained
  all_goals rfl

theorem serveGo_retained (n : Nat) (b : Bool) : (serveGo n b s).state.retained = s.retained := by
  unfold serveGo
  dsimp only
  split
  · rfl
  · exact (State.PlayFrame.go s _ _).retained

theorem serveHold_retained (u : Unit) (b : Bool) : (serveHold u b s).state.retained = s.retained := by
  unfold serveHold
  split
  · exact (State.PlayFrame.holdShow s).retained
  · rfl

theorem serveResume_retained (u : Unit) (b : Bool) : (serveResume u b s).state.retained = s.retained := by
  unfold serveResume
  split
  · exact (State.PlayFrame.resumeShow s).retained
  · rfl

theorem serveStop_retained (u : Unit) (b : Bool) : (serveStop u b s).state.retained = s.retained := by
  unfold serveStop
  split
  · exact (State.ShowFrame.clearShow s).retained
  · rfl

theorem serveSafeRelease_retained (u : Unit) (b : Bool) :
    (serveSafeRelease u b s).state.retained = s.retained := by
  unfold serveSafeRelease
  split
  · exact (State.PlayFrame.leaveSafe s).retained
  · rfl

theorem serveGoto_retained (f : GotoBody) (b : Bool) : (serveGoto f b s).state.retained = s.retained := by
  unfold serveGoto
  repeat' split
  all_goals rfl

theorem serveNoticesRead_retained (n : Byte) (b : Bool) :
    (serveNoticesRead n b s).state.retained = s.retained := by
  unfold serveNoticesRead
  repeat' split
  all_goals rfl

/-! ### The show clock (R112, R116 to R121) -/

/-- A mark, with the crossing that its phase step may make (R124). -/
theorem State.runningMark_retained (song m : Nat) : (s.runningMark song m).retained = s.retained := by
  have corrected (k : Clock) (h : k.cfg = s.clock.cfg) : (s.setClock k).retained = s.retained := by
    rw [State.retained, State.setClock_clock, h]
    rfl
  have cfg : ((s.clock.corrected m).counted (decide ((s.clock.error m).natAbs ≤ s.clock.cfg.lockWindow))).1.cfg =
      s.clock.cfg := by
    unfold Clock.counted
    repeat' split
    all_goals rfl
  unfold State.runningMark State.correct
  dsimp only
  repeat' split
  · rfl
  · exact (State.PlayFrame.takeCrossing _).retained.trans (corrected _ cfg)
  · exact (State.PlayFrame.takeCrossing _).retained.trans (corrected _ cfg)
  · exact corrected _ cfg
  · exact corrected _ cfg

theorem State.stoppedMark_retained (song m : Nat) : (s.stoppedMark song m).retained = s.retained := by
  unfold State.stoppedMark
  dsimp only
  split <;> rfl

theorem State.loseClock_retained : s.loseClock.retained = s.retained := (State.PlayFrame.loseClock s).retained

theorem State.timeoutClock_retained : s.timeoutClock.retained = s.retained := by
  unfold State.timeoutClock
  repeat' split
  case h_2.isTrue => exact s.loseClock_retained
  all_goals rfl

/-! ### Frame events and tracking scans (R84, R158, R166) -/

theorem State.formed_retained : s.formed.retained = s.retained := by
  have channels : (s.startPeriod.setChannels (Tab.build 56 (s.startPeriod.atFrame s.output.stored.period))).retained =
      s.startPeriod.retained := by
    refine State.setChannels_retained _ fun c => ?_
    rw [Tab.get_build, State.atFrame]
    split <;> rfl
  unfold State.formed State.formChannels
  dsimp only
  split <;> exact channels

theorem State.frameEvent_retained : s.frameEvent.retained = s.retained := by
  rw [State.frameEvent_eq, (State.PlayFrame.raiseLate s s.placed).retained]
  exact s.formed_retained

theorem State.sendEnd_retained (l : OutLine) : (s.sendEnd l).retained = s.retained := by
  unfold State.sendEnd
  repeat' split
  all_goals rfl

theorem State.loadScan_retained (k : Scan) : (s.loadScan k).retained = s.retained := by
  have loaded (u : State) (level : Chan → Int) (mute : Chan → Bool) :
      (u.setChannels (Tab.build 56 fun c => (u.chan c).loaded (level c) (mute c) k.loadTime)).retained =
        u.retained := by
    refine u.setChannels_retained fun c => ?_
    rw [Tab.get_build]
    unfold Channel.loaded
    repeat' split
    all_goals rfl
  have cleared := (State.ShowFrame.clearShow s).retained
  unfold State.loadScan
  dsimp only
  split
  all_goals exact (loaded _ _ _).trans cleared

/-! ### Commands whose effect is written in their arm -/

theorem execTimeMark_retained (song : Byte) (position : BitVec 32) (flags check : Byte) :
    ∃ u, execTimeMark song position flags check s = .next u ∧ u.retained = s.retained := by
  refine ⟨_, rfl, State.retained_ite _ ?_⟩
  dsimp only
  repeat' split
  · rfl
  · rfl
  · exact State.runningMark_retained _ _ _
  · exact State.stoppedMark_retained _ _ _

theorem execPassEnd_retained (readings : Tab 16 (BitVec 10)) :
    ∃ u, execPassEnd readings s = .next u ∧ u.retained = s.retained :=
  ⟨_, rfl, State.retained_ite _ (State.UnitFrame.foldl (fun t f => t.passFader readings f)
    (fun t f => (State.SlotFrame.passFader t readings f).toUnitFrame) _ _).sample.retained⟩

theorem execGotoComplete_retained : ∃ u, execGotoComplete s = .next u ∧ u.retained = s.retained := by
  refine ⟨_, rfl, State.retained_ite _ ?_⟩
  split
  · rfl
  · exact s.loadScan_retained _

theorem execMoveStart_retained (c : Chan) : ∃ u, execMoveStart c s = .next u ∧ u.retained = s.retained := by
  refine ⟨_, rfl, State.retained_ite _ ?_⟩
  repeat' split
  · rfl
  · exact (((State.ShowFrame.setChan s c _ _ _ _).trans (State.ShowFrame.startDue _ _ c)).trans
      (State.ShowFrame.settledFrom _ s)).retained
  · rfl

theorem execMoveComplete_retained (c : Chan) :
    ∃ u, execMoveComplete c s = .next u ∧ u.retained = s.retained := by
  refine ⟨_, rfl, State.retained_ite _ ?_⟩
  repeat' split
  · rfl
  · exact ((State.ShowFrame.completeMove s c).trans (State.ShowFrame.settledFrom _ s)).retained
  · rfl

theorem execReplySend_retained : ∃ u, execReplySend s = .next u ∧ u.retained = s.retained := by
  refine ⟨_, rfl, ?_⟩
  repeat' split
  all_goals rfl

/-- The end of a reply may bring the link restart about (R181, R193). -/
theorem execReplyEnd_retained : ∃ u, execReplyEnd s = .next u ∧ u.retained = s.retained := by
  refine ⟨_, rfl, State.retained_ite _ ?_⟩
  dsimp only
  repeat' split
  case h_3 => exact State.takeReset_retained _ _
  all_goals rfl

theorem execTrafficForOtherParts_retained :
    ∃ u, execTrafficForOtherParts s = .next u ∧ u.retained = s.retained := by
  refine ⟨_, rfl, ?_⟩
  repeat' split
  · rfl
  · exact s.linkFault_retained _ _ fun _ => rfl
  · rfl

theorem execRequestOverrun_retained : ∃ u, execRequestOverrun s = .next u ∧ u.retained = s.retained := by
  refine ⟨_, rfl, ?_⟩
  split <;> rfl

theorem execRestart_retained (d : Dest) (body : List Byte) :
    ∃ u, execRestart d body s = .next u ∧ u.retained = s.retained := by
  refine ⟨_, rfl, s.receive_retained d _ fun b t => ?_⟩
  split
  · exact t.sequenceIdle_retained
  · exact serveRestart_retained t _ b

/-- The reset pin, with the link restart that may fall together with it (R192, R195). -/
theorem execResetPin_retained (x : BitVec 5) : ∃ u, execResetPin x s = .next u ∧ u.retained = s.retained := by
  cases low : s.resetLow with
  | false =>
    obtain ⟨u, ran, -, kept, -⟩ := resetPinTaken.1 s x low
    exact ⟨u, ran, kept⟩
  | true => exact ⟨s, heldInReset (.resetPin x) s low nofun nofun, rfl⟩

/-- A touch line or key that acts once its change is noted. -/
theorem State.retained_ite_noted {u v : State} (b : Bool) (h : u.SampleFrame v) (noted : u.retained = s.retained) :
    (if s.resetLow || b then s else v).retained = s.retained := State.retained_ite _ (h.retained.trans noted)

/-- A press of a contact line makes the line's request (R150). -/
theorem State.press_retained (l : ContactLine) :
    (s.press l fun t => t.contactRequest l).retained = s.retained :=
  s.retained_ite_noted _ (State.SampleFrame.contactRequest (s.contactChanged l true) l) rfl

theorem State.SampleFrame.keyOn (f : Slot) : s.SampleFrame (s.keyOn f) := by
  unfold State.keyOn State.toggleOperator
  repeat' split
  · exact .refl s
  · exact .setChan s _ _ rfl
  · exact .refl s

end

/-- Every command but the owners and the supply keeps the retained memory. -/
theorem exec_retained (i : Instr) (s : State) (other : i.writesRetained = false) (supply : ∀ x, i ≠ .powerOn x) :
    ∃ u, exec i s = .next u ∧ u.retained = s.retained := by
  cases i with
  | linkSetup | eventsSetup | channelSetup | trim | cuePut | movesAdd | cueDelete | listClear | clockSetup
  | surfaceSetup | bankPut | bankSelect | contactSetup | outputSetup | routePut => cases other
  | powerOn x => exact absurd rfl (supply x)
  | nop | linkQuery | restartQuery | channelQuery | cueQuery | movesQuery | listQuery | showQuery | clockQuery
  | surfaceQuery | contactQuery | routeQuery | outputQuery =>
    exact ⟨_, rfl, s.request_retained _ _ _ fun _ _ _ => rfl⟩
  | eventsRead => exact ⟨_, rfl, s.request_retained _ _ _ fun f b t => serveEventsRead_retained t f b⟩
  | restart => exact execRestart_retained s _ _
  | muteRemote => exact ⟨_, rfl, s.request_retained _ _ _ fun f b t => serveMuteRemote_retained t f b⟩
  | level => exact ⟨_, rfl, s.request_retained _ _ _ fun f b t => serveLevel_retained t f b⟩
  | showStart => exact ⟨_, rfl, s.request_retained _ _ _ fun f b t => serveShowStart_retained t f b⟩
  | showEnd => exact ⟨_, rfl, s.request_retained _ _ _ fun f b t => serveShowEnd_retained t f b⟩
  | go => exact ⟨_, rfl, s.request_retained _ _ _ (fun f b t => serveGo_retained t f b) _⟩
  | back => exact ⟨_, rfl, s.request_retained _ _ _ (fun _ _ t => (State.PlayFrame.back t).retained) _⟩
  | hold => exact ⟨_, rfl, s.request_retained _ _ _ fun f b t => serveHold_retained t f b⟩
  | resume => exact ⟨_, rfl, s.request_retained _ _ _ fun f b t => serveResume_retained t f b⟩
  | stop => exact ⟨_, rfl, s.request_retained _ _ _ fun f b t => serveStop_retained t f b⟩
  | safe => exact ⟨_, rfl, s.request_retained _ _ _ fun _ _ t => (State.PlayFrame.enterSafe t).retained⟩
  | safeRelease => exact ⟨_, rfl, s.request_retained _ _ _ fun f b t => serveSafeRelease_retained t f b⟩
  | gotoCue => exact ⟨_, rfl, s.request_retained _ _ _ fun f b t => serveGoto_retained t f b⟩
  | noticesRead => exact ⟨_, rfl, s.request_retained _ _ _ fun f b t => serveNoticesRead_retained t f b⟩
  | unknownType => exact ⟨_, rfl, s.receive_retained _ _ fun _ t => t.sequenceIdle_retained⟩
  | requestOverrun => exact execRequestOverrun_retained s
  | linkFramingFault | linkGapFault | linkFormFault | linkCheckFault =>
    exact ⟨_, rfl, s.linkFault_retained _ _ fun _ => rfl⟩
  | replySend => exact execReplySend_retained s
  | replyEnd => exact execReplyEnd_retained s
  | linkSilence => exact ⟨_, rfl, State.retained_ite _ (State.PlayFrame.raiseWithAct _ _).retained⟩
  | restartWindowLapse => exact ⟨_, rfl, State.retained_ite _ s.sequenceIdle_retained⟩
  | resetPin => exact execResetPin_retained s _
  | resetPinRelease => exact ⟨_, rfl, rfl⟩
  | timeMark => exact execTimeMark_retained s _ _ _ _
  | markFramingFault | markGapFault => exact ⟨_, rfl, State.retained_ite _ rfl⟩
  | markTimeout => exact ⟨_, rfl, State.retained_ite _ s.timeoutClock_retained⟩
  | freewheelLimit => exact ⟨_, rfl, State.retained_ite _ s.loseClock_retained⟩
  | clockAdvance => exact ⟨_, rfl, State.retained_ite _ s.wallMillisecond_retained⟩
  | waitExpiry => exact ⟨_, rfl, State.retained_ite _ (State.ShowFrame.fireChain s _).retained⟩
  | gotoComplete => exact execGotoComplete_retained s
  | moveStart => exact execMoveStart_retained s _
  | moveComplete => exact execMoveComplete_retained s _
  | passEnd => exact execPassEnd_retained s _
  | qualifiedTouch => exact ⟨_, rfl, s.retained_ite_noted _ (.handOn (s.touchChanged _ _) _) rfl⟩
  | qualifiedRelease => exact ⟨_, rfl, s.retained_ite_noted _ (.handOff (s.touchChanged _ _) _) rfl⟩
  | keyPress => exact ⟨_, rfl, s.retained_ite_noted _ (.keyOn (s.keyChanged _ _) _) rfl⟩
  | keyRelease => exact ⟨_, rfl, State.retained_ite _ rfl⟩
  | contactGoPress => exact ⟨_, rfl, s.press_retained .cgo⟩
  | contactBackPress => exact ⟨_, rfl, s.press_retained .cback⟩
  | contactHoldPress => exact ⟨_, rfl, s.press_retained .chold⟩
  | contactSafePress => exact ⟨_, rfl, s.press_retained .csafe⟩
  | contactRelease => exact ⟨_, rfl, State.retained_ite _ rfl⟩
  | frameEvent => exact ⟨_, rfl, State.retained_ite _ s.frameEvent_retained⟩
  | sendEnd => exact ⟨_, rfl, State.retained_ite _ (s.sendEnd_retained _)⟩
  | trafficForOtherParts => exact execTrafficForOtherParts_retained s

/-- Settles O60: what each command that owns no retained memory leaves of it. -/
theorem retainedWritten : Obligations.RetainedWritten := by
  intro i s t ran other supply
  obtain ⟨u, left, kept⟩ := exec_retained i s other supply
  cases left.symm.trans ran
  exact kept

end Sys2Proof.Machine
end

section
/-!
PROOF. O8: the steps of the restart sequence, and the lapse of its window (R192, R193).
-/

namespace Sys2Proof.Machine

/-- The step that the sequence waits for in each of its states; in DUE it waits for none (R193). -/
def RestartSequence.awaits : RestartSequence → Nat
  | .idle => 1
  | .step1 => 2
  | .step2 => 3
  | .due => 0

theorem State.setSequence_same {s : State} {q : RestartSequence} (h : s.events.sequence = q) :
    s.setSequence q = s := by
  subst h
  rfl

/-- What returns the sequence to IDLE leaves it in DUE (R193). -/
theorem State.sequenceIdle_unless_due (s : State) :
    s.sequenceIdle = s.setSequence (if s.events.sequence = .due then .due else .idle) := by
  rw [State.sequenceIdle_eq]
  cases h : s.events.sequence with
  | idle => exact (State.setSequence_same h).symm
  | step1 => rfl
  | step2 => rfl
  | due => exact (State.setSequence_same h).symm

/-! ### A RESTART as its block serves it -/

section
variable {s : State} {b : Bool} {n : Nat}

/-- A step outside 1..3 is a bad field in every state of the sequence. -/
theorem serveRestart_badField (out : n = 0 ∨ 3 < n) : serveRestart n b s = s.sequenceIdle.refuse .badField :=
  if_pos (out.imp_left fun h => h ▸ Nat.one_pos)

/-- A step that the sequence does not wait for returns it to IDLE. -/
theorem serveRestart_unawaited (low : 1 ≤ n) (high : n ≤ 3) (notDue : s.events.sequence ≠ .due)
    (other : n ≠ s.events.sequence.awaits) :
    serveRestart n b s = (s.setSequence .idle).refuse .sequence := by
  rw [serveRestart, if_neg (by omega)]
  cases h : s.events.sequence with
  | idle =>
    rw [h] at other
    rw [State.setSequence_same h]
    exact if_neg other
  | step1 =>
    rw [h] at other
    exact if_neg other
  | step2 =>
    rw [h] at other
    exact if_neg other
  | due => exact absurd h notDue

theorem serveRestart_first (h : s.events.sequence = .idle) : serveRestart 1 b s =
    (s.setEvents { s.events with sequence := .step1, window := 0 }).reply .ok (1 :: bytesOf 3 1000) := by
  rw [serveRestart, if_neg (by decide), h]
  rfl

theorem serveRestart_second (h : s.events.sequence = .step1) : serveRestart 2 b s =
    (s.setSequence .step2).reply .ok (2 :: bytesOf 3 (1000 - s.events.window)) := by
  rw [serveRestart, if_neg (by decide), h]
  rfl

theorem serveRestart_third (h : s.events.sequence = .step2) : serveRestart 3 b s =
    if b then ⟨(s.setSequence .due).takeReset .linkRestart, none⟩
    else ⟨s.setSequence .due, some ⟨Result.ok.code, [], .linkRestart⟩⟩ := by
  rw [serveRestart, if_neg (by decide), h]
  rfl

theorem serveRestart_due (low : 1 ≤ n) (high : n ≤ 3) (h : s.events.sequence = .due) : serveRestart n b s =
    ⟨s.setFree (s.free + 1), some ⟨Config.restartInDueResult s.free, [], .nothing⟩⟩ := by
  rw [serveRestart, if_neg (by omega), h]

/-- Whatever the step, one that is not awaited leaves the sequence in IDLE and nothing else changed. -/
theorem serveRestart_unawaited_state (notDue : s.events.sequence ≠ .due) (other : n ≠ s.events.sequence.awaits) :
    (serveRestart n b s).state = s.setSequence .idle := by
  by_cases range : 1 ≤ n ∧ n ≤ 3
  · rw [serveRestart_unawaited range.1 range.2 notDue other]
    rfl
  · rw [serveRestart_badField (by omega), State.refuse, State.sequenceIdle_unless_due, if_neg notDue]

end

/-! ### A RESTART as it is received (R174, R178 to R180) -/

theorem exec_restart_own {s : State} (h : s.Serves) {k : Byte} {v : Served}
    (served : serveRestart k.toNat false s.heard = v) :
    exec (.restart .own [k]) s = .next (State.enqueue v 0x0A false) := by
  show Host.Outcome.next (s.receive .own 0x0A _) = _
  rw [State.receive_own h, ← served]
  rfl

theorem exec_restart_broadcast {s : State} (hears : s.Hears) (room : s.link.buffer.length < 2) {d : Dest}
    (all : s.Broadcast d) {k : Byte} {t : State} (served : (serveRestart k.toNat true s.heard).state = t) :
    exec (.restart d [k]) s = .next t := by
  show Host.Outcome.next (s.receive d 0x0A _) = _
  rw [State.receive_heard hears room, (s.isBroadcast_iff d).mpr all, ← served]
  rfl

/-- A step to the part's own address that is not awaited is answered SEQUENCE. -/
theorem exec_restart_unawaited {s : State} (h : s.Serves) {k : Byte} (low : 1 ≤ k.toNat) (high : k.toNat ≤ 3)
    (notDue : s.events.sequence ≠ .due) (other : k.toNat ≠ s.events.sequence.awaits) :
    exec (.restart .own [k]) s =
      .next ((s.setEvents { s.events with sequence := .idle }).answeredBare 0x0A .sequence) :=
  exec_restart_own h (serveRestart_unawaited (s := s.heard) low high notDue other)

/-- In IDLE such an answer changes nothing else at all. -/
theorem exec_restart_idle {s : State} (h : s.Serves) (idle : s.events.sequence = .idle) {k : Byte}
    (low : 2 ≤ k.toNat) (high : k.toNat ≤ 3) :
    exec (.restart .own [k]) s = .next (s.answeredBare 0x0A .sequence) := by
  have answered := exec_restart_unawaited h (Nat.le_of_succ_le low) high (by rw [idle]; decide)
    (by rw [idle]; exact Nat.ne_of_gt low)
  rwa [show s.setEvents { s.events with sequence := .idle } = s from State.setSequence_same idle] at answered

/-- Settles O8: RESTART in the four states, addressed and broadcast, and the lapse of the window. -/
theorem restartSteps : Obligations.RestartSteps := by
  refine ⟨fun s h => ⟨fun idle => ⟨?first, ?_, ?_⟩, fun one => ⟨?second, ?_⟩, fun two => ⟨?third, ?_⟩,
      fun k out => ?range, fun due k low high => ?due⟩,
    fun s hears room d all => ⟨fun idle => ?firstAll, fun one => ?secondAll, fun two => ?thirdAll,
      fun k other => ?otherAll, fun due k => ?dueAll⟩,
    fun s awake => ⟨fun passed => ?lapse, fun left => ?early⟩⟩
  case first => exact exec_restart_own h (k := 1) (serveRestart_first (s := s.heard) idle)
  · exact exec_restart_idle h idle (by decide) (by decide)
  · exact exec_restart_idle h idle (by decide) (by decide)
  case second => exact exec_restart_own h (k := 2) (serveRestart_second (s := s.heard) one)
  · rintro k (rfl | rfl)
    all_goals exact exec_restart_unawaited h (by decide) (by decide) (by rw [one]; decide) (by rw [one]; decide)
  case third => exact exec_restart_own h (k := 3) (serveRestart_third (s := s.heard) two)
  · rintro k (rfl | rfl)
    all_goals exact exec_restart_unawaited h (by decide) (by decide) (by rw [two]; decide) (by rw [two]; decide)
  case range =>
    rw [exec_restart_own h (serveRestart_badField out), State.sequenceIdle_unless_due]
    rfl
  case due =>
    exact ⟨_, Config.restartInDueResult s.free, exec_restart_own h (serveRestart_due (s := s.heard) low high due),
      rfl, rfl⟩
  case firstAll =>
    exact exec_restart_broadcast hears room all (congrArg Served.state (serveRestart_first (s := s.heard) idle))
  case secondAll =>
    exact exec_restart_broadcast hears room all (congrArg Served.state (serveRestart_second (s := s.heard) one))
  case thirdAll =>
    exact ⟨_, exec_restart_broadcast hears room all (congrArg Served.state (serveRestart_third (s := s.heard) two)),
      State.takeReset_afresh _ _, State.takeReset_restarted _ _, State.takeReset_retained _ _, hears.1, rfl, rfl,
      rfl, rfl⟩
  case otherAll =>
    refine exec_restart_broadcast hears room all (serveRestart_unawaited_state (s := s.heard) ?_ ?_)
    · rcases other with ⟨state, -⟩ | ⟨state, -⟩ | ⟨state, -⟩ <;> exact state.trans_ne (by decide)
    · show k.toNat ≠ s.events.sequence.awaits
      rcases other with ⟨state, ne⟩ | ⟨state, ne⟩ | ⟨state, ne⟩
      all_goals
        rw [state]
        exact fun same => ne (BitVec.eq_of_toNat_eq same)
  case dueAll =>
    refine ⟨_, exec_restart_broadcast hears room all rfl, ?_⟩
    by_cases range : 1 ≤ k.toNat ∧ k.toNat ≤ 3
    · rw [serveRestart_due (s := s.heard) range.1 range.2 due]
      rfl
    · rw [serveRestart_badField (by omega), State.refuse, State.sequenceIdle_unless_due,
        if_pos (show s.heard.events.sequence = .due from due), State.setSequence_same (s := s.heard) due]
      rfl
  case lapse =>
    show Host.Outcome.next (if s.resetLow || decide (s.events.window < 1000) then s else s.sequenceIdle) = _
    rw [awake, decide_eq_false (Nat.not_lt.mpr passed), State.sequenceIdle_unless_due]
    rfl
  case early =>
    show Host.Outcome.next (if s.resetLow || decide (s.events.window < 1000) then s else s.sequenceIdle) = _
    rw [awake, decide_eq_true left]
    rfl

end Sys2Proof.Machine
end

section
/-!
PROOF. The bits of the events, EVENTS_SETUP and EVENTS_READ, and ATTN (R187, R189 to R191, R197).
-/

namespace Sys2Proof.Machine

/-! ### The bits of the events and of their groups (R187) -/

/-- The 21 events, in the order of the table in 11.1 (R187). -/
def allEvents : List Event :=
  [.stateChange, .cueFired, .cueComplete, .endOfList, .goIgnored, .flightRetired, .noticeOverflow, .restarted,
    .clockLocked, .clockRelocated, .clockFreewheel, .clockLost, .clockStopped, .markError, .wiperDisagree,
    .touchBlocked, .remapDone, .linkError, .linkSilence, .lineLate, .levelClamp]

theorem allEvents_index : allEvents.map Event.index = List.finRange 21 := by decide

/-- Every bit of the flags is some event's. -/
theorem Event.exists_index {k : Nat} (h : k < 21) : ∃ e : Event, e.index.val = k := by
  have mem : (⟨k, h⟩ : Fin 21) ∈ allEvents.map Event.index := by
    rw [allEvents_index]
    exact List.mem_finRange _
  obtain ⟨e, -, bit⟩ := List.mem_map.mp mem
  exact ⟨e, congrArg Fin.val bit⟩

/-- A set of events is empty when it holds none of the 21. -/
theorem flags_ne_zero_iff {flags : BitVec 21} : flags ≠ 0 ↔ ∃ e : Event, flags.getLsbD e.index.val = true := by
  constructor
  · intro ne
    by_contra clear
    refine ne (BitVec.eq_of_getLsbD_eq fun k hk => ?_)
    obtain ⟨e, rfl⟩ := Event.exists_index hk
    exact (Bool.eq_false_iff.mpr fun set => clear ⟨e, set⟩).trans BitVec.getLsbD_zero.symm
  · rintro ⟨e, set⟩ rfl
    cases BitVec.getLsbD_zero.symm.trans set

/-- The event of bit `k` belongs to group `g`. -/
def inGroup (g k : Nat) : Bool :=
  decide ((groupSpan g).1 ≤ k) && decide (k < (groupSpan g).1 + (groupSpan g).2)

/-- The flags of a group stand from bit 0 for its first event (R197). -/
theorem groupFlags_testBit (flags : BitVec 21) (g k : Nat) : (groupFlags flags g).testBit k =
    (decide (k < (groupSpan g).2) && flags.getLsbD ((groupSpan g).1 + k)) := by
  rw [groupFlags, Nat.testBit_mod_two_pow, Nat.testBit_div_two_pow, BitVec.testBit_toNat, Nat.add_comm]

/-- Clearing a group clears its flags and no other (R191). -/
theorem clearGroup_getLsbD (flags : BitVec 21) (g : Nat) {k : Nat} (hk : k < 21) :
    (clearGroup flags g).getLsbD k = (flags.getLsbD k && !inGroup g k) := by
  have mask : (BitVec.ofNat 21 ((2 ^ (groupSpan g).2 - 1) * 2 ^ (groupSpan g).1)).getLsbD k = inGroup g k := by
    rw [BitVec.getLsbD_ofNat, decide_eq_true hk, Bool.true_and, Nat.testBit_mul_two_pow,
      Nat.testBit_two_pow_sub_one, inGroup, Bool.eq_iff_iff]
    simp only [Bool.and_eq_true, decide_eq_true_eq]
    omega
  rw [clearGroup, BitVec.getLsbD_and, BitVec.getLsbD_not, mask, decide_eq_true hk, Bool.true_and]

/-- The flags of a group are not all clear when one of its events is pending. -/
theorem groupFlags_ne_zero_iff {flags : BitVec 21} {g : Nat} :
    groupFlags flags g ≠ 0 ↔ ∃ e : Event, flags.getLsbD e.index.val = true ∧
      (groupSpan g).1 ≤ e.index.val ∧ e.index.val < (groupSpan g).1 + (groupSpan g).2 := by
  constructor
  · intro ne
    obtain ⟨k, set⟩ := Nat.exists_testBit_of_ne_zero ne
    rw [groupFlags_testBit, Bool.and_eq_true, decide_eq_true_eq] at set
    obtain ⟨e, he⟩ := Event.exists_index (BitVec.lt_of_getLsbD set.2)
    exact ⟨e, he ▸ set.2, by omega, by omega⟩
  · rintro ⟨e, set, first, last⟩ zero
    have bit := groupFlags_testBit flags g (e.index.val - (groupSpan g).1)
    rw [zero, Nat.zero_testBit, Nat.add_sub_cancel' first, set, decide_eq_true (by omega)] at bit
    cases bit

/-- Bits 0 to 4 of the summary stand for the five groups (R191, R198). -/
theorem groupSummary_testBit (flags : BitVec 21) {h : Nat} (low : 1 ≤ h) (high : h ≤ 5) :
    (groupSummary flags).testBit (h - 1) = true ↔ groupFlags flags h ≠ 0 := by
  have share (g bit : Nat) : groupFlags flags g = 0 ∧ (if groupFlags flags g = 0 then 0 else bit) = 0 ∨
      groupFlags flags g ≠ 0 ∧ (if groupFlags flags g = 0 then 0 else bit) = bit := by
    split
    · exact .inl ⟨‹_›, rfl⟩
    · exact .inr ⟨‹_›, rfl⟩
  have sequencer := share 1 1
  have clock := share 2 2
  have surface := share 3 4
  have link := share 4 8
  have output := share 5 16
  rw [groupSummary, Nat.testBit_eq_decide_div_mod_eq, decide_eq_true_eq]
  obtain rfl | rfl | rfl | rfl | rfl : h = 1 ∨ h = 2 ∨ h = 3 ∨ h = 4 ∨ h = 5 := by omega
  all_goals omega

/-! ### EVENTS_SETUP (R190) -/

theorem Act.ofCode_code (a : Act) : Act.ofCode a.code = some a := by cases a <;> rfl

theorem Act.ofCode_eq_none {b : Byte} (h : 2 < b.toNat) : Act.ofCode b = Option.none := by
  unfold Act.ofCode
  split
  · omega
  · omega
  · omega
  · rfl

/-- The settings as a reply carries them are read back as they stand (R190, R197). -/
theorem parseEventsSetup_settings (v : Events) : parseEventsSetup (eventSettings v) =
    some ⟨v.enables.toNat + if v.noticeEnable then 2097152 else 0, v.actLost.code, v.actSilence.code,
      v.actLate.code⟩ := by
  have fits : (v.enables.toNat + if v.noticeEnable then 2097152 else 0) < 4294967296 := by
    have := v.enables.isLt
    split <;> omega
  exact congrArg (fun n => some (EventsSetup.mk n v.actLost.code v.actSilence.code v.actLate.code))
    (natOf_bytesOf_four fits)

theorem serveEventsSetup_settings (v : Events) (b : Bool) (s : State) :
    serveEventsSetup ⟨v.enables.toNat + if v.noticeEnable then 2097152 else 0, v.actLost.code, v.actSilence.code,
        v.actLate.code⟩ b s =
      (s.setEvents { s.events with
        enables := v.enables, noticeEnable := v.noticeEnable, actLost := v.actLost, actSilence := v.actSilence
        actLate := v.actLate }).reply .ok (eventSettings v) := by
  have small := v.enables.isLt
  have enables : BitVec.ofNat 21 (v.enables.toNat + if v.noticeEnable then 2097152 else 0) = v.enables := by
    refine BitVec.eq_of_toNat_eq ?_
    rw [BitVec.toNat_ofNat]
    split <;> omega
  have notice : decide ((v.enables.toNat + if v.noticeEnable then 2097152 else 0) / 2097152 % 2 = 1) =
      v.noticeEnable := by
    cases v.noticeEnable with
    | false => exact decide_eq_false (by rw [if_neg Bool.false_ne_true]; omega)
    | true => exact decide_eq_true (by rw [if_pos rfl]; omega)
  simp only [serveEventsSetup, Act.ofCode_code, enables, notice]
  rfl

/-- An unknown act code stores nothing. -/
theorem serveEventsSetup_badField {f : EventsSetup}
    (unknown : 2 < f.lost.toNat ∨ 2 < f.silence.toNat ∨ 2 < f.late.toNat) (b : Bool) (s : State) :
    serveEventsSetup f b s = s.refuse .badField := by
  unfold serveEventsSetup
  split
  · rename_i lost silence late
    rcases unknown with h | h | h
    · exact absurd ((Act.ofCode_eq_none h).symm.trans lost) nofun
    · exact absurd ((Act.ofCode_eq_none h).symm.trans silence) nofun
    · exact absurd ((Act.ofCode_eq_none h).symm.trans late) nofun
  · rfl

/-! ### EVENTS_READ (R191) -/

theorem exec_eventsRead {s : State} (h : s.Open) {g : Nat} (hg : g ≤ 5) :
    exec (.eventsRead .own [byte g]) s =
      .next ((s.setEvents { s.events with flags := clearGroup s.events.flags g }).heard.replying 0x09 .ok
        ((if g = 0 then [] else [byte (groupFlags s.events.flags g)]) ++
          [byte (groupSummary (clearGroup s.events.flags g)), byte s.seq.notices.length] ++
          eventSettings s.events)) := by
  refine State.request_replies h (f := byte g) rfl ?_
  simp only [serveEventsRead, toNat_byte (show g < 256 by omega), if_neg (Nat.not_lt.mpr hg),
    if_neg Bool.false_ne_true]
  rfl

/-- Settles O14: the bits of the events, the settings replaced, and a group read and cleared. -/
theorem eventRequests : Obligations.EventRequests := by
  refine ⟨by decide, by decide, groupFlags_testBit, fun s e => ⟨rfl, fun f => ⟨rfl, s.raise_flagged e f⟩⟩,
    fun s v h => State.request_replies h (parseEventsSetup_settings v) (serveEventsSetup_settings v false s.heard),
    fun s e3 e2 e1 e0 a b c h unknown => State.request_refuses h rfl (serveEventsSetup_badField unknown false s.heard),
    fun s k h high => State.request_refuses h (f := k) rfl (if_pos high),
    fun s g h hg => ⟨_, exec_eventsRead h hg, rfl, rfl, fun e => ?cleared, fun k low high => ?summary⟩⟩
  case cleared => exact clearGroup_getLsbD s.events.flags g e.index.isLt
  case summary => exact (groupSummary_testBit _ low high).trans groupFlags_ne_zero_iff

/-! ### ATTN (R189) -/

/-- Settles O15: an enabled flag is pending when the flags and the enables share an event. -/
theorem attentionFollows : Obligations.AttentionFollows := by
  intro s
  have pending : (s.events.flags &&& s.events.enables != 0) = true ↔
      ∃ e : Event, s.flagged e = true ∧ s.events.enables.getLsbD e.index.val = true := by
    rw [bne_iff_ne, flags_ne_zero_iff]
    simp only [BitVec.getLsbD_and, Bool.and_eq_true, State.flagged]
  have waits : (!s.seq.notices.isEmpty) = true ↔ s.seq.notices ≠ [] := by
    rw [Bool.not_eq_true', List.isEmpty_eq_false_iff]
  rw [State.attention, Bool.and_eq_true, Bool.or_eq_true, Bool.and_eq_true, Bool.not_eq_true', pending, waits]

end Sys2Proof.Machine
end

section
/-!
PROOF. O1: the command that a step takes (R192; log entries 1, 17 and 23).
-/

namespace Sys2Proof.Machine

section
variable {s : State}

/-- A character of TMIN is judged when none of LRX waits. -/
theorem State.nextCharacter_mark (awake : s.resetLow = false) (quiet : s.link.line = []) {h : MarkHeard}
    {rest : List MarkHeard} (line : s.clock.line = h :: rest) : s.nextCharacter = some (s.judgeMark h rest) := by
  rw [State.nextCharacter, awake, quiet, line]
  rfl

theorem State.nextCharacter_none (quiet : s.link.line = []) (still : s.clock.line = []) :
    s.nextCharacter = none := by
  unfold State.nextCharacter
  rw [quiet, still]
  split <;> rfl

/-! ### A step on an empty queue -/

theorem step_of_judged (idle : s.pending = []) {t : State} {c : Option Instr}
    (judged : s.nextCharacter = some (t, c)) : step s = c.elim (.next t) (exec · t) := by
  rw [step, idle, judged]
  cases c <;> rfl

/-- A timer, the restart window, a scan or a gap that has run out is taken before time passes (log entry 1). -/
theorem State.dueTimer_of_due (awake : s.resetLow = false)
    (due : s.waitDue = true ∨ s.clock.overdue = true ∨ s.clock.spent = true ∨ s.link.silent = true ∨
      (s.events.sequence = .step1 ∨ s.events.sequence = .step2) ∧ 1000 ≤ s.events.window ∨
      (∃ k, s.seq.scan = some k ∧ 40 ≤ k.age) ∨
      s.link.sending = none ∧ s.link.gapped = true ∨ s.clock.gapped = true) :
    ∃ c, s.dueTimer = some c ∧ c ≠ .clockAdvance := by
  cases h : s.dueTimer with
  | some c =>
    refine ⟨c, rfl, ?_⟩
    rintro rfl
    simpa using State.dueTimer_cases h
  | none =>
    unfold State.dueTimer at h
    repeat' split at h
    case isFalse.isFalse.isFalse.isFalse.isFalse.isFalse.isFalse.isFalse wait mark free silent window scan gap tmin =>
      exfalso
      rcases due with d | d | d | d | ⟨d, passed⟩ | ⟨k, d, passed⟩ | ⟨d, gapped⟩ | d
      · exact wait d
      · exact mark d
      · exact free d
      · exact silent d
      · exact window (by rw [State.stepping_iff.mpr d, decide_eq_true passed]; rfl)
      · exact scan (by rw [d]; exact decide_eq_true passed)
      · exact gap (by rw [State.Hears.hears ⟨awake, d⟩, gapped]; rfl)
      · exact tmin d
    all_goals cases h

theorem State.ownEvent_of_dueTimer (awake : s.resetLow = false) {c : Instr} (h : s.dueTimer = some c) :
    s.ownEvent = some c := by
  rw [State.ownEvent, awake, h]
  rfl

end

/-- Settles O1: the queue, the characters of LRX before those of TMIN, and the part's own event. -/
theorem stepTakesNext : Obligations.StepTakesNext := by
  refine ⟨fun c rest s queue => by rw [step, queue], fun s idle low => ?held, fun s idle awake =>
    ⟨fun h rest line => ⟨fun t judged => ?_, fun t c judged => ?_⟩,
      fun quiet h rest line => ⟨fun t judged => ?_, fun t c judged => ?_⟩, fun quiet still => ?own⟩⟩
  case held =>
    have silent : s.nextCharacter = none := by
      rw [State.nextCharacter, low]
      rfl
    have still : s.ownEvent = none := by
      rw [State.ownEvent, low]
      rfl
    rw [step, idle, silent, still]
  · exact step_of_judged idle ((State.nextCharacter_link awake line).trans (congrArg some judged))
  · exact step_of_judged idle ((State.nextCharacter_link awake line).trans (congrArg some judged))
  · exact step_of_judged idle ((State.nextCharacter_mark awake quiet line).trans (congrArg some judged))
  · exact step_of_judged idle ((State.nextCharacter_mark awake quiet line).trans (congrArg some judged))
  case own =>
    obtain ⟨c, own⟩ : ∃ c, s.ownEvent = some c := by
      rw [State.ownEvent, awake]
      exact ⟨_, rfl⟩
    refine ⟨c, own, ?_, fun due => ?_⟩
    · rw [step, idle, State.nextCharacter_none quiet still, own]
    · obtain ⟨d, timer, other⟩ := State.dueTimer_of_due awake due
      cases (State.ownEvent_of_dueTimer awake timer).symm.trans own
      exact other

end Sys2Proof.Machine
end

section
/-!
SUPPORT. No command looks at the queue of waiting commands: with another queue every reading is the same,
and every operation leaves the same state with that queue. So each lemma moves `setPending` outwards through
one operation, in the order of the model, and a branch or a fold does so when its parts do.
-/

namespace Sys2Proof.Machine

section
variable (s : State) (q : List Instr)

/-! ### The updates -/

@[simp] theorem State.setChannels_setPending (x : Tab 56 Channel) :
    (s.setPending q).setChannels x = (s.setChannels x).setPending q := rfl
@[simp] theorem State.setSeq_setPending (x : Sequencer) :
    (s.setPending q).setSeq x = (s.setSeq x).setPending q := rfl
@[simp] theorem State.setClock_setPending (x : Clock) :
    (s.setPending q).setClock x = (s.setClock x).setPending q := rfl
@[simp] theorem State.setSurface_setPending (x : Surface) :
    (s.setPending q).setSurface x = (s.setSurface x).setPending q := rfl
@[simp] theorem State.setLink_setPending (x : Link) :
    (s.setPending q).setLink x = (s.setLink x).setPending q := rfl
@[simp] theorem State.setResetLow_setPending (x : Bool) :
    (s.setPending q).setResetLow x = (s.setResetLow x).setPending q := rfl
@[simp] theorem State.setInputs_setPending (x : List Pins) :
    (s.setPending q).setInputs x = (s.setInputs x).setPending q := rfl
@[simp] theorem State.setChan_setPending (c : Chan) (r : Channel) :
    (s.setPending q).setChan c r = (s.setChan c r).setPending q := rfl
@[simp] theorem State.setArm_setPending (a : Arm) :
    (s.setPending q).setArm a = (s.setArm a).setPending q := rfl
@[simp] theorem State.setFader_setPending (f : Slot) (d : Fader) :
    (s.setPending q).setFader f d = (s.setFader f d).setPending q := rfl
@[simp] theorem State.raise_setPending (e : Event) :
    (s.setPending q).raise e = (s.raise e).setPending q := rfl

/-! ### Readings -/

@[simp] theorem State.advance_setPending : (s.setPending q).advance = s.advance := rfl
@[simp] theorem State.nextCue_setPending : (s.setPending q).nextCue = s.nextCue := rfl
@[simp] theorem State.firingArm_setPending : (s.setPending q).firingArm = s.firingArm := rfl
@[simp] theorem State.waitCause_setPending : (s.setPending q).waitCause = s.waitCause := rfl
@[simp] theorem State.entryFor_setPending : (s.setPending q).entryFor = s.entryFor := rfl
@[simp] theorem State.actFor_setPending : (s.setPending q).actFor = s.actFor := rfl
@[simp] theorem State.isBroadcast_setPending : (s.setPending q).isBroadcast = s.isBroadcast := rfl
@[simp] theorem State.backTarget_setPending : (s.setPending q).backTarget = s.backTarget := rfl
@[simp] theorem State.contact_setPending : (s.setPending q).contact = s.contact := rfl
@[simp] theorem State.fader_setPending : (s.setPending q).fader = s.fader := rfl
@[simp] theorem State.bankSlot_setPending : (s.setPending q).bankSlot = s.bankSlot := rfl
@[simp] theorem State.pendingFaders_setPending : (s.setPending q).pendingFaders = s.pendingFaders := rfl
@[simp] theorem State.shown_setPending : (s.setPending q).shown = s.shown := rfl

/-! ### Branches and folds -/

/-- A function leaves a branch when it leaves both of its sides. -/
theorem ite_eq_apply {α β : Type} (g : α → β) {p : Prop} [Decidable p] {a b : α} {a' b' : β}
    (yes : a' = g a) (no : b' = g b) : (if p then a' else b') = g (if p then a else b) :=
  (ite_congr rfl (fun _ => yes) fun _ => no).trans (apply_ite g p a b).symm

variable {q} in
/-- A branch moves the queue outwards when both of its sides do. -/
theorem State.ite_setPending {p : Prop} [Decidable p] {a b a' b' : State} (yes : a' = a.setPending q)
    (no : b' = b.setPending q) : (if p then a' else b') = (if p then a else b).setPending q :=
  ite_eq_apply (State.setPending · q) yes no

/-- An operation looks at no queue: with another queue it leaves the same state with that queue. -/
def RunsBlind (f : State → State) : Prop :=
  ∀ (s : State) (q : List Instr), f (s.setPending q) = (f s).setPending q

variable {q} in
/-- An operation after a branch moves the queue outwards when both sides of the branch do. -/
theorem RunsBlind.ite {f : State → State} (blind : RunsBlind f) {p : Prop} [Decidable p] {a b a' b' : State}
    (yes : a' = a.setPending q) (no : b' = b.setPending q) :
    f (if p then a' else b') = (f (if p then a else b)).setPending q :=
  (congrArg f (State.ite_setPending yes no)).trans (blind _ q)

/-- A fold whose every step moves the queue outwards does so as a whole. -/
theorem State.foldl_setPending {α : Type} {f : State → α → State}
    (h : ∀ (t : State) (a : α), f (t.setPending q) a = (f t a).setPending q) (l : List α) :
    l.foldl f (s.setPending q) = (l.foldl f s).setPending q :=
  List.foldl_hom (State.setPending · q) h

/-! ### The operations that several commands share -/

@[simp] theorem State.notify_setPending (n : Notice) :
    (s.setPending q).notify n = (s.notify n).setPending q :=
  State.ite_setPending rfl rfl

@[simp] theorem State.completeFiring_setPending (f : Firing) :
    (s.setPending q).completeFiring f = (s.completeFiring f).setPending q := by
  simp only [State.completeFiring, State.setPending_seq, State.setSeq_setPending, State.notify_setPending,
    State.raise_setPending]
  exact State.ite_setPending rfl rfl

@[simp] theorem State.countEnd_setPending (id : Nat) :
    (s.setPending q).countEnd id = (s.countEnd id).setPending q := by
  unfold State.countEnd
  simp only [State.setPending_seq]
  split
  · rfl
  · exact State.ite_setPending (by simp) rfl

@[simp] theorem State.reportEnd_setPending (o : Owner) :
    (s.setPending q).reportEnd o = (s.reportEnd o).setPending q := by
  cases o <;> simp [State.reportEnd]

@[simp] theorem State.reportActive_setPending (c : Chan) :
    (s.setPending q).reportActive c = (s.reportActive c).setPending q := by
  unfold State.reportActive
  simp only [State.setPending_chan]
  split <;> simp

@[simp] theorem State.completeMove_setPending (c : Chan) :
    (s.setPending q).completeMove c = (s.completeMove c).setPending q := by
  unfold State.completeMove
  simp only [State.setPending_chan]
  split <;> simp

@[simp] theorem State.startLevel_setPending (c : Chan) (target : Int) (duration : Nat) (curve : Curve)
    (base : Timebase) (owner : Owner) : (s.setPending q).startLevel c target duration curve base owner =
      (s.startLevel c target duration curve base owner).setPending q := by
  simp only [State.startLevel, State.reportActive_setPending, State.setPending_chan]
  exact State.ite_setPending (by simp) rfl

@[simp] theorem State.startMove_setPending (c : Chan) (p : PendingMove) :
    (s.setPending q).startMove c p = (s.startMove c p).setPending q := by
  unfold State.startMove
  split <;> simp

@[simp] theorem State.startHead_setPending (c : Chan) :
    (s.setPending q).startHead c = (s.startHead c).setPending q := by
  unfold State.startHead
  simp only [State.setPending_chan]
  split <;> simp

@[simp] theorem State.startDue_setPending (n : Nat) (c : Chan) :
    State.startDue n (s.setPending q) c = (State.startDue n s c).setPending q := by
  induction n generalizing s with
  | zero => rfl
  | succ n ih => exact State.ite_setPending (by simp [ih]) rfl

@[simp] theorem State.retireOldest_setPending :
    (s.setPending q).retireOldest = s.retireOldest.setPending q := by
  unfold State.retireOldest
  simp only [State.setPending_seq]
  split <;> simp

@[simp] theorem State.placeOn_setPending (cue : Cue) (id : Nat) (c : Chan) :
    (s.setPending q).placeOn cue id c = (s.placeOn cue id c).setPending q :=
  State.ite_setPending (by simp [State.foldl_setPending]) rfl

@[simp] theorem State.makeRoom_setPending : (s.setPending q).makeRoom = s.makeRoom.setPending q :=
  State.ite_setPending rfl (by simp)

@[simp] theorem State.enterFiring_setPending (cue : Cue) (cause : Cause) :
    (s.setPending q).enterFiring cue cause = (s.enterFiring cue cause).setPending q := rfl

@[simp] theorem State.placeFiring_setPending (cue : Cue) (id : Nat) :
    (s.setPending q).placeFiring cue id = (s.placeFiring cue id).setPending q := by
  simp [State.placeFiring, State.foldl_setPending]

@[simp] theorem State.announce_setPending (cue : Cue) (id : Nat) (cause : Cause) :
    (s.setPending q).announce cue id cause = (s.announce cue id cause).setPending q := by
  simp [State.announce]

@[simp] theorem State.fireSteps_setPending (cue : Cue) (cause : Cause) :
    (s.setPending q).fireSteps cue cause = (s.fireSteps cue cause).setPending q := by
  simp only [State.fireSteps, State.makeRoom_setPending]
  exact State.ite_setPending (by simp) (by simp)

@[simp] theorem State.startOwn_setPending (id : Nat) (c : Chan) :
    (s.setPending q).startOwn id c = (s.startOwn id c).setPending q := by
  unfold State.startOwn
  simp only [State.setPending_chan]
  split
  · rfl
  · exact State.ite_setPending (by simp) rfl

@[simp] theorem State.fire_setPending (cause : Cause) :
    (s.setPending q).fire cause = (s.fire cause).setPending q := by
  unfold State.fire
  simp only [State.nextCue_setPending]
  split <;> simp [State.foldl_setPending]

@[simp] theorem State.settle_setPending (n : Nat) :
    State.settle n (s.setPending q) = (State.settle n s).setPending q := by
  induction n generalizing s with
  | zero => rfl
  | succ n ih => exact State.ite_setPending (by simp [ih]) rfl

@[simp] theorem State.settled_setPending : (s.setPending q).settled = s.settled.setPending q := by
  simp [State.settled]

/-- The state before gives the form of its arm alone. -/
@[simp] theorem State.settledFrom_before_setPending (before : State) :
    s.settledFrom (before.setPending q) = s.settledFrom before := rfl

@[simp] theorem State.settledFrom_setPending (before : State) :
    (s.setPending q).settledFrom before = (s.settledFrom before).setPending q :=
  State.ite_setPending rfl (by simp)

@[simp] theorem State.fireChain_setPending (cause : Cause) :
    (s.setPending q).fireChain cause = (s.fireChain cause).setPending q := by
  simp [State.fireChain]

@[simp] theorem State.clearShow_setPending : (s.setPending q).clearShow = s.clearShow.setPending q := by
  simp [State.clearShow, State.foldl_setPending]

@[simp] theorem State.setShow_setPending (st : ShowState) :
    (s.setPending q).setShow st = (s.setShow st).setPending q :=
  State.ite_setPending rfl rfl

@[simp] theorem State.holdShow_setPending : (s.setPending q).holdShow = s.holdShow.setPending q :=
  State.ite_setPending (by simp) rfl

@[simp] theorem State.enterSafe_setPending : (s.setPending q).enterSafe = s.enterSafe.setPending q :=
  State.ite_setPending rfl ((congrArg State.clearShow (State.setShow_setPending (s.setSeq _) q .safe)).trans
    (State.clearShow_setPending _ q))

@[simp] theorem State.resumeShow_setPending :
    (s.setPending q).resumeShow = s.resumeShow.setPending q := by
  simp only [State.resumeShow, State.setShow_setPending]
  exact RunsBlind.ite State.settled_setPending rfl rfl

@[simp] theorem State.apply_setPending (a : Act) :
    (s.setPending q).apply a = (s.apply a).setPending q := by
  cases a <;> simp [State.apply]

@[simp] theorem State.takePowerOn_setPending (straps : BitVec 5) :
    (s.setPending q).takePowerOn straps = (s.takePowerOn straps).setPending q := rfl

@[simp] theorem State.raiseWithAct_setPending (e : Event) :
    (s.setPending q).raiseWithAct e = (s.raiseWithAct e).setPending q := by
  simp [State.raiseWithAct]

/-! ### Requests: how they are received and judged -/

/-- What serving leaves, with this queue. -/
def Served.setPending (v : Served) (q : List Instr) : Served := ⟨v.state.setPending q, v.answer⟩

@[simp] theorem State.reply_setPending (r : Result) (payload : List Byte) :
    (s.setPending q).reply r payload = (s.reply r payload).setPending q := rfl
@[simp] theorem State.refuse_setPending (r : Result) :
    (s.setPending q).refuse r = (s.refuse r).setPending q := rfl

variable {q} in
/-- A branch moves the queue outwards when both of its sides do. -/
theorem Served.ite_setPending {p : Prop} [Decidable p] {a b a' b' : Served} (yes : a' = a.setPending q)
    (no : b' = b.setPending q) : (if p then a' else b') = (if p then a else b).setPending q :=
  ite_eq_apply (Served.setPending · q) yes no

/-- Serving a request looks at no queue: with another queue it gives the same answer and the same state
with that queue. -/
def ServesBlind (serve : State → Served) : Prop :=
  ∀ (s : State) (q : List Instr), serve (s.setPending q) = (serve s).setPending q

@[simp] theorem State.goodRequest_setPending :
    (s.setPending q).goodRequest = s.goodRequest.setPending q := rfl

@[simp] theorem State.sequenceIdle_setPending :
    (s.setPending q).sequenceIdle = s.sequenceIdle.setPending q :=
  State.ite_setPending rfl rfl

@[simp] theorem State.enqueue_setPending (v : Served) (code : Byte) (broadcast : Bool) :
    State.enqueue (v.setPending q) code broadcast = (State.enqueue v code broadcast).setPending q :=
  State.ite_setPending rfl rfl

theorem judge_servesBlind {α : Type} {parsed : Option α} {serve : α → State → Served}
    {carried : State → List Byte} (blind : ∀ f, ServesBlind (serve f))
    (reads : ∀ (s : State) (q : List Instr), carried (s.setPending q) = carried s) :
    ServesBlind fun s => judge parsed serve s carried := by
  intro s q
  cases parsed with
  | none => simp [judge, reads]
  | some f => exact Served.ite_setPending (by simp [reads]) (blind f s q)

theorem State.receive_setPending {serve : Bool → State → Served} (blind : ∀ b, ServesBlind (serve b))
    (d : Dest) (code : Byte) :
    (s.setPending q).receive d code serve = (s.receive d code serve).setPending q := by
  refine State.ite_setPending ?_ rfl
  simp only [State.goodRequest_setPending]
  refine State.ite_setPending ?_ rfl
  rw [State.isBroadcast_setPending, blind, State.enqueue_setPending]

theorem query_servesBlind {α : Type} {answer : α → State → Answer}
    (reads : ∀ (f : α) (s : State) (q : List Instr), answer f (s.setPending q) = answer f s) (f : α)
    (b : Bool) : ServesBlind (query answer f b) :=
  fun s q => congrArg (fun a => Served.mk (s.setPending q) (some a)) (reads f s q)

/-! ### What each request does -/

theorem serveLinkSetup_servesBlind (f : LinkSetup) (b : Bool) : ServesBlind (serveLinkSetup f b) := by
  intro s q
  cases b <;> rfl

theorem serveEventsSetup_servesBlind (f : EventsSetup) (b : Bool) : ServesBlind (serveEventsSetup f b) := by
  intro s q
  unfold serveEventsSetup
  split <;> rfl

theorem serveEventsRead_servesBlind (g : Byte) (b : Bool) : ServesBlind (serveEventsRead g b) :=
  fun _ _ => Served.ite_setPending rfl (Served.ite_setPending rfl rfl)

theorem serveRestart_servesBlind (step : Nat) (b : Bool) : ServesBlind (serveRestart step b) := by
  intro s q
  refine Served.ite_setPending (by simp) ?_
  simp only [State.setPending_events]
  split
  · exact Served.ite_setPending rfl rfl
  · exact Served.ite_setPending rfl rfl
  · exact Served.ite_setPending (Served.ite_setPending rfl rfl) rfl
  · rfl

theorem serveChannelSetup_servesBlind (f : ChannelSetup) (b : Bool) :
    ServesBlind (serveChannelSetup f b) := by
  intro s q
  unfold serveChannelSetup
  split
  · rfl
  · split <;> rfl

theorem serveTrim_servesBlind (f : TrimBody) (b : Bool) : ServesBlind (serveTrim f b) := by
  intro s q
  unfold serveTrim
  split <;> rfl

theorem serveMuteRemote_servesBlind (f : MuteRemote) (b : Bool) : ServesBlind (serveMuteRemote f b) := by
  intro s q
  unfold serveMuteRemote
  split <;> rfl

theorem serveLevel_servesBlind (f : LevelBody) (b : Bool) : ServesBlind (serveLevel f b) := by
  intro s q
  unfold serveLevel
  split
  · simp
  · rfl

theorem serveCuePut_servesBlind (f : CuePut) (b : Bool) : ServesBlind (serveCuePut f b) := by
  intro s q
  unfold serveCuePut
  split
  · exact Served.ite_setPending rfl (Served.ite_setPending rfl (Served.ite_setPending rfl
      (Served.ite_setPending rfl rfl)))
  · rfl

theorem serveMovesAdd_servesBlind (f : MovesAdd) (b : Bool) : ServesBlind (serveMovesAdd f b) := by
  intro s q
  refine Served.ite_setPending rfl (Served.ite_setPending rfl (Served.ite_setPending rfl ?_))
  simp only [State.setPending_cues]
  split
  · rfl
  · exact Served.ite_setPending rfl (Served.ite_setPending rfl (Served.ite_setPending rfl
      (Served.ite_setPending rfl rfl)))

@[simp] theorem State.deleteCue_setPending (n : Nat) :
    (s.setPending q).deleteCue n = (s.deleteCue n).setPending q :=
  State.ite_setPending rfl rfl

theorem serveCueDelete_servesBlind (n : Nat) (b : Bool) : ServesBlind (serveCueDelete n b) :=
  fun _ _ => Served.ite_setPending rfl (Served.ite_setPending rfl (Served.ite_setPending rfl
    (Served.ite_setPending rfl (by simp))))

theorem serveListClear_servesBlind (f : Unit) (b : Bool) : ServesBlind (serveListClear f b) :=
  fun _ _ => Served.ite_setPending rfl (Served.ite_setPending rfl rfl)

theorem serveShowStart_servesBlind (f : Unit) (b : Bool) : ServesBlind (serveShowStart f b) := by
  intro s q
  refine Served.ite_setPending rfl (Served.ite_setPending rfl (Served.ite_setPending rfl ?_))
  simp only [State.setShow_setPending]
  rfl

theorem serveShowEnd_servesBlind (f : Unit) (b : Bool) : ServesBlind (serveShowEnd f b) :=
  fun _ _ => Served.ite_setPending rfl (Served.ite_setPending rfl (Served.ite_setPending rfl (by simp)))

/-- What became of a GO, with this queue. -/
def GoOutcome.setPending (o : GoOutcome) (q : List Instr) : GoOutcome :=
  ⟨o.state.setPending q, o.result, o.fired⟩

variable {q} in
/-- A branch moves the queue outwards when both of its sides do. -/
theorem GoOutcome.ite_setPending {p : Prop} [Decidable p] {a b a' b' : GoOutcome} (yes : a' = a.setPending q)
    (no : b' = b.setPending q) : (if p then a' else b') = (if p then a else b).setPending q :=
  ite_eq_apply (GoOutcome.setPending · q) yes no

@[simp] theorem State.go_setPending (cause : Cause) (expected : Nat) :
    (s.setPending q).go cause expected = (s.go cause expected).setPending q := by
  refine GoOutcome.ite_setPending rfl ?_
  simp only [State.setPending_seq]
  split
  · rfl
  · rfl
  · exact GoOutcome.ite_setPending (by simp [GoOutcome.setPending]) rfl
  · refine GoOutcome.ite_setPending ?_ rfl
    split
    · rfl
    · exact GoOutcome.ite_setPending rfl (by simp [GoOutcome.setPending])

theorem serveGo_servesBlind (n : Nat) (b : Bool) : ServesBlind (serveGo n b) := by
  intro s q
  unfold serveGo
  rw [State.go_setPending]
  by_cases above : 9999 < n
  · simp only [above, if_true]
    rfl
  · simp only [above, if_false]
    rfl

theorem State.back_setPending :
    (s.setPending q).back = s.back.map (State.setPending · q) id := by
  refine ite_eq_apply _ rfl (ite_eq_apply _ rfl ?_)
  simp only [State.backTarget_setPending]
  split <;> rfl

theorem serveBack_servesBlind (f : Unit) (b : Bool) : ServesBlind (serveBack f b) := by
  intro s q
  unfold serveBack
  rw [State.back_setPending]
  rfl

theorem serveHold_servesBlind (f : Unit) (b : Bool) : ServesBlind (serveHold f b) :=
  fun _ _ => Served.ite_setPending (by simp) rfl

theorem serveResume_servesBlind (f : Unit) (b : Bool) : ServesBlind (serveResume f b) :=
  fun _ _ => Served.ite_setPending (by simp) rfl

theorem serveStop_servesBlind (f : Unit) (b : Bool) : ServesBlind (serveStop f b) :=
  fun _ _ => Served.ite_setPending (by simp) rfl

theorem serveSafe_servesBlind (f : Unit) (b : Bool) : ServesBlind (serveSafe f b) := by
  intro s q
  simp [serveSafe]

@[simp] theorem State.leaveSafe_setPending :
    (s.setPending q).leaveSafe = s.leaveSafe.setPending q := by
  simp only [State.leaveSafe, State.setPending_seq, State.setShow_setPending, State.setSeq_setPending]
  exact State.ite_setPending rfl rfl

theorem serveSafeRelease_servesBlind (f : Unit) (b : Bool) : ServesBlind (serveSafeRelease f b) :=
  fun _ _ => Served.ite_setPending (by simp) rfl

theorem serveGoto_servesBlind (f : GotoBody) (b : Bool) : ServesBlind (serveGoto f b) :=
  fun _ _ => Served.ite_setPending rfl (Served.ite_setPending rfl (Served.ite_setPending rfl rfl))

theorem serveNoticesRead_servesBlind (k : Byte) (b : Bool) : ServesBlind (serveNoticesRead k b) :=
  fun _ _ => Served.ite_setPending rfl (Served.ite_setPending rfl rfl)

@[simp] theorem State.loseClock_setPending : (s.setPending q).loseClock = s.loseClock.setPending q := by
  simp [State.loseClock]

@[simp] theorem State.timeoutClock_setPending :
    (s.setPending q).timeoutClock = s.timeoutClock.setPending q := by
  unfold State.timeoutClock
  simp only [State.setPending_clock]
  split
  · rfl
  · exact State.ite_setPending (s.loseClock_setPending q) rfl
  all_goals rfl

@[simp] theorem State.judgeTimers_setPending :
    (s.setPending q).judgeTimers = s.judgeTimers.setPending q :=
  State.ite_setPending (by simp) (State.ite_setPending (by simp) rfl)

theorem serveClockSetup_servesBlind (f : ClockConfig) (b : Bool) : ServesBlind (serveClockSetup f b) := by
  intro s q
  simp [serveClockSetup]

/-! ### The fader surface -/

@[simp] theorem State.takeTouch_setPending (f : Slot) :
    (s.setPending q).takeTouch f = (s.takeTouch f).setPending q := by
  unfold State.takeTouch
  simp only [State.fader_setPending, State.setPending_chan]
  split
  · rfl
  · split <;> rfl

@[simp] theorem State.handBack_setPending (c : Chan) (h : Int) :
    (s.setPending q).handBack c h = (s.handBack c h).setPending q := by
  unfold State.handBack
  simp only [State.setPending_chan, State.reportActive_setPending]
  split <;> rfl

@[simp] theorem State.remap_setPending (f : Slot) :
    (s.setPending q).remap f = (s.remap f).setPending q := by
  unfold State.remap
  simp only [State.fader_setPending]
  split <;> rfl

@[simp] theorem State.releaseFader_setPending (f : Slot) :
    (s.setPending q).releaseFader f = (s.releaseFader f).setPending q := by
  unfold State.releaseFader
  simp only [State.fader_setPending]
  split
  · rfl
  · simp
  · split <;> simp

@[simp] theorem State.mapFree_setPending (f : Slot) (m : Option Chan) :
    (s.setPending q).mapFree f m = (s.mapFree f m).setPending q :=
  State.ite_setPending (by simp) rfl

@[simp] theorem State.applySlot_setPending (f : Slot) (m : Option Chan) :
    (s.setPending q).applySlot f m = (s.applySlot f m).setPending q := by
  unfold State.applySlot
  simp only [State.fader_setPending]
  split
  · simp
  · rfl
  · rfl

@[simp] theorem State.applyBank_setPending :
    (s.setPending q).applyBank = s.applyBank.setPending q := by
  refine State.foldl_setPending s q (fun t f => ?_) allSlots
  exact State.ite_setPending (by simp) rfl

@[simp] theorem State.modeChanged_setPending :
    (s.setPending q).modeChanged = s.modeChanged.setPending q := by
  simp only [State.modeChanged, State.setPending_surface, State.setSurface_setPending]
  split
  · exact State.foldl_setPending _ q (fun _ _ => by simp [State.retireSlot]) upperSlots
  · exact State.foldl_setPending _ q (fun _ _ => by simp [State.reviveSlot]) upperSlots

theorem serveBankPut_servesBlind (f : BankPut) (b : Bool) : ServesBlind (serveBankPut f b) := by
  intro s q
  unfold serveBankPut
  split
  next k bank _ _ =>
    refine Served.ite_setPending rfl ?_
    exact congrArg (fun t : State => t.reply .ok (bankBytes bank ++ [byte t.pendingFaders]))
      (State.ite_setPending (by simp) rfl)
  · rfl

theorem serveBankSelect_servesBlind (k : Byte) (b : Bool) : ServesBlind (serveBankSelect k b) := by
  intro s q
  unfold serveBankSelect
  split
  · rfl
  · simp

theorem serveSurfaceSetup_servesBlind (f : SurfaceSetup) (b : Bool) :
    ServesBlind (serveSurfaceSetup f b) := by
  intro s q
  unfold serveSurfaceSetup
  split
  · rfl
  · exact congrArg (State.reply · _ _) (State.ite_setPending rfl (by simp))

theorem serveContactSetup_servesBlind (f : ContactSetup) (b : Bool) :
    ServesBlind (serveContactSetup f b) := by
  intro s q
  unfold serveContactSetup
  split <;> rfl

theorem serveOutputSetup_servesBlind (f : OutputSetup) (b : Bool) :
    ServesBlind (serveOutputSetup f b) :=
  fun _ _ => Served.ite_setPending rfl rfl

theorem serveRoutePut_servesBlind (f : RoutePut) (b : Bool) : ServesBlind (serveRoutePut f b) := by
  intro s q
  unfold serveRoutePut
  simp only [State.setPending_output]
  split
  · rfl
  · split
    · rfl
    · split <;> rfl

/-! ### Faults on the link -/

theorem State.linkFault_setPending (after : Receiver) (quiet : Nat) (count : Link → Link) :
    (s.setPending q).linkFault after quiet count = (s.linkFault after quiet count).setPending q :=
  State.ite_setPending rfl rfl

/-! ### Touch lines, mute keys and scan passes -/

@[simp] theorem State.handOn_setPending (f : Slot) :
    (s.setPending q).handOn f = (s.handOn f).setPending q :=
  State.ite_setPending (by simp) rfl

@[simp] theorem State.handOff_setPending (f : Slot) :
    (s.setPending q).handOff f = (s.handOff f).setPending q :=
  State.ite_setPending (by simp) rfl

@[simp] theorem State.keyOn_setPending (f : Slot) :
    (s.setPending q).keyOn f = (s.keyOn f).setPending q := by
  refine State.ite_setPending ?_ rfl
  unfold State.toggleOperator
  simp only [State.fader_setPending]
  split <;> rfl

@[simp] theorem State.touchChanged_setPending (f : Slot) (active : Bool) :
    (s.setPending q).touchChanged f active = (s.touchChanged f active).setPending q := rfl

@[simp] theorem State.keyChanged_setPending (f : Slot) (active : Bool) :
    (s.setPending q).keyChanged f active = (s.keyChanged f active).setPending q := rfl

@[simp] theorem State.takeReading_setPending (f : Slot) (reading : Nat) :
    (s.setPending q).takeReading f reading = (s.takeReading f reading).setPending q := by
  refine State.ite_setPending ?_ rfl
  simp only [State.fader_setPending]
  split <;> rfl

@[simp] theorem State.passFader_setPending (readings : Tab 16 (BitVec 10)) (f : Slot) :
    (s.setPending q).passFader readings f = (s.passFader readings f).setPending q := by
  unfold State.passFader
  simp only [State.setPending_surface]
  split
  · simp
  · exact State.ite_setPending (State.ite_setPending (by simp) (State.ite_setPending rfl rfl)) rfl

/-! ### The cue contacts -/

@[simp] theorem State.judgedPress_setPending (r : Result) :
    (s.setPending q).judgedPress r = (s.judgedPress r).setPending q :=
  State.ite_setPending rfl rfl

@[simp] theorem State.contactGo_setPending :
    (s.setPending q).contactGo = s.contactGo.setPending q := by
  rw [State.contactGo, State.go_setPending]
  exact State.judgedPress_setPending _ q _

@[simp] theorem State.contactBack_setPending :
    (s.setPending q).contactBack = s.contactBack.setPending q := by
  rw [State.contactBack, State.back_setPending]
  exact State.judgedPress_setPending _ q _

theorem State.press_setPending {act : State → State} (blind : RunsBlind act) (l : ContactLine) :
    (s.setPending q).press l act = (s.press l act).setPending q :=
  State.ite_setPending rfl (blind (s.contactChanged l true) q)

/-! ### The show clock -/

@[simp] theorem State.takeCrossing_setPending :
    (s.setPending q).takeCrossing = s.takeCrossing.setPending q :=
  State.ite_setPending (by simp) rfl

@[simp] theorem State.correct_setPending (m : Nat) :
    (s.setPending q).correct m = (s.correct m).setPending q :=
  State.ite_setPending (RunsBlind.ite State.takeCrossing_setPending rfl rfl) (State.ite_setPending rfl rfl)

@[simp] theorem State.runningMark_setPending (song m : Nat) :
    (s.setPending q).runningMark song m = (s.runningMark song m).setPending q :=
  State.ite_setPending rfl (by simp)

@[simp] theorem State.stoppedMark_setPending (song m : Nat) :
    (s.setPending q).stoppedMark song m = (s.stoppedMark song m).setPending q :=
  State.ite_setPending rfl rfl

/-! ### Scans -/

@[simp] theorem State.loadScan_setPending (k : Scan) :
    (s.setPending q).loadScan k = (s.loadScan k).setPending q := by
  simp only [State.loadScan, State.clearShow_setPending]
  exact State.ite_setPending rfl rfl

/-! ### Frames -/

@[simp] theorem State.startPeriod_setPending :
    (s.setPending q).startPeriod = s.startPeriod.setPending q := rfl

@[simp] theorem State.countFrame_setPending :
    (s.setPending q).countFrame = s.countFrame.setPending q := rfl

@[simp] theorem State.formChannels_setPending (f : Nat) :
    (s.setPending q).formChannels f = (s.formChannels f).setPending q :=
  State.ite_setPending rfl rfl

@[simp] theorem State.placeFrames_setPending (t : State) :
    (s.setPending q).placeFrames (t.setPending q) = (s.placeFrames t).setPending q := rfl

@[simp] theorem State.raiseLate_setPending (t : State) :
    (s.setPending q).raiseLate (t.setPending q) = (s.raiseLate t).setPending q := by
  refine State.foldl_setPending t q (fun u n => ?_) (List.finRange 4)
  exact State.ite_setPending (by simp) rfl

@[simp] theorem State.frameEvent_setPending :
    (s.setPending q).frameEvent = s.frameEvent.setPending q := by
  simp [State.frameEvent]

@[simp] theorem State.sendEnd_setPending (l : OutLine) :
    (s.setPending q).sendEnd l = (s.sendEnd l).setPending q := by
  cases l
  all_goals
    simp only [State.sendEnd, State.setPending_output]
    split <;> rfl

/-! ### The wall millisecond -/

@[simp] theorem State.activeTick_setPending (c : Chan) :
    (s.setPending q).activeTick c = (s.activeTick c).setPending q := by
  unfold State.activeTick
  simp only [State.setPending_chan]
  split
  · rfl
  · exact State.ite_setPending (State.ite_setPending (by simp) rfl) rfl

@[simp] theorem State.pendingTick_setPending (c : Chan) :
    (s.setPending q).pendingTick c = (s.pendingTick c).setPending q := by
  unfold State.pendingTick
  simp only [State.setPending_chan]
  split
  · rfl
  · exact State.ite_setPending (by simp) rfl

@[simp] theorem State.tickCounters_setPending :
    (s.setPending q).tickCounters = s.tickCounters.setPending q := rfl

@[simp] theorem State.glide_setPending : (s.setPending q).glide = s.glide.setPending q := rfl

@[simp] theorem State.armTick_setPending : (s.setPending q).armTick = s.armTick.setPending q := by
  unfold State.armTick
  simp only [State.setPending_seq]
  split
  · rfl
  · rfl
  · rfl
  · exact State.ite_setPending rfl rfl

@[simp] theorem State.allMoves_setPending : (s.setPending q).allMoves = s.allMoves.setPending q :=
  State.foldl_setPending s q (fun _ _ => by simp [State.movesTick]) allChans

@[simp] theorem State.advanceAll_setPending :
    (s.setPending q).advanceAll = s.advanceAll.setPending q := by
  simp only [State.advanceAll, State.tickCounters_setPending, State.glide_setPending,
    State.armTick_setPending, State.allMoves_setPending, State.settledFrom_setPending,
    State.settledFrom_before_setPending]
  exact State.ite_setPending (by simp) rfl

@[simp] theorem State.sampled_setPending (x : Pins) :
    (s.setPending q).sampled x = (s.sampled x).setPending q := rfl

@[simp] theorem State.touchActs_setPending (f : Slot) (old : Bool) :
    (s.setPending q).touchActs f old = (s.touchActs f old).setPending q := by
  unfold State.touchActs
  simp only [State.setPending_surface]
  split <;> simp

@[simp] theorem State.keyActs_setPending (f : Slot) (old : Bool) :
    (s.setPending q).keyActs f old = (s.keyActs f old).setPending q :=
  State.ite_setPending (by simp) rfl

@[simp] theorem State.contactRequest_setPending (l : ContactLine) :
    (s.setPending q).contactRequest l = (s.contactRequest l).setPending q := by
  cases l <;> simp [State.contactRequest]

@[simp] theorem State.contactActs_setPending (l : ContactLine) (old : Bool) :
    (s.setPending q).contactActs l old = (s.contactActs l old).setPending q :=
  State.ite_setPending (by simp) rfl

@[simp] theorem State.sampleAll_setPending (x : Pins) :
    (s.setPending q).sampleAll x = (s.sampleAll x).setPending q := by
  simp [State.sampleAll, State.foldl_setPending]

@[simp] theorem State.takePins_setPending (x : Pins) :
    (s.setPending q).takePins x = (s.takePins x).setPending q := rfl

end

/-! ### Every command -/

/-- A command completes, and looks at no queue. -/
def QueueApart (run : State → Host.Outcome State Fault Refusal) : Prop :=
  ∃ f : State → State, (∀ s, run s = .next (f s)) ∧ RunsBlind f

theorem QueueApart.of {f : State → State} (blind : RunsBlind f) : QueueApart fun s => .next (f s) :=
  ⟨f, fun _ => rfl, blind⟩

theorem QueueApart.request {α : Type} {serve : α → Bool → State → Served}
    (blind : ∀ f b, ServesBlind (serve f b)) {d : Dest} {code : Byte} {parsed : Option α}
    {carried : State → List Byte}
    (reads : ∀ (s : State) (q : List Instr), carried (s.setPending q) = carried s := by exact fun _ _ => rfl) :
    QueueApart fun s => .next (s.request d code parsed serve carried) :=
  .of fun s q => s.receive_setPending q (fun b => judge_servesBlind (fun f => blind f b) reads) d code

theorem QueueApart.query {α : Type} {answer : α → State → Answer} {d : Dest} {code : Byte}
    {parsed : Option α}
    (reads : ∀ (f : α) (s : State) (q : List Instr), answer f (s.setPending q) = answer f s) :
    QueueApart fun s => .next (s.request d code parsed (query answer)) :=
  .request fun f b => query_servesBlind reads f b

theorem execRestart_queueApart (d : Dest) (body : List Byte) : QueueApart (execRestart d body) := by
  refine .of fun s q => State.receive_setPending s q (fun b t r => ?_) d 0x0A
  split
  · simp
  · exact serveRestart_servesBlind _ b t r

theorem execReplySend_queueApart : QueueApart execReplySend := by
  refine .of fun s q => State.ite_setPending ?_ rfl
  simp only [State.setPending_link]
  split <;> rfl

theorem execReplyEnd_queueApart : QueueApart execReplyEnd := by
  refine .of fun s q => State.ite_setPending rfl ?_
  simp only [State.setPending_link]
  split
  · rfl
  · split <;> rfl

theorem execTimeMark_queueApart (song : Byte) (position : BitVec 32) (flags check : Byte) :
    QueueApart (execTimeMark song position flags check) :=
  .of fun _ _ => State.ite_setPending rfl (State.ite_setPending rfl (State.ite_setPending rfl
    (State.ite_setPending (by simp) (by simp))))

theorem execGotoComplete_queueApart : QueueApart execGotoComplete := by
  refine .of fun s q => State.ite_setPending rfl ?_
  simp only [State.setPending_seq, State.loadScan_setPending]
  split <;> rfl

theorem execMoveStart_queueApart (c : Chan) : QueueApart (execMoveStart c) := by
  refine .of fun s q => State.ite_setPending rfl ?_
  simp only [State.setPending_chan]
  split
  · rfl
  · exact State.ite_setPending (by simp) rfl

theorem execMoveComplete_queueApart (c : Chan) : QueueApart (execMoveComplete c) := by
  refine .of fun s q => State.ite_setPending rfl ?_
  simp only [State.setPending_chan]
  split
  · rfl
  · exact State.ite_setPending (by simp) rfl

theorem execPassEnd_queueApart (readings : Tab 16 (BitVec 10)) : QueueApart (execPassEnd readings) :=
  .of fun s q => State.ite_setPending rfl (State.foldl_setPending
    (s.setSurface { s.surface with wipers := readings, passLeft := s.surface.cfg.period }) q
    (fun _ _ => by simp) allSlots)

theorem execResetPin_queueApart (straps : BitVec 5) : QueueApart (execResetPin straps) :=
  .of fun _ _ => State.ite_setPending rfl
    (RunsBlind.ite (f := (State.setResetLow · true)) (State.setResetLow_setPending · · true) rfl rfl)

theorem exec_queueApart : ∀ i, QueueApart (exec i)
  | .nop _ _ => .query fun _ _ _ => rfl
  | .linkSetup _ _ => .request serveLinkSetup_servesBlind
  | .linkQuery _ _ => .query fun _ _ _ => rfl
  | .eventsSetup _ _ => .request serveEventsSetup_servesBlind
  | .eventsRead _ _ => .request serveEventsRead_servesBlind
  | .restart d body => execRestart_queueApart d body
  | .restartQuery _ _ => .query fun _ _ _ => rfl
  | .channelSetup _ _ => .request serveChannelSetup_servesBlind
  | .trim _ _ => .request serveTrim_servesBlind
  | .muteRemote _ _ => .request serveMuteRemote_servesBlind
  | .channelQuery _ _ => .query fun _ _ _ => rfl
  | .level _ _ => .request serveLevel_servesBlind
  | .cuePut _ _ => .request serveCuePut_servesBlind
  | .movesAdd _ _ => .request serveMovesAdd_servesBlind
  | .cueDelete _ _ => .request serveCueDelete_servesBlind
  | .listClear _ _ => .request serveListClear_servesBlind
  | .cueQuery _ _ => .query fun _ _ _ => rfl
  | .movesQuery _ _ => .query fun _ _ _ => rfl
  | .listQuery _ _ => .query fun _ _ _ => rfl
  | .showStart _ _ => .request serveShowStart_servesBlind
  | .showEnd _ _ => .request serveShowEnd_servesBlind
  | .go _ _ => .request serveGo_servesBlind
  | .back _ _ => .request serveBack_servesBlind
  | .hold _ _ => .request serveHold_servesBlind
  | .resume _ _ => .request serveResume_servesBlind
  | .stop _ _ => .request serveStop_servesBlind
  | .safe _ _ => .request serveSafe_servesBlind
  | .safeRelease _ _ => .request serveSafeRelease_servesBlind
  | .gotoCue _ _ => .request serveGoto_servesBlind
  | .noticesRead _ _ => .request serveNoticesRead_servesBlind
  | .showQuery _ _ => .query fun _ _ _ => rfl
  | .clockSetup _ _ => .request serveClockSetup_servesBlind
  | .clockQuery _ _ => .query fun _ _ _ => rfl
  | .surfaceSetup _ _ => .request serveSurfaceSetup_servesBlind
  | .bankPut _ _ => .request serveBankPut_servesBlind
  | .bankSelect _ _ => .request serveBankSelect_servesBlind
  | .surfaceQuery _ _ => .query fun _ _ _ => rfl
  | .contactSetup _ _ => .request serveContactSetup_servesBlind
  | .contactQuery _ _ => .query fun _ _ _ => rfl
  | .outputSetup _ _ => .request serveOutputSetup_servesBlind
  | .routePut _ _ => .request serveRoutePut_servesBlind
  | .routeQuery _ _ => .query fun _ _ _ => rfl
  | .outputQuery _ _ => .query fun _ _ _ => rfl
  | .unknownType d code _ => .of fun s q => s.receive_setPending q (fun _ _ _ => by simp) d code
  | .requestOverrun => .of fun _ _ => State.ite_setPending rfl rfl
  | .linkFramingFault => .of fun s q => s.linkFault_setPending q _ _ _
  | .linkGapFault => .of fun s q => s.linkFault_setPending q _ _ _
  | .linkFormFault _ => .of fun s q => s.linkFault_setPending q _ _ _
  | .linkCheckFault => .of fun s q => s.linkFault_setPending q _ _ _
  | .replySend => execReplySend_queueApart
  | .replyEnd => execReplyEnd_queueApart
  | .linkSilence => .of fun _ _ => State.ite_setPending rfl (by simp)
  | .restartWindowLapse => .of fun s q => State.ite_setPending rfl (s.sequenceIdle_setPending q)
  | .powerOn straps => .of fun s q => s.takePowerOn_setPending q straps
  | .resetPin straps => execResetPin_queueApart straps
  | .resetPinRelease => .of fun s q => s.setResetLow_setPending q false
  | .timeMark song position flags check => execTimeMark_queueApart song position flags check
  | .markFramingFault => .of fun _ _ => State.ite_setPending rfl rfl
  | .markGapFault => .of fun _ _ => State.ite_setPending rfl rfl
  | .markTimeout => .of fun s q => State.ite_setPending rfl (s.timeoutClock_setPending q)
  | .freewheelLimit => .of fun s q => State.ite_setPending rfl (s.loseClock_setPending q)
  | .clockAdvance => .of fun _ _ => State.ite_setPending rfl (by simp)
  | .waitExpiry => .of fun s q => State.ite_setPending rfl (s.fireChain_setPending q s.waitCause)
  | .gotoComplete => execGotoComplete_queueApart
  | .moveStart c => execMoveStart_queueApart c
  | .moveComplete c => execMoveComplete_queueApart c
  | .passEnd readings => execPassEnd_queueApart readings
  | .qualifiedTouch f => .of fun s q => State.ite_setPending rfl ((s.touchChanged f true).handOn_setPending q f)
  | .qualifiedRelease f => .of fun s q => State.ite_setPending rfl ((s.touchChanged f false).handOff_setPending q f)
  | .keyPress f => .of fun s q => State.ite_setPending rfl ((s.keyChanged f true).keyOn_setPending q f)
  | .keyRelease _ => .of fun _ _ => State.ite_setPending rfl rfl
  | .contactGoPress => .of fun s q => s.press_setPending q State.contactGo_setPending .cgo
  | .contactBackPress => .of fun s q => s.press_setPending q State.contactBack_setPending .cback
  | .contactHoldPress => .of fun s q => s.press_setPending q State.holdShow_setPending .chold
  | .contactSafePress => .of fun s q => s.press_setPending q State.enterSafe_setPending .csafe
  | .contactRelease _ => .of fun _ _ => State.ite_setPending rfl rfl
  | .frameEvent => .of fun s q => State.ite_setPending rfl (s.frameEvent_setPending q)
  | .sendEnd l => .of fun s q => State.ite_setPending rfl (s.sendEnd_setPending q l)
  | .trafficForOtherParts => .of fun s q => State.ite_setPending
      (State.ite_setPending rfl (s.linkFault_setPending q _ _ _)) rfl

/-- An operation that looks at no queue leaves the queue it found. -/
theorem RunsBlind.pending {f : State → State} (blind : RunsBlind f) (s : State) :
    (f s).pending = s.pending :=
  calc (f s).pending = ((f s).setPending s.pending).pending := congrArg State.pending (blind s s.pending)
    _ = s.pending := rfl

/-- Settles O2: each command moves the queue outwards, so it keeps what it finds there. -/
theorem queueUntouched : Obligations.QueueUntouched := by
  intro i s
  obtain ⟨f, completes, blind⟩ := exec_queueApart i
  exact ⟨f s, completes s, blind.pending s, fun q => (completes _).trans (congrArg _ (blind s q))⟩

end Sys2Proof.Machine
end
